-- ==== Sys2Proof/Word.lean ====
section
/-! DEFINITION. The widths the spec names (00_scope R10, R13): byte, word, long word. -/

namespace Sys2Proof

/-- A byte (8 bits). -/
abbrev Byte := BitVec 8

/-- A word (16 bits), the unit of the instruction stream. -/
abbrev Word := BitVec 16

/-- A long word (32 bits): register contents, logical and physical addresses. -/
abbrev Long := BitVec 32

end Sys2Proof
end

