-- ==== Sys2Proof/Syntax.lean ====
section
/-! DEFINITION. The syntax of the MC68040's instructions: effective addresses (30_encoding R452 to R465), the
operand fields of extension words, and one constructor of `Instr` per row of spec/opcode_table.json. -/

namespace Sys2Proof

/-- A base or outer displacement of a full-format extension word (R459): null, word or long word. -/
inductive Disp where
  | null
  | word (d : BitVec 16)
  | long (d : BitVec 32)
deriving DecidableEq, Repr

/-- The memory indirection of a full-format extension word (Table 3-7 of R459). With the index suppressed
(IS = 1) the one indirect form is written `pre`. -/
inductive Indirection where
  | none
  | pre (od : Disp)
  | post (od : Disp)
deriving DecidableEq, Repr

/-- The index register operand of R458: D/A, register, W/L, scale. -/
structure IndexReg where
  da : Bool
  reg : BitVec 3
  long : Bool
  scale : BitVec 2
deriving DecidableEq, Repr

/-- The extension of the indexed modes: brief format (R458) or full format (R459, R460). -/
inductive IndexExt where
  | brief (x : IndexReg) (d8 : BitVec 8)
  | full (x : IndexReg) (baseSuppress indexSuppress : Bool) (bd : Disp) (ind : Indirection)
deriving DecidableEq, Repr

/-- An effective address (Table 3-8 of R452). The value of an immediate is right-aligned; its number of words is
the instruction's operand size (R464). -/
inductive Ea where
  | dn (r : BitVec 3)
  | an (r : BitVec 3)
  | ind (r : BitVec 3)
  | post (r : BitVec 3)
  | pre (r : BitVec 3)
  | disp (r : BitVec 3) (d : BitVec 16)
  | idx (r : BitVec 3) (x : IndexExt)
  | absW (a : BitVec 16)
  | absL (a : BitVec 32)
  | pcDisp (d : BitVec 16)
  | pcIdx (x : IndexExt)
  | imm (v : BitVec 96)
deriving DecidableEq, Repr

/-- The displacement of Bcc, BRA, BSR (47_program_control R922): in the operation word, or one or two words. -/
inductive BrDisp where
  | byte (d : BitVec 8)
  | word (d : BitVec 16)
  | long (d : BitVec 32)
deriving DecidableEq, Repr

/-- Bits 11:0 of a bit-field extension word (45_bit_and_bitfield R880): Do, offset, Dw, width. -/
structure BfSpec where
  offsetInReg : Bool
  offset : BitVec 5
  widthInReg : Bool
  width : BitVec 5
deriving DecidableEq, Repr

/-- The operand formats of floating-point instructions (42_floating_point R692). -/
inductive FpFmt where
  | l | s | x | p | w | d | b
deriving DecidableEq, Repr

/-- The source of a floating-point arithmetic instruction (R691): an FP register, or memory, Dn or immediate in
a format. -/
inductive FpSrc where
  | fp (m : BitVec 3)
  | ea (f : FpFmt) (e : Ea)
deriving DecidableEq, Repr

/-- The instructions of the MC68040, one constructor per row of spec/opcode_table.json, in the table's order.
Registers named in a 4-bit field are numbered D0-D7 as 0-7 and A0-A7 as 8-15. -/
inductive Instr where
  | oriToCcr (imm : BitVec 16)
  | oriToSr (imm : BitVec 16)
  | andiToCcr (imm : BitVec 16)
  | andiToSr (imm : BitVec 16)
  | eoriToCcr (imm : BitVec 16)
  | eoriToSr (imm : BitVec 16)
  | oriB (imm : BitVec 8) (ea : Ea)
  | oriW (imm : BitVec 16) (ea : Ea)
  | oriL (imm : BitVec 32) (ea : Ea)
  | andiB (imm : BitVec 8) (ea : Ea)
  | andiW (imm : BitVec 16) (ea : Ea)
  | andiL (imm : BitVec 32) (ea : Ea)
  | subiB (imm : BitVec 8) (ea : Ea)
  | subiW (imm : BitVec 16) (ea : Ea)
  | subiL (imm : BitVec 32) (ea : Ea)
  | addiB (imm : BitVec 8) (ea : Ea)
  | addiW (imm : BitVec 16) (ea : Ea)
  | addiL (imm : BitVec 32) (ea : Ea)
  | eoriB (imm : BitVec 8) (ea : Ea)
  | eoriW (imm : BitVec 16) (ea : Ea)
  | eoriL (imm : BitVec 32) (ea : Ea)
  | cmpiB (imm : BitVec 8) (ea : Ea)
  | cmpiW (imm : BitVec 16) (ea : Ea)
  | cmpiL (imm : BitVec 32) (ea : Ea)
  | btst (bit : BitVec 8) (ea : Ea)
  | btstDn (dn : BitVec 3) (ea : Ea)
  | bchg (bit : BitVec 8) (ea : Ea)
  | bchgDn (dn : BitVec 3) (ea : Ea)
  | bclr (bit : BitVec 8) (ea : Ea)
  | bclrDn (dn : BitVec 3) (ea : Ea)
  | bset (bit : BitVec 8) (ea : Ea)
  | bsetDn (dn : BitVec 3) (ea : Ea)
  | movepWD16AyDx (dx : BitVec 3) (ay : BitVec 3) (d : BitVec 16)
  | movepLD16AyDx (dx : BitVec 3) (ay : BitVec 3) (d : BitVec 16)
  | movepWDxD16Ay (dx : BitVec 3) (ay : BitVec 3) (d : BitVec 16)
  | movepLDxD16Ay (dx : BitVec 3) (ay : BitVec 3) (d : BitVec 16)
  | cmp2B (rn : BitVec 4) (ea : Ea)
  | chk2B (rn : BitVec 4) (ea : Ea)
  | cmp2W (rn : BitVec 4) (ea : Ea)
  | chk2W (rn : BitVec 4) (ea : Ea)
  | cmp2L (rn : BitVec 4) (ea : Ea)
  | chk2L (rn : BitVec 4) (ea : Ea)
  | movesB (rn : BitVec 4) (toMem : Bool) (ea : Ea)
  | movesW (rn : BitVec 4) (toMem : Bool) (ea : Ea)
  | movesL (rn : BitVec 4) (toMem : Bool) (ea : Ea)
  | casB (du : BitVec 3) (dc : BitVec 3) (ea : Ea)
  | casW (du : BitVec 3) (dc : BitVec 3) (ea : Ea)
  | casL (du : BitVec 3) (dc : BitVec 3) (ea : Ea)
  | cas2W (rn1 : BitVec 4) (du1 : BitVec 3) (dc1 : BitVec 3) (rn2 : BitVec 4) (du2 : BitVec 3) (dc2 : BitVec 3)
  | cas2L (rn1 : BitVec 4) (du1 : BitVec 3) (dc1 : BitVec 3) (rn2 : BitVec 4) (du2 : BitVec 3) (dc2 : BitVec 3)
  | moveB (src : Ea) (dst : Ea)
  | moveL (src : Ea) (dst : Ea)
  | moveW (src : Ea) (dst : Ea)
  | moveaL (an : BitVec 3) (ea : Ea)
  | moveaW (an : BitVec 3) (ea : Ea)
  | negxB (ea : Ea)
  | negxW (ea : Ea)
  | negxL (ea : Ea)
  | clrB (ea : Ea)
  | clrW (ea : Ea)
  | clrL (ea : Ea)
  | negB (ea : Ea)
  | negW (ea : Ea)
  | negL (ea : Ea)
  | notB (ea : Ea)
  | notW (ea : Ea)
  | notL (ea : Ea)
  | moveFromSr (ea : Ea)
  | moveFromCcr (ea : Ea)
  | moveToCcr (ea : Ea)
  | moveToSr (ea : Ea)
  | nbcd (ea : Ea)
  | linkL (an : BitVec 3) (d : BitVec 32)
  | swap (dn : BitVec 3)
  | bkpt (n : BitVec 3)
  | pea (ea : Ea)
  | extW (dn : BitVec 3)
  | extL (dn : BitVec 3)
  | extbL (dn : BitVec 3)
  | movemWListEa (list : BitVec 16) (ea : Ea)
  | movemWEaList (list : BitVec 16) (ea : Ea)
  | movemLListEa (list : BitVec 16) (ea : Ea)
  | movemLEaList (list : BitVec 16) (ea : Ea)
  | tstB (ea : Ea)
  | tstW (ea : Ea)
  | tstL (ea : Ea)
  | tas (ea : Ea)
  | illegal
  | muluLEaDl (dl : BitVec 3) (ea : Ea)
  | muluLEaDhDl (dh : BitVec 3) (dl : BitVec 3) (ea : Ea)
  | mulsLEaDl (dl : BitVec 3) (ea : Ea)
  | mulsLEaDhDl (dh : BitVec 3) (dl : BitVec 3) (ea : Ea)
  | divuLEaDq (dq : BitVec 3) (ea : Ea)
  | divulLEaDrDq (dr : BitVec 3) (dq : BitVec 3) (ea : Ea)
  | divuLEaDrDq (dr : BitVec 3) (dq : BitVec 3) (ea : Ea)
  | divsLEaDq (dq : BitVec 3) (ea : Ea)
  | divslLEaDrDq (dr : BitVec 3) (dq : BitVec 3) (ea : Ea)
  | divsLEaDrDq (dr : BitVec 3) (dq : BitVec 3) (ea : Ea)
  | trap (n : BitVec 4)
  | linkW (an : BitVec 3) (d : BitVec 16)
  | unlk (an : BitVec 3)
  | moveAnUsp (an : BitVec 3)
  | moveUspAn (an : BitVec 3)
  | reset
  | nop
  | stop (imm : BitVec 16)
  | rte
  | rtd (d : BitVec 16)
  | rts
  | trapv
  | rtr
  | movecRcRn (rn : BitVec 4) (code : BitVec 12)
  | movecRnRc (rn : BitVec 4) (code : BitVec 12)
  | jsr (ea : Ea)
  | jmp (ea : Ea)
  | chkL (dn : BitVec 3) (ea : Ea)
  | chkW (dn : BitVec 3) (ea : Ea)
  | lea (an : BitVec 3) (ea : Ea)
  | addqB (data : BitVec 3) (ea : Ea)
  | subqB (data : BitVec 3) (ea : Ea)
  | addqW (data : BitVec 3) (ea : Ea)
  | subqW (data : BitVec 3) (ea : Ea)
  | addqL (data : BitVec 3) (ea : Ea)
  | subqL (data : BitVec 3) (ea : Ea)
  | scc (cc : BitVec 4) (ea : Ea)
  | dbcc (cc : BitVec 4) (dn : BitVec 3) (d : BitVec 16)
  | trapccW (cc : BitVec 4) (imm : BitVec 16)
  | trapccL (cc : BitVec 4) (imm : BitVec 32)
  | trapcc (cc : BitVec 4)
  | bra (disp : BrDisp)
  | bsr (disp : BrDisp)
  | bcc (cc : BitVec 4) (disp : BrDisp)
  | moveq (dn : BitVec 3) (d : BitVec 8)
  | orBEaDn (dn : BitVec 3) (ea : Ea)
  | orBDnEa (dn : BitVec 3) (ea : Ea)
  | orWEaDn (dn : BitVec 3) (ea : Ea)
  | orWDnEa (dn : BitVec 3) (ea : Ea)
  | orLEaDn (dn : BitVec 3) (ea : Ea)
  | orLDnEa (dn : BitVec 3) (ea : Ea)
  | divuW (dn : BitVec 3) (ea : Ea)
  | divsW (dn : BitVec 3) (ea : Ea)
  | sbcd (rx : BitVec 3) (mem : Bool) (ry : BitVec 3)
  | pack (rx : BitVec 3) (mem : Bool) (ry : BitVec 3) (adj : BitVec 16)
  | unpk (rx : BitVec 3) (mem : Bool) (ry : BitVec 3) (adj : BitVec 16)
  | subBEaDn (dn : BitVec 3) (ea : Ea)
  | subBDnEa (dn : BitVec 3) (ea : Ea)
  | subWEaDn (dn : BitVec 3) (ea : Ea)
  | subWDnEa (dn : BitVec 3) (ea : Ea)
  | subLEaDn (dn : BitVec 3) (ea : Ea)
  | subLDnEa (dn : BitVec 3) (ea : Ea)
  | subaW (an : BitVec 3) (ea : Ea)
  | subaL (an : BitVec 3) (ea : Ea)
  | subxB (rx : BitVec 3) (mem : Bool) (ry : BitVec 3)
  | subxW (rx : BitVec 3) (mem : Bool) (ry : BitVec 3)
  | subxL (rx : BitVec 3) (mem : Bool) (ry : BitVec 3)
  | cmpBEaDn (dn : BitVec 3) (ea : Ea)
  | cmpWEaDn (dn : BitVec 3) (ea : Ea)
  | cmpLEaDn (dn : BitVec 3) (ea : Ea)
  | cmpaW (an : BitVec 3) (ea : Ea)
  | cmpaL (an : BitVec 3) (ea : Ea)
  | eorB (dn : BitVec 3) (ea : Ea)
  | cmpmB (ax : BitVec 3) (ay : BitVec 3)
  | eorW (dn : BitVec 3) (ea : Ea)
  | cmpmW (ax : BitVec 3) (ay : BitVec 3)
  | eorL (dn : BitVec 3) (ea : Ea)
  | cmpmL (ax : BitVec 3) (ay : BitVec 3)
  | andBEaDn (dn : BitVec 3) (ea : Ea)
  | andBDnEa (dn : BitVec 3) (ea : Ea)
  | andWEaDn (dn : BitVec 3) (ea : Ea)
  | andWDnEa (dn : BitVec 3) (ea : Ea)
  | andLEaDn (dn : BitVec 3) (ea : Ea)
  | andLDnEa (dn : BitVec 3) (ea : Ea)
  | muluW (dn : BitVec 3) (ea : Ea)
  | mulsW (dn : BitVec 3) (ea : Ea)
  | abcd (rx : BitVec 3) (mem : Bool) (ry : BitVec 3)
  | exgDxDy (rx : BitVec 3) (ry : BitVec 3)
  | exgAxAy (rx : BitVec 3) (ry : BitVec 3)
  | exgDxAy (rx : BitVec 3) (ry : BitVec 3)
  | addBEaDn (dn : BitVec 3) (ea : Ea)
  | addBDnEa (dn : BitVec 3) (ea : Ea)
  | addWEaDn (dn : BitVec 3) (ea : Ea)
  | addWDnEa (dn : BitVec 3) (ea : Ea)
  | addLEaDn (dn : BitVec 3) (ea : Ea)
  | addLDnEa (dn : BitVec 3) (ea : Ea)
  | addaW (an : BitVec 3) (ea : Ea)
  | addaL (an : BitVec 3) (ea : Ea)
  | addxB (rx : BitVec 3) (mem : Bool) (ry : BitVec 3)
  | addxW (rx : BitVec 3) (mem : Bool) (ry : BitVec 3)
  | addxL (rx : BitVec 3) (mem : Bool) (ry : BitVec 3)
  | asrBDxDy (cnt : BitVec 3) (ir : Bool) (dy : BitVec 3)
  | asrWDxDy (cnt : BitVec 3) (ir : Bool) (dy : BitVec 3)
  | asrLDxDy (cnt : BitVec 3) (ir : Bool) (dy : BitVec 3)
  | asrEa (ea : Ea)
  | aslBDxDy (cnt : BitVec 3) (ir : Bool) (dy : BitVec 3)
  | aslWDxDy (cnt : BitVec 3) (ir : Bool) (dy : BitVec 3)
  | aslLDxDy (cnt : BitVec 3) (ir : Bool) (dy : BitVec 3)
  | aslEa (ea : Ea)
  | lsrBDxDy (cnt : BitVec 3) (ir : Bool) (dy : BitVec 3)
  | lsrWDxDy (cnt : BitVec 3) (ir : Bool) (dy : BitVec 3)
  | lsrLDxDy (cnt : BitVec 3) (ir : Bool) (dy : BitVec 3)
  | lsrEa (ea : Ea)
  | lslBDxDy (cnt : BitVec 3) (ir : Bool) (dy : BitVec 3)
  | lslWDxDy (cnt : BitVec 3) (ir : Bool) (dy : BitVec 3)
  | lslLDxDy (cnt : BitVec 3) (ir : Bool) (dy : BitVec 3)
  | lslEa (ea : Ea)
  | roxrBDxDy (cnt : BitVec 3) (ir : Bool) (dy : BitVec 3)
  | roxrWDxDy (cnt : BitVec 3) (ir : Bool) (dy : BitVec 3)
  | roxrLDxDy (cnt : BitVec 3) (ir : Bool) (dy : BitVec 3)
  | roxrEa (ea : Ea)
  | roxlBDxDy (cnt : BitVec 3) (ir : Bool) (dy : BitVec 3)
  | roxlWDxDy (cnt : BitVec 3) (ir : Bool) (dy : BitVec 3)
  | roxlLDxDy (cnt : BitVec 3) (ir : Bool) (dy : BitVec 3)
  | roxlEa (ea : Ea)
  | rorBDxDy (cnt : BitVec 3) (ir : Bool) (dy : BitVec 3)
  | rorWDxDy (cnt : BitVec 3) (ir : Bool) (dy : BitVec 3)
  | rorLDxDy (cnt : BitVec 3) (ir : Bool) (dy : BitVec 3)
  | rorEa (ea : Ea)
  | rolBDxDy (cnt : BitVec 3) (ir : Bool) (dy : BitVec 3)
  | rolWDxDy (cnt : BitVec 3) (ir : Bool) (dy : BitVec 3)
  | rolLDxDy (cnt : BitVec 3) (ir : Bool) (dy : BitVec 3)
  | rolEa (ea : Ea)
  | bftst (bf : BfSpec) (ea : Ea)
  | bfextu (dn : BitVec 3) (bf : BfSpec) (ea : Ea)
  | bfchg (bf : BfSpec) (ea : Ea)
  | bfexts (dn : BitVec 3) (bf : BfSpec) (ea : Ea)
  | bfclr (bf : BfSpec) (ea : Ea)
  | bfffo (dn : BitVec 3) (bf : BfSpec) (ea : Ea)
  | bfset (bf : BfSpec) (ea : Ea)
  | bfins (dn : BitVec 3) (bf : BfSpec) (ea : Ea)
  | fmoveEaFpmFpn (src : FpSrc) (dst : BitVec 3)
  | fsmove (src : FpSrc) (dst : BitVec 3)
  | fdmove (src : FpSrc) (dst : BitVec 3)
  | fsqrt (src : FpSrc) (dst : BitVec 3)
  | fssqrt (src : FpSrc) (dst : BitVec 3)
  | fdsqrt (src : FpSrc) (dst : BitVec 3)
  | fabs (src : FpSrc) (dst : BitVec 3)
  | fsabs (src : FpSrc) (dst : BitVec 3)
  | fdabs (src : FpSrc) (dst : BitVec 3)
  | fneg (src : FpSrc) (dst : BitVec 3)
  | fsneg (src : FpSrc) (dst : BitVec 3)
  | fdneg (src : FpSrc) (dst : BitVec 3)
  | fdiv (src : FpSrc) (dst : BitVec 3)
  | fsdiv (src : FpSrc) (dst : BitVec 3)
  | fddiv (src : FpSrc) (dst : BitVec 3)
  | fadd (src : FpSrc) (dst : BitVec 3)
  | fsadd (src : FpSrc) (dst : BitVec 3)
  | fdadd (src : FpSrc) (dst : BitVec 3)
  | fmul (src : FpSrc) (dst : BitVec 3)
  | fsmul (src : FpSrc) (dst : BitVec 3)
  | fdmul (src : FpSrc) (dst : BitVec 3)
  | fsub (src : FpSrc) (dst : BitVec 3)
  | fssub (src : FpSrc) (dst : BitVec 3)
  | fdsub (src : FpSrc) (dst : BitVec 3)
  | fcmp (src : FpSrc) (dst : BitVec 3)
  | ftst (src : FpSrc) (dst : BitVec 3)
  | fintUnimplemented (src : FpSrc) (dst : BitVec 3)
  | fsinhUnimplemented (src : FpSrc) (dst : BitVec 3)
  | fintrzUnimplemented (src : FpSrc) (dst : BitVec 3)
  | flognp1Unimplemented (src : FpSrc) (dst : BitVec 3)
  | fetoxm1Unimplemented (src : FpSrc) (dst : BitVec 3)
  | ftanhUnimplemented (src : FpSrc) (dst : BitVec 3)
  | fatanUnimplemented (src : FpSrc) (dst : BitVec 3)
  | fasinUnimplemented (src : FpSrc) (dst : BitVec 3)
  | fatanhUnimplemented (src : FpSrc) (dst : BitVec 3)
  | fsinUnimplemented (src : FpSrc) (dst : BitVec 3)
  | ftanUnimplemented (src : FpSrc) (dst : BitVec 3)
  | fetoxUnimplemented (src : FpSrc) (dst : BitVec 3)
  | ftwotoxUnimplemented (src : FpSrc) (dst : BitVec 3)
  | ftentoxUnimplemented (src : FpSrc) (dst : BitVec 3)
  | flognUnimplemented (src : FpSrc) (dst : BitVec 3)
  | flog10Unimplemented (src : FpSrc) (dst : BitVec 3)
  | flog2Unimplemented (src : FpSrc) (dst : BitVec 3)
  | fcoshUnimplemented (src : FpSrc) (dst : BitVec 3)
  | facosUnimplemented (src : FpSrc) (dst : BitVec 3)
  | fcosUnimplemented (src : FpSrc) (dst : BitVec 3)
  | fgetexpUnimplemented (src : FpSrc) (dst : BitVec 3)
  | fgetmanUnimplemented (src : FpSrc) (dst : BitVec 3)
  | fmodUnimplemented (src : FpSrc) (dst : BitVec 3)
  | fsgldivUnimplemented (src : FpSrc) (dst : BitVec 3)
  | fremUnimplemented (src : FpSrc) (dst : BitVec 3)
  | fscaleUnimplemented (src : FpSrc) (dst : BitVec 3)
  | fsglmulUnimplemented (src : FpSrc) (dst : BitVec 3)
  | fsincosUnimplemented (src : FpSrc) (dst : BitVec 3) (dc : BitVec 3)
  | fmovecrUnimplemented (dst : BitVec 3) (off : BitVec 7)
  | fmoveLFpmEa (src : BitVec 3) (ea : Ea)
  | fmoveSFpmEa (src : BitVec 3) (ea : Ea)
  | fmoveXFpmEa (src : BitVec 3) (ea : Ea)
  | fmovePKFpmEa (src : BitVec 3) (k : BitVec 7) (ea : Ea)
  | fmoveWFpmEa (src : BitVec 3) (ea : Ea)
  | fmoveDFpmEa (src : BitVec 3) (ea : Ea)
  | fmoveBFpmEa (src : BitVec 3) (ea : Ea)
  | fmovePDnFpmEa (src : BitVec 3) (dn : BitVec 3) (ea : Ea)
  | fmoveLEaFpcr (ea : Ea)
  | fmoveLEaFpsr (ea : Ea)
  | fmoveLEaFpiar (ea : Ea)
  | fmovemLEaCtrlList (regs : BitVec 3) (ea : Ea)
  | fmoveLFpcrEa (ea : Ea)
  | fmoveLFpsrEa (ea : Ea)
  | fmoveLFpiarEa (ea : Ea)
  | fmovemLCtrlListEa (regs : BitVec 3) (ea : Ea)
  | fmovemXEaList (mode : BitVec 2) (list : BitVec 8) (ea : Ea)
  | fmovemXListEa (mode : BitVec 2) (list : BitVec 8) (ea : Ea)
  | fscc (pred : BitVec 5) (ea : Ea)
  | fdbcc (pred : BitVec 5) (dn : BitVec 3) (d : BitVec 16)
  | ftrapccW (pred : BitVec 5) (imm : BitVec 16)
  | ftrapccL (pred : BitVec 5) (imm : BitVec 32)
  | ftrapcc (pred : BitVec 5)
  | fnop
  | fbccW (pred : BitVec 5) (d : BitVec 16)
  | fbccL (pred : BitVec 5) (d : BitVec 32)
  | fsave (ea : Ea)
  | frestore (ea : Ea)
  | cinvl (caches : BitVec 2) (an : BitVec 3)
  | cinvp (caches : BitVec 2) (an : BitVec 3)
  | cinva (caches : BitVec 2)
  | cpushl (caches : BitVec 2) (an : BitVec 3)
  | cpushp (caches : BitVec 2) (an : BitVec 3)
  | cpusha (caches : BitVec 2)
  | pflushnAn (an : BitVec 3)
  | pflushAn (an : BitVec 3)
  | pflushan
  | pflusha
  | ptestwAn (an : BitVec 3)
  | ptestrAn (an : BitVec 3)
  | move16AxPlusAyPlus (ax : BitVec 3) (ay : BitVec 3)
  | move16AnPlusXxxL (an : BitVec 3) (addr : BitVec 32)
  | move16XxxLAnPlus (an : BitVec 3) (addr : BitVec 32)
  | move16AnXxxL (an : BitVec 3) (addr : BitVec 32)
  | move16XxxLAn (an : BitVec 3) (addr : BitVec 32)
deriving DecidableEq, Repr

end Sys2Proof
end

