-- ==== Sys2Proof/Decode.lean ====
section
/-! DEFINITION. Decoding of instruction words (30_encoding R450 to R480), total and rejecting by name, and the
encoder written from the same tables. Words are given in program order; bits the format says are unused are
ignored (92 D15). -/

namespace Sys2Proof

/-! ### Field extraction -/

/-- Bits 11:9 of an operation word, the usual first register field (R473). -/
def rx (w : Word) : BitVec 3 := w.extractLsb' 9 3

/-- Bits 2:0 of an operation word, the usual second register field (R473). -/
def ry (w : Word) : BitVec 3 := w.extractLsb' 0 3

/-- Bits 11:8, the condition field (R473). -/
def ccOf (w : Word) : BitVec 4 := w.extractLsb' 8 4

/-- One bit as a field. -/
def bit1 (b : Bool) : BitVec 1 := BitVec.ofBool b

/-- A long word as two instruction words, high-order first (R464). -/
def longWords (v : Long) : List Word := [v.extractLsb' 16 16, v.extractLsb' 0 16]

/-! ### Effective-address encoding (R452, R458, R459) -/

/-- The low four bits of BD SIZE (R459) of a displacement: 01 null, 10 word, 11 long. -/
def Disp.code : Disp → BitVec 2
  | .null => 1#2 | .word _ => 2#2 | .long _ => 3#2

/-- The words of a displacement. -/
def Disp.ext : Disp → List Word
  | .null => [] | .word d => [d] | .long d => longWords d

/-- The I/IS field (Table 3-7 of R459). -/
def Indirection.code : Indirection → BitVec 3
  | .none => 0#3
  | .pre od => 0#1 ++ od.code
  | .post od => 1#1 ++ od.code

/-- The outer displacement words. -/
def Indirection.ext : Indirection → List Word
  | .none => [] | .pre od => od.ext | .post od => od.ext

/-- Bits 15:9 of an index extension word (R458). -/
def IndexReg.field (x : IndexReg) : BitVec 7 := bit1 x.da ++ x.reg ++ bit1 x.long ++ x.scale

/-- The extension words of an indexed mode. -/
def IndexExt.ext : IndexExt → List Word
  | .brief x d8 => [(x.field ++ 0#1 ++ d8 : Word)]
  | .full x bs is bd ind =>
    [(x.field ++ 1#1 ++ bit1 bs ++ bit1 is ++ bd.code ++ 0#1 ++ ind.code : Word)] ++ bd.ext ++ ind.ext

/-- The mode field (Table 3-8 of R452). -/
def Ea.modeField : Ea → BitVec 3
  | .dn _ => 0 | .an _ => 1 | .ind _ => 2 | .post _ => 3 | .pre _ => 4 | .disp _ _ => 5 | .idx _ _ => 6
  | _ => 7

/-- The register field (Table 3-8 of R452). -/
def Ea.regField : Ea → BitVec 3
  | .dn r => r | .an r => r | .ind r => r | .post r => r | .pre r => r | .disp r _ => r | .idx r _ => r
  | .absW _ => 0 | .absL _ => 1 | .pcDisp _ => 2 | .pcIdx _ => 3 | .imm _ => 4

/-- The six-bit effective-address field. -/
def Ea.field (e : Ea) : BitVec 6 := e.modeField ++ e.regField

/-- The `n` words of an immediate, high-order first (R464). -/
def immExt (v : BitVec 96) : Nat → List Word
  | 0 => []
  | n + 1 => v.extractLsb' (16 * n) 16 :: immExt v n

/-- The extension words of an effective address; `n` is how many words an immediate takes. -/
def Ea.ext (n : Nat) : Ea → List Word
  | .disp _ d => [d]
  | .idx _ x => x.ext
  | .absW a => [a]
  | .absL a => longWords a
  | .pcDisp d => [d]
  | .pcIdx x => x.ext
  | .imm v => immExt v n
  | _ => []

/-- How many words an immediate of a floating-point format takes (R692). -/
def FpFmt.immWords : FpFmt → Nat
  | .l => 2 | .s => 2 | .x => 6 | .p => 6 | .w => 1 | .d => 4 | .b => 1

/-- The format code (R692). -/
def FpFmt.code : FpFmt → BitVec 3
  | .l => 0 | .s => 1 | .x => 2 | .p => 3 | .w => 4 | .d => 5 | .b => 6

/-- The effective-address field of a floating-point source; unused with a register source (R691). -/
def FpSrc.field : FpSrc → BitVec 6
  | .fp _ => 0 | .ea _ e => e.field

/-- Bits 15:10 of the command word (R691). -/
def FpSrc.cmd : FpSrc → BitVec 6
  | .fp m => 0b000#3 ++ m | .ea f _ => 0b010#3 ++ f.code

/-- The extension words of a floating-point source. -/
def FpSrc.ext : FpSrc → List Word
  | .fp _ => [] | .ea f e => e.ext f.immWords

/-- Bits 7:0 of a branch operation word (R922): 00 a word follows, FF a long word follows. -/
def BrDisp.field : BrDisp → BitVec 8
  | .byte d => d | .word _ => 0x00 | .long _ => 0xFF

/-- The displacement words of a branch. -/
def BrDisp.ext : BrDisp → List Word
  | .byte _ => [] | .word d => [d] | .long d => longWords d

/-- Bits 11:0 of a bit-field extension word (R880). -/
def BfSpec.field (b : BfSpec) : BitVec 12 := bit1 b.offsetInReg ++ b.offset ++ bit1 b.widthInReg ++ b.width

/-- How many control registers a select field names (R694). -/
def ctrlCount (regs : BitVec 3) : Nat :=
  (regs.getLsbD 2).toNat + (regs.getLsbD 1).toNat + (regs.getLsbD 0).toNat

/-! ### Parsing -/

/-- Why words are no instruction (R475, R477, R478): vector 4, 10 or 11. -/
inductive Reject where
  | illegal
  | aline
  | fline
deriving DecidableEq, Repr

/-- The result of parsing: a value and the words left, not enough words, or a rejection. -/
inductive Parse (α : Type) where
  | ok (a : α) (rest : List Word)
  | more
  | stop (r : Reject)
deriving DecidableEq, Repr

/-- Sequencing of parsers. -/
def Parse.bind {α β : Type} (p : Parse α) (k : α → List Word → Parse β) : Parse β :=
  match p with
  | .ok a ws => k a ws
  | .more => .more
  | .stop r => .stop r

/-- Apply a constructor to what was parsed. -/
def Parse.map {α β : Type} (p : Parse α) (f : α → β) : Parse β := p.bind fun a ws => .ok (f a) ws

/-- One word of the instruction stream. -/
def takeWord : List Word → Parse Word
  | w :: ws => .ok w ws
  | [] => .more

/-- Two words, high-order first. -/
def takeLong (ws : List Word) : Parse Long :=
  (takeWord ws).bind fun h ws => (takeWord ws).bind fun l ws => .ok (h ++ l) ws

/-- A displacement whose size code is `c` (R459); 00 is reserved for a base displacement. -/
def takeDisp (c : BitVec 2) (ws : List Word) : Parse Disp :=
  if c = 1#2 then .ok .null ws
  else if c = 2#2 then (takeWord ws).map .word
  else if c = 3#2 then (takeLong ws).map .long
  else .stop .illegal

/-- The outer part of a full-format extension, from the I/IS field (Table 3-7). -/
def takeInd (iis : BitVec 3) (ws : List Word) : Parse Indirection :=
  if iis = 0#3 then .ok .none ws
  else (takeDisp (iis.extractLsb' 0 2) ws).map (if iis.getLsbD 2 then .post else .pre)

/-- The extension of an indexed mode (R458 to R460). Reserved combinations are illegal (R465, D13). -/
def takeIdx (ws : List Word) : Parse IndexExt :=
  (takeWord ws).bind fun w ws =>
    let x : IndexReg := ⟨w.getLsbD 15, w.extractLsb' 12 3, w.getLsbD 11, w.extractLsb' 9 2⟩
    if !w.getLsbD 8 then .ok (.brief x (w.extractLsb' 0 8)) ws
    else
      let is := w.getLsbD 6
      let iis := w.extractLsb' 0 3
      if w.getLsbD 3 || w.extractLsb' 4 2 == 0#2 || iis == 4#3 || (is && iis.getLsbD 2) then .stop .illegal
      else
        (takeDisp (w.extractLsb' 4 2) ws).bind fun bd ws =>
          (takeInd iis ws).map fun ind => .full x (w.getLsbD 7) is bd ind

/-- `n` words as one value, high-order first, after the value `acc`. -/
def takeImm (acc : BitVec 96) : Nat → List Word → Parse (BitVec 96)
  | 0, ws => .ok acc ws
  | n + 1, ws => (takeWord ws).bind fun w ws => takeImm ((acc <<< 16) ||| w.zeroExtend 96) n ws

/-- An effective address from its mode and register fields (Table 3-8 of R452); an immediate takes `n` words. -/
def takeEa (n : Nat) (mode reg : BitVec 3) (ws : List Word) : Parse Ea :=
  match mode.toNat with
  | 0 => .ok (.dn reg) ws
  | 1 => .ok (.an reg) ws
  | 2 => .ok (.ind reg) ws
  | 3 => .ok (.post reg) ws
  | 4 => .ok (.pre reg) ws
  | 5 => (takeWord ws).map (.disp reg)
  | 6 => (takeIdx ws).map (.idx reg)
  | _ =>
    match reg.toNat with
    | 0 => (takeWord ws).map .absW
    | 1 => (takeLong ws).map .absL
    | 2 => (takeWord ws).map .pcDisp
    | 3 => (takeIdx ws).map .pcIdx
    | 4 => (takeImm 0 n ws).map .imm
    | _ => .stop .illegal

/-- The effective address in bits 5:0 of an operation word. -/
def eaOf (n : Nat) (w : Word) (ws : List Word) : Parse Ea := takeEa n (w.extractLsb' 3 3) (ry w) ws

/-! ### Allowed addressing modes (R467, R480) -/

/-- A set of addressing modes: bit i for mode i below 7, bit 7 + r for mode 7 register r. -/
abbrev EaSet := BitVec 12

/-- Whether the mode and register fields name a mode of the set; registers 5 to 7 of mode 7 are in none. -/
def EaSet.has (s : EaSet) (mode reg : BitVec 3) : Bool :=
  if mode = 7 then s.getLsbD (7 + reg.toNat) else s.getLsbD mode.toNat

/-- Every mode. -/
def EaSet.all : EaSet := 0xFFF
/-- All but address register direct. -/
def EaSet.data : EaSet := 0xFFD
/-- Data modes other than immediate. -/
def EaSet.dataNoImm : EaSet := 0x7FD
/-- Alterable modes. -/
def EaSet.alterable : EaSet := 0x1FF
/-- Data alterable modes. -/
def EaSet.dataAlt : EaSet := 0x1FD
/-- Memory alterable modes. -/
def EaSet.memAlt : EaSet := 0x1FC
/-- Control modes. -/
def EaSet.control : EaSet := 0x7E4
/-- Control alterable modes. -/
def EaSet.controlAlt : EaSet := 0x1E4
/-- MOVEM registers to memory, FMOVEM, FSAVE: control alterable or -(An). -/
def EaSet.movemStore : EaSet := 0x1F4
/-- MOVEM memory to registers, FMOVEM, FRESTORE: control or (An)+. -/
def EaSet.movemLoad : EaSet := 0x7EC
/-- BFTST, BFEXTU, BFEXTS, BFFFO: Dn or control. -/
def EaSet.bfRead : EaSet := 0x7E5
/-- BFCHG, BFCLR, BFSET, BFINS: Dn or control alterable. -/
def EaSet.bfWrite : EaSet := 0x1E5
/-- FSAVE. -/
def EaSet.fsaveModes : EaSet := EaSet.movemStore
/-- FRESTORE. -/
def EaSet.frestoreModes : EaSet := EaSet.movemLoad

/-- The modes of a floating-point source operand: Dn only for B, W, L, S (R480, R692). -/
def FpFmt.srcModes : FpFmt → EaSet
  | .x => 0xFFC | .p => 0xFFC | .d => 0xFFC | _ => EaSet.data

/-- The modes of a floating-point destination: Dn only for B, W, L, S (R480). -/
def FpFmt.dstModes : FpFmt → EaSet
  | .x => EaSet.memAlt | .p => EaSet.memAlt | .d => EaSet.memAlt | _ => EaSet.dataAlt

/-- The modes that load control registers: An for FPIAR alone, Dn for one register (R480). -/
def ctrlSrcModes (regs : BitVec 3) : EaSet :=
  if regs = 1 then EaSet.all else if ctrlCount regs = 1 then EaSet.data else 0xFFC

/-- The modes that store control registers (R480). -/
def ctrlDstModes (regs : BitVec 3) : EaSet :=
  if regs = 1 then EaSet.alterable else if ctrlCount regs = 1 then EaSet.dataAlt else EaSet.memAlt

/-! ### Parsers of the shapes of instruction (R451) -/

/-- One effective address. -/
def oneEa (k : Ea → Instr) (n : Nat) (w : Word) (ws : List Word) : Parse Instr := (eaOf n w ws).map k

/-- A register field and an effective address. -/
def regEa (k : BitVec 3 → Ea → Instr) (n : Nat) (w : Word) (ws : List Word) : Parse Instr :=
  (eaOf n w ws).map (k (rx w))

/-- A 16-bit immediate or displacement word. -/
def imm16 (k : Word → Instr) (ws : List Word) : Parse Instr := (takeWord ws).map k

/-- A 32-bit immediate, displacement or address. -/
def imm32 (k : Long → Instr) (ws : List Word) : Parse Instr := (takeLong ws).map k

/-- A byte immediate in the low half of a word (R464), then an effective address. -/
def imm8Ea (k : Byte → Ea → Instr) (n : Nat) (w : Word) (ws : List Word) : Parse Instr :=
  (takeWord ws).bind fun i ws => (eaOf n w ws).map (k (i.extractLsb' 0 8))

/-- A word immediate, then an effective address. -/
def imm16Ea (k : Word → Ea → Instr) (n : Nat) (w : Word) (ws : List Word) : Parse Instr :=
  (takeWord ws).bind fun i ws => (eaOf n w ws).map (k i)

/-- A long immediate, then an effective address. -/
def imm32Ea (k : Long → Ea → Instr) (n : Nat) (w : Word) (ws : List Word) : Parse Instr :=
  (takeLong ws).bind fun i ws => (eaOf n w ws).map (k i)

/-- MOVE: source effective address, then the destination in bits 11:6 with its fields swapped (R452). -/
def moveEas (k : Ea → Ea → Instr) (n : Nat) (w : Word) (ws : List Word) : Parse Instr :=
  if EaSet.has EaSet.dataAlt (w.extractLsb' 6 3) (rx w) then
    (eaOf n w ws).bind fun src ws => (takeEa n (w.extractLsb' 6 3) (rx w) ws).map (k src)
  else .stop .illegal

/-- CMP2 and CHK2 share an operation word; bit 11 of the extension word tells them apart (R634, R992). -/
def cmp2Chk2 (cmp chk : BitVec 4 → Ea → Instr) (w : Word) (ws : List Word) : Parse Instr :=
  (takeWord ws).bind fun x ws => (eaOf 1 w ws).map ((if x.getLsbD 11 then chk else cmp) (x.extractLsb' 12 4))

/-- MOVES: register in bits 15:12, direction in bit 11 (R978). -/
def movesWord (k : BitVec 4 → Bool → Ea → Instr) (w : Word) (ws : List Word) : Parse Instr :=
  (takeWord ws).bind fun x ws => (eaOf 1 w ws).map (k (x.extractLsb' 12 4) (x.getLsbD 11))

/-- CAS: Du in bits 8:6, Dc in bits 2:0 (R1052). -/
def casWord (k : BitVec 3 → BitVec 3 → Ea → Instr) (w : Word) (ws : List Word) : Parse Instr :=
  (takeWord ws).bind fun x ws => (eaOf 1 w ws).map (k (x.extractLsb' 6 3) (x.extractLsb' 0 3))

/-- CAS2: two extension words (R1053). -/
def cas2Words (k : BitVec 4 → BitVec 3 → BitVec 3 → BitVec 4 → BitVec 3 → BitVec 3 → Instr)
    (ws : List Word) : Parse Instr :=
  (takeWord ws).bind fun x ws => (takeWord ws).bind fun y ws =>
    .ok (k (x.extractLsb' 12 4) (x.extractLsb' 6 3) (x.extractLsb' 0 3)
      (y.extractLsb' 12 4) (y.extractLsb' 6 3) (y.extractLsb' 0 3)) ws

/-- MULU.L and MULS.L: Dl in bits 14:12, signed in bit 11, 64-bit in bit 10, Dh in bits 2:0 (R651, R652). -/
def mulLong (w : Word) (ws : List Word) : Parse Instr :=
  (takeWord ws).bind fun x ws => (eaOf 2 w ws).map fun e =>
    let l := x.extractLsb' 12 3
    let h := x.extractLsb' 0 3
    match x.getLsbD 11, x.getLsbD 10 with
    | false, false => .muluLEaDl l e
    | false, true => .muluLEaDhDl h l e
    | true, false => .mulsLEaDl l e
    | true, true => .mulsLEaDhDl h l e

/-- DIVU.L, DIVUL.L, DIVS.L, DIVSL.L (R656 to R658); the 32-bit-dividend forms are told apart by Dr = Dq (R475). -/
def divLong (w : Word) (ws : List Word) : Parse Instr :=
  (takeWord ws).bind fun x ws => (eaOf 2 w ws).map fun e =>
    let q := x.extractLsb' 12 3
    let r := x.extractLsb' 0 3
    match x.getLsbD 11, x.getLsbD 10 with
    | false, false => if r = q then .divuLEaDq q e else .divulLEaDrDq r q e
    | false, true => .divuLEaDrDq r q e
    | true, false => if r = q then .divsLEaDq q e else .divslLEaDrDq r q e
    | true, true => .divsLEaDrDq r q e

/-- MOVEC: register in bits 15:12, control register code in bits 11:0 (R975). -/
def movecWord (k : BitVec 4 → BitVec 12 → Instr) (ws : List Word) : Parse Instr :=
  (takeWord ws).bind fun x ws => .ok (k (x.extractLsb' 12 4) (x.extractLsb' 0 12)) ws

/-- A branch displacement (R922). -/
def brDisp (k : BrDisp → Instr) (w : Word) (ws : List Word) : Parse Instr :=
  let d := w.extractLsb' 0 8
  if d = 0x00 then (takeWord ws).map fun x => k (.word x)
  else if d = 0xFF then (takeLong ws).map fun x => k (.long x)
  else .ok (k (.byte d)) ws

/-- The fields of a bit-field extension word (R880). -/
def bfOf (x : Word) : BfSpec := ⟨x.getLsbD 11, x.extractLsb' 6 5, x.getLsbD 5, x.extractLsb' 0 5⟩

/-- A bit-field instruction without a register operand. -/
def bfWord (k : BfSpec → Ea → Instr) (w : Word) (ws : List Word) : Parse Instr :=
  (takeWord ws).bind fun x ws => (eaOf 1 w ws).map (k (bfOf x))

/-- A bit-field instruction with a register operand in bits 14:12. -/
def bfRegWord (k : BitVec 3 → BfSpec → Ea → Instr) (w : Word) (ws : List Word) : Parse Instr :=
  (takeWord ws).bind fun x ws => (eaOf 1 w ws).map (k (x.extractLsb' 12 3) (bfOf x))

/-- MOVE16 (Ax)+,(Ay)+: Ay in bits 14:12 of the second word (R566); its bit 15 is not looked at (log 52). -/
def move16Pair (k : BitVec 3 → BitVec 3 → Instr) (w : Word) (ws : List Word) : Parse Instr :=
  (takeWord ws).bind fun x ws => .ok (k (ry w) (x.extractLsb' 12 3)) ws

/-! ### Floating-point instructions (R690 to R700, R775)

`Instr` has more constructors with arguments than Lean's run-time system has object tags, so no code can be
generated for what builds one; the kernel evaluates these definitions all the same. -/

noncomputable section

/-- The instruction of an operation code of opclass 000 or 010 (R700, R775); `none` where it is no
MC68881/MC68882 instruction (D19). -/
def fpOp (op : BitVec 7) : Option (FpSrc → BitVec 3 → Instr) :=
  match op.toNat with
  | 0x00 => some .fmoveEaFpmFpn
  | 0x01 => some .fintUnimplemented
  | 0x02 => some .fsinhUnimplemented
  | 0x03 => some .fintrzUnimplemented
  | 0x04 => some .fsqrt
  | 0x06 => some .flognp1Unimplemented
  | 0x08 => some .fetoxm1Unimplemented
  | 0x09 => some .ftanhUnimplemented
  | 0x0A => some .fatanUnimplemented
  | 0x0C => some .fasinUnimplemented
  | 0x0D => some .fatanhUnimplemented
  | 0x0E => some .fsinUnimplemented
  | 0x0F => some .ftanUnimplemented
  | 0x10 => some .fetoxUnimplemented
  | 0x11 => some .ftwotoxUnimplemented
  | 0x12 => some .ftentoxUnimplemented
  | 0x14 => some .flognUnimplemented
  | 0x15 => some .flog10Unimplemented
  | 0x16 => some .flog2Unimplemented
  | 0x18 => some .fabs
  | 0x19 => some .fcoshUnimplemented
  | 0x1A => some .fneg
  | 0x1C => some .facosUnimplemented
  | 0x1D => some .fcosUnimplemented
  | 0x1E => some .fgetexpUnimplemented
  | 0x1F => some .fgetmanUnimplemented
  | 0x20 => some .fdiv
  | 0x21 => some .fmodUnimplemented
  | 0x22 => some .fadd
  | 0x23 => some .fmul
  | 0x24 => some .fsgldivUnimplemented
  | 0x25 => some .fremUnimplemented
  | 0x26 => some .fscaleUnimplemented
  | 0x27 => some .fsglmulUnimplemented
  | 0x28 => some .fsub
  | 0x38 => some .fcmp
  | 0x3A => some .ftst
  | 0x40 => some .fsmove
  | 0x41 => some .fssqrt
  | 0x44 => some .fdmove
  | 0x45 => some .fdsqrt
  | 0x58 => some .fsabs
  | 0x5A => some .fsneg
  | 0x5C => some .fdabs
  | 0x5E => some .fdneg
  | 0x60 => some .fsdiv
  | 0x62 => some .fsadd
  | 0x63 => some .fsmul
  | 0x64 => some .fddiv
  | 0x66 => some .fdadd
  | 0x67 => some .fdmul
  | 0x68 => some .fssub
  | 0x6C => some .fdsub
  | 0x30 => some fun s d => .fsincosUnimplemented s d 0
  | 0x31 => some fun s d => .fsincosUnimplemented s d 1
  | 0x32 => some fun s d => .fsincosUnimplemented s d 2
  | 0x33 => some fun s d => .fsincosUnimplemented s d 3
  | 0x34 => some fun s d => .fsincosUnimplemented s d 4
  | 0x35 => some fun s d => .fsincosUnimplemented s d 5
  | 0x36 => some fun s d => .fsincosUnimplemented s d 6
  | 0x37 => some fun s d => .fsincosUnimplemented s d 7
  | _ => none

/-- The source format of a code (R692); 111 is FMOVECR and is handled before. -/
def FpFmt.ofCode (c : BitVec 3) : FpFmt :=
  match c.toNat with
  | 0 => .l | 1 => .s | 2 => .x | 4 => .w | 5 => .d | 6 => .b | _ => .p

/-- An effective address of the operation word that must lie in the set `s`, else the F-line exception (log 19). -/
def fpEa (s : EaSet) (n : Nat) (w : Word) (ws : List Word) (k : Ea → Instr) : Parse Instr :=
  if s.has (w.extractLsb' 3 3) (ry w) then (eaOf n w ws).map k else .stop .fline

/-- FMOVE FPm,<ea> (opclass 011, R693). -/
def fpStore (c w : Word) (ws : List Word) : Parse Instr :=
  let src := c.extractLsb' 7 3
  match (c.extractLsb' 10 3).toNat with
  | 0 => fpEa (FpFmt.dstModes .l) 1 w ws (.fmoveLFpmEa src)
  | 1 => fpEa (FpFmt.dstModes .s) 1 w ws (.fmoveSFpmEa src)
  | 2 => fpEa (FpFmt.dstModes .x) 1 w ws (.fmoveXFpmEa src)
  | 3 => fpEa (FpFmt.dstModes .p) 1 w ws (.fmovePKFpmEa src (c.extractLsb' 0 7))
  | 4 => fpEa (FpFmt.dstModes .w) 1 w ws (.fmoveWFpmEa src)
  | 5 => fpEa (FpFmt.dstModes .d) 1 w ws (.fmoveDFpmEa src)
  | 6 => fpEa (FpFmt.dstModes .b) 1 w ws (.fmoveBFpmEa src)
  | _ => fpEa (FpFmt.dstModes .p) 1 w ws (.fmovePDnFpmEa src (c.extractLsb' 4 3))

/-- FMOVE and FMOVEM of control registers (opclass 100 and 101, R694). -/
def fpCtrl (store : Bool) (c w : Word) (ws : List Word) : Parse Instr :=
  let regs := c.extractLsb' 10 3
  let n := 2 * ctrlCount regs
  if store then
    match regs.toNat with
    | 4 => fpEa (ctrlDstModes 4) n w ws .fmoveLFpcrEa
    | 2 => fpEa (ctrlDstModes 2) n w ws .fmoveLFpsrEa
    | 1 => fpEa (ctrlDstModes 1) n w ws .fmoveLFpiarEa
    | _ => fpEa (ctrlDstModes regs) n w ws (.fmovemLCtrlListEa regs)
  else
    match regs.toNat with
    | 4 => fpEa (ctrlSrcModes 4) n w ws .fmoveLEaFpcr
    | 2 => fpEa (ctrlSrcModes 2) n w ws .fmoveLEaFpsr
    | 1 => fpEa (ctrlSrcModes 1) n w ws .fmoveLEaFpiar
    | _ => fpEa (ctrlSrcModes regs) n w ws (.fmovemLEaCtrlList regs)

/-- The general type, operation word $F200 + ea and a command word (R474, R691 to R695). -/
def fpGeneral (w : Word) (ws : List Word) : Parse Instr :=
  (takeWord ws).bind fun c ws =>
    match (c.extractLsb' 13 3).toNat with
    | 0 =>
      match fpOp (c.extractLsb' 0 7) with
      | some k => .ok (k (.fp (c.extractLsb' 10 3)) (c.extractLsb' 7 3)) ws
      | none => .stop .fline
    | 2 =>
      if c.extractLsb' 10 3 = 7#3 then .ok (.fmovecrUnimplemented (c.extractLsb' 7 3) (c.extractLsb' 0 7)) ws
      else
        match fpOp (c.extractLsb' 0 7) with
        | some k =>
          let f := FpFmt.ofCode (c.extractLsb' 10 3)
          fpEa f.srcModes f.immWords w ws fun e => k (.ea f e) (c.extractLsb' 7 3)
        | none => .stop .fline
    | 3 => fpStore c w ws
    | 4 => fpCtrl false c w ws
    | 5 => fpCtrl true c w ws
    | 6 => fpEa EaSet.movemLoad 1 w ws (.fmovemXEaList (c.extractLsb' 11 2) (c.extractLsb' 0 8))
    | 7 => fpEa EaSet.movemStore 1 w ws (.fmovemXListEa (c.extractLsb' 11 2) (c.extractLsb' 0 8))
    | _ => .stop .fline

/-- A predicate field: values with bit 5 set are no predicates (R699). -/
def withPred (p : BitVec 6) (k : BitVec 5 → Parse Instr) : Parse Instr :=
  if p.getLsbD 5 then .stop .fline else k (p.extractLsb' 0 5)

/-- FScc, FDBcc, FTRAPcc: a predicate word follows (R696). -/
def predWord (ws : List Word) (k : BitVec 5 → List Word → Parse Instr) : Parse Instr :=
  (takeWord ws).bind fun p ws => withPred (p.extractLsb' 0 6) fun p => k p ws

/-- FBcc.W and FNOP (R697, R765). -/
def fbccW (w : Word) (ws : List Word) : Parse Instr :=
  withPred (w.extractLsb' 0 6) fun p => (takeWord ws).map fun d =>
    if p = 0 ∧ d = 0 then .fnop else .fbccW p d

/-- FBcc.L (R697). -/
def fbccL (w : Word) (ws : List Word) : Parse Instr :=
  withPred (w.extractLsb' 0 6) fun p => (takeLong ws).map (.fbccL p)

/-! ### The opcode table, one list of rows for each value of bits 15:12 (R472, R475) -/

/-- A row of the opcode table: the operation word selects it when its masked bits are the pattern and its
effective-address field, if it has one, lies in the allowed set. -/
structure Row where
  mask : Word
  pattern : Word
  modes : Option EaSet
  parse : Word → List Word → Parse Instr

/-- Whether an operation word selects the row. -/
def Row.selects (r : Row) (w : Word) : Bool :=
  w &&& r.mask == r.pattern &&
    match r.modes with
    | some s => s.has (w.extractLsb' 3 3) (ry w)
    | none => true

/-- Operation words with bits 15:12 = 0000, the most specific rows first. -/
def rows0 : List Row := [
  ⟨0xFFFF, 0x003C, none, fun _ ws => imm16 .oriToCcr ws⟩,
  ⟨0xFFFF, 0x007C, none, fun _ ws => imm16 .oriToSr ws⟩,
  ⟨0xFFFF, 0x023C, none, fun _ ws => imm16 .andiToCcr ws⟩,
  ⟨0xFFFF, 0x027C, none, fun _ ws => imm16 .andiToSr ws⟩,
  ⟨0xFFFF, 0x0A3C, none, fun _ ws => imm16 .eoriToCcr ws⟩,
  ⟨0xFFFF, 0x0A7C, none, fun _ ws => imm16 .eoriToSr ws⟩,
  ⟨0xFFFF, 0x0CFC, none, fun _ ws => cas2Words .cas2W ws⟩,
  ⟨0xFFFF, 0x0EFC, none, fun _ ws => cas2Words .cas2L ws⟩,
  ⟨0xFFC0, 0x0000, some EaSet.dataAlt, fun w ws => imm8Ea .oriB 1 w ws⟩,
  ⟨0xFFC0, 0x0040, some EaSet.dataAlt, fun w ws => imm16Ea .oriW 1 w ws⟩,
  ⟨0xFFC0, 0x0080, some EaSet.dataAlt, fun w ws => imm32Ea .oriL 2 w ws⟩,
  ⟨0xFFC0, 0x0200, some EaSet.dataAlt, fun w ws => imm8Ea .andiB 1 w ws⟩,
  ⟨0xFFC0, 0x0240, some EaSet.dataAlt, fun w ws => imm16Ea .andiW 1 w ws⟩,
  ⟨0xFFC0, 0x0280, some EaSet.dataAlt, fun w ws => imm32Ea .andiL 2 w ws⟩,
  ⟨0xFFC0, 0x0400, some EaSet.dataAlt, fun w ws => imm8Ea .subiB 1 w ws⟩,
  ⟨0xFFC0, 0x0440, some EaSet.dataAlt, fun w ws => imm16Ea .subiW 1 w ws⟩,
  ⟨0xFFC0, 0x0480, some EaSet.dataAlt, fun w ws => imm32Ea .subiL 2 w ws⟩,
  ⟨0xFFC0, 0x0600, some EaSet.dataAlt, fun w ws => imm8Ea .addiB 1 w ws⟩,
  ⟨0xFFC0, 0x0640, some EaSet.dataAlt, fun w ws => imm16Ea .addiW 1 w ws⟩,
  ⟨0xFFC0, 0x0680, some EaSet.dataAlt, fun w ws => imm32Ea .addiL 2 w ws⟩,
  ⟨0xFFC0, 0x0A00, some EaSet.dataAlt, fun w ws => imm8Ea .eoriB 1 w ws⟩,
  ⟨0xFFC0, 0x0A40, some EaSet.dataAlt, fun w ws => imm16Ea .eoriW 1 w ws⟩,
  ⟨0xFFC0, 0x0A80, some EaSet.dataAlt, fun w ws => imm32Ea .eoriL 2 w ws⟩,
  ⟨0xFFC0, 0x0C00, some EaSet.dataNoImm, fun w ws => imm8Ea .cmpiB 1 w ws⟩,
  ⟨0xFFC0, 0x0C40, some EaSet.dataNoImm, fun w ws => imm16Ea .cmpiW 1 w ws⟩,
  ⟨0xFFC0, 0x0C80, some EaSet.dataNoImm, fun w ws => imm32Ea .cmpiL 2 w ws⟩,
  ⟨0xFFC0, 0x0800, some EaSet.dataNoImm, fun w ws => imm8Ea .btst 1 w ws⟩,
  ⟨0xFFC0, 0x0840, some EaSet.dataAlt, fun w ws => imm8Ea .bchg 1 w ws⟩,
  ⟨0xFFC0, 0x0880, some EaSet.dataAlt, fun w ws => imm8Ea .bclr 1 w ws⟩,
  ⟨0xFFC0, 0x08C0, some EaSet.dataAlt, fun w ws => imm8Ea .bset 1 w ws⟩,
  ⟨0xF1F8, 0x0108, none, fun w ws => imm16 (.movepWD16AyDx (rx w) (ry w)) ws⟩,
  ⟨0xF1F8, 0x0148, none, fun w ws => imm16 (.movepLD16AyDx (rx w) (ry w)) ws⟩,
  ⟨0xF1F8, 0x0188, none, fun w ws => imm16 (.movepWDxD16Ay (rx w) (ry w)) ws⟩,
  ⟨0xF1F8, 0x01C8, none, fun w ws => imm16 (.movepLDxD16Ay (rx w) (ry w)) ws⟩,
  ⟨0xFFC0, 0x0E00, some EaSet.memAlt, fun w ws => movesWord .movesB w ws⟩,
  ⟨0xFFC0, 0x0E40, some EaSet.memAlt, fun w ws => movesWord .movesW w ws⟩,
  ⟨0xFFC0, 0x0E80, some EaSet.memAlt, fun w ws => movesWord .movesL w ws⟩,
  ⟨0xFFC0, 0x0AC0, some EaSet.memAlt, fun w ws => casWord .casB w ws⟩,
  ⟨0xFFC0, 0x0CC0, some EaSet.memAlt, fun w ws => casWord .casW w ws⟩,
  ⟨0xFFC0, 0x0EC0, some EaSet.memAlt, fun w ws => casWord .casL w ws⟩,
  ⟨0xFFC0, 0x00C0, some EaSet.control, fun w ws => cmp2Chk2 .cmp2B .chk2B w ws⟩,
  ⟨0xFFC0, 0x02C0, some EaSet.control, fun w ws => cmp2Chk2 .cmp2W .chk2W w ws⟩,
  ⟨0xFFC0, 0x04C0, some EaSet.control, fun w ws => cmp2Chk2 .cmp2L .chk2L w ws⟩,
  ⟨0xF1C0, 0x0100, some EaSet.data, fun w ws => regEa .btstDn 1 w ws⟩,
  ⟨0xF1C0, 0x0140, some EaSet.dataAlt, fun w ws => regEa .bchgDn 1 w ws⟩,
  ⟨0xF1C0, 0x0180, some EaSet.dataAlt, fun w ws => regEa .bclrDn 1 w ws⟩,
  ⟨0xF1C0, 0x01C0, some EaSet.dataAlt, fun w ws => regEa .bsetDn 1 w ws⟩]

/-- Operation words with bits 15:12 = 0001, the most specific rows first. -/
def rows1 : List Row := [
  ⟨0xF000, 0x1000, some EaSet.data, fun w ws => moveEas .moveB 1 w ws⟩]

/-- Operation words with bits 15:12 = 0010, the most specific rows first. -/
def rows2 : List Row := [
  ⟨0xF1C0, 0x2040, some EaSet.all, fun w ws => regEa .moveaL 2 w ws⟩,
  ⟨0xF000, 0x2000, some EaSet.all, fun w ws => moveEas .moveL 2 w ws⟩]

/-- Operation words with bits 15:12 = 0011, the most specific rows first. -/
def rows3 : List Row := [
  ⟨0xF1C0, 0x3040, some EaSet.all, fun w ws => regEa .moveaW 1 w ws⟩,
  ⟨0xF000, 0x3000, some EaSet.all, fun w ws => moveEas .moveW 1 w ws⟩]

/-- Operation words with bits 15:12 = 0100, the most specific rows first. -/
def rows4 : List Row := [
  ⟨0xFFFF, 0x4AFC, none, fun _ ws => .ok .illegal ws⟩,
  ⟨0xFFFF, 0x4E70, none, fun _ ws => .ok .reset ws⟩,
  ⟨0xFFFF, 0x4E71, none, fun _ ws => .ok .nop ws⟩,
  ⟨0xFFFF, 0x4E72, none, fun _ ws => imm16 .stop ws⟩,
  ⟨0xFFFF, 0x4E73, none, fun _ ws => .ok .rte ws⟩,
  ⟨0xFFFF, 0x4E74, none, fun _ ws => imm16 .rtd ws⟩,
  ⟨0xFFFF, 0x4E75, none, fun _ ws => .ok .rts ws⟩,
  ⟨0xFFFF, 0x4E76, none, fun _ ws => .ok .trapv ws⟩,
  ⟨0xFFFF, 0x4E77, none, fun _ ws => .ok .rtr ws⟩,
  ⟨0xFFFF, 0x4E7A, none, fun _ ws => movecWord .movecRcRn ws⟩,
  ⟨0xFFFF, 0x4E7B, none, fun _ ws => movecWord .movecRnRc ws⟩,
  ⟨0xFFF8, 0x4808, none, fun w ws => imm32 (.linkL (ry w)) ws⟩,
  ⟨0xFFF8, 0x4840, none, fun w ws => .ok (.swap (ry w)) ws⟩,
  ⟨0xFFF8, 0x4848, none, fun w ws => .ok (.bkpt (ry w)) ws⟩,
  ⟨0xFFF8, 0x4880, none, fun w ws => .ok (.extW (ry w)) ws⟩,
  ⟨0xFFF8, 0x48C0, none, fun w ws => .ok (.extL (ry w)) ws⟩,
  ⟨0xFFF8, 0x49C0, none, fun w ws => .ok (.extbL (ry w)) ws⟩,
  ⟨0xFFF8, 0x4E50, none, fun w ws => imm16 (.linkW (ry w)) ws⟩,
  ⟨0xFFF8, 0x4E58, none, fun w ws => .ok (.unlk (ry w)) ws⟩,
  ⟨0xFFF8, 0x4E60, none, fun w ws => .ok (.moveAnUsp (ry w)) ws⟩,
  ⟨0xFFF8, 0x4E68, none, fun w ws => .ok (.moveUspAn (ry w)) ws⟩,
  ⟨0xFFF0, 0x4E40, none, fun w ws => .ok (.trap (w.extractLsb' 0 4)) ws⟩,
  ⟨0xFFC0, 0x4000, some EaSet.dataAlt, fun w ws => oneEa .negxB 1 w ws⟩,
  ⟨0xFFC0, 0x4040, some EaSet.dataAlt, fun w ws => oneEa .negxW 1 w ws⟩,
  ⟨0xFFC0, 0x4080, some EaSet.dataAlt, fun w ws => oneEa .negxL 2 w ws⟩,
  ⟨0xFFC0, 0x4200, some EaSet.dataAlt, fun w ws => oneEa .clrB 1 w ws⟩,
  ⟨0xFFC0, 0x4240, some EaSet.dataAlt, fun w ws => oneEa .clrW 1 w ws⟩,
  ⟨0xFFC0, 0x4280, some EaSet.dataAlt, fun w ws => oneEa .clrL 2 w ws⟩,
  ⟨0xFFC0, 0x4400, some EaSet.dataAlt, fun w ws => oneEa .negB 1 w ws⟩,
  ⟨0xFFC0, 0x4440, some EaSet.dataAlt, fun w ws => oneEa .negW 1 w ws⟩,
  ⟨0xFFC0, 0x4480, some EaSet.dataAlt, fun w ws => oneEa .negL 2 w ws⟩,
  ⟨0xFFC0, 0x4600, some EaSet.dataAlt, fun w ws => oneEa .notB 1 w ws⟩,
  ⟨0xFFC0, 0x4640, some EaSet.dataAlt, fun w ws => oneEa .notW 1 w ws⟩,
  ⟨0xFFC0, 0x4680, some EaSet.dataAlt, fun w ws => oneEa .notL 2 w ws⟩,
  ⟨0xFFC0, 0x40C0, some EaSet.dataAlt, fun w ws => oneEa .moveFromSr 1 w ws⟩,
  ⟨0xFFC0, 0x42C0, some EaSet.dataAlt, fun w ws => oneEa .moveFromCcr 1 w ws⟩,
  ⟨0xFFC0, 0x44C0, some EaSet.data, fun w ws => oneEa .moveToCcr 1 w ws⟩,
  ⟨0xFFC0, 0x46C0, some EaSet.data, fun w ws => oneEa .moveToSr 1 w ws⟩,
  ⟨0xFFC0, 0x4800, some EaSet.dataAlt, fun w ws => oneEa .nbcd 1 w ws⟩,
  ⟨0xFFC0, 0x4840, some EaSet.control, fun w ws => oneEa .pea 1 w ws⟩,
  ⟨0xFFC0, 0x4880, some EaSet.movemStore, fun w ws => imm16Ea .movemWListEa 1 w ws⟩,
  ⟨0xFFC0, 0x4C80, some EaSet.movemLoad, fun w ws => imm16Ea .movemWEaList 1 w ws⟩,
  ⟨0xFFC0, 0x48C0, some EaSet.movemStore, fun w ws => imm16Ea .movemLListEa 1 w ws⟩,
  ⟨0xFFC0, 0x4CC0, some EaSet.movemLoad, fun w ws => imm16Ea .movemLEaList 1 w ws⟩,
  ⟨0xFFC0, 0x4A00, some EaSet.data, fun w ws => oneEa .tstB 1 w ws⟩,
  ⟨0xFFC0, 0x4A40, some EaSet.all, fun w ws => oneEa .tstW 1 w ws⟩,
  ⟨0xFFC0, 0x4A80, some EaSet.all, fun w ws => oneEa .tstL 2 w ws⟩,
  ⟨0xFFC0, 0x4AC0, some EaSet.dataAlt, fun w ws => oneEa .tas 1 w ws⟩,
  ⟨0xFFC0, 0x4E80, some EaSet.control, fun w ws => oneEa .jsr 1 w ws⟩,
  ⟨0xFFC0, 0x4EC0, some EaSet.control, fun w ws => oneEa .jmp 1 w ws⟩,
  ⟨0xFFC0, 0x4C00, some EaSet.data, fun w ws => mulLong w ws⟩,
  ⟨0xFFC0, 0x4C40, some EaSet.data, fun w ws => divLong w ws⟩,
  ⟨0xF1C0, 0x4100, some EaSet.data, fun w ws => regEa .chkL 2 w ws⟩,
  ⟨0xF1C0, 0x4180, some EaSet.data, fun w ws => regEa .chkW 1 w ws⟩,
  ⟨0xF1C0, 0x41C0, some EaSet.control, fun w ws => regEa .lea 1 w ws⟩]

/-- Operation words with bits 15:12 = 0101, the most specific rows first. -/
def rows5 : List Row := [
  ⟨0xF0FF, 0x50FA, none, fun w ws => imm16 (.trapccW (ccOf w)) ws⟩,
  ⟨0xF0FF, 0x50FB, none, fun w ws => imm32 (.trapccL (ccOf w)) ws⟩,
  ⟨0xF0FF, 0x50FC, none, fun w ws => .ok (.trapcc (ccOf w)) ws⟩,
  ⟨0xF0F8, 0x50C8, none, fun w ws => imm16 (.dbcc (ccOf w) (ry w)) ws⟩,
  ⟨0xF1C0, 0x5000, some EaSet.dataAlt, fun w ws => regEa .addqB 1 w ws⟩,
  ⟨0xF1C0, 0x5100, some EaSet.dataAlt, fun w ws => regEa .subqB 1 w ws⟩,
  ⟨0xF1C0, 0x5040, some EaSet.alterable, fun w ws => regEa .addqW 1 w ws⟩,
  ⟨0xF1C0, 0x5140, some EaSet.alterable, fun w ws => regEa .subqW 1 w ws⟩,
  ⟨0xF1C0, 0x5080, some EaSet.alterable, fun w ws => regEa .addqL 1 w ws⟩,
  ⟨0xF1C0, 0x5180, some EaSet.alterable, fun w ws => regEa .subqL 1 w ws⟩,
  ⟨0xF0C0, 0x50C0, some EaSet.dataAlt, fun w ws => (eaOf 1 w ws).map (.scc (ccOf w))⟩]

/-- Operation words with bits 15:12 = 0110, the most specific rows first. -/
def rows6 : List Row := [
  ⟨0xFF00, 0x6000, none, fun w ws => brDisp .bra w ws⟩,
  ⟨0xFF00, 0x6100, none, fun w ws => brDisp .bsr w ws⟩,
  ⟨0xF000, 0x6000, none, fun w ws => brDisp (.bcc (ccOf w)) w ws⟩]

/-- Operation words with bits 15:12 = 0111, the most specific rows first. -/
def rows7 : List Row := [
  ⟨0xF100, 0x7000, none, fun w ws => .ok (.moveq (rx w) (w.extractLsb' 0 8)) ws⟩]

/-- Operation words with bits 15:12 = 1000, the most specific rows first. -/
def rows8 : List Row := [
  ⟨0xF1F0, 0x8100, none, fun w ws => .ok (.sbcd (rx w) (w.getLsbD 3) (ry w)) ws⟩,
  ⟨0xF1F0, 0x8140, none, fun w ws => imm16 (.pack (rx w) (w.getLsbD 3) (ry w)) ws⟩,
  ⟨0xF1F0, 0x8180, none, fun w ws => imm16 (.unpk (rx w) (w.getLsbD 3) (ry w)) ws⟩,
  ⟨0xF1C0, 0x8000, some EaSet.data, fun w ws => regEa .orBEaDn 1 w ws⟩,
  ⟨0xF1C0, 0x8100, some EaSet.memAlt, fun w ws => regEa .orBDnEa 1 w ws⟩,
  ⟨0xF1C0, 0x8040, some EaSet.data, fun w ws => regEa .orWEaDn 1 w ws⟩,
  ⟨0xF1C0, 0x8140, some EaSet.memAlt, fun w ws => regEa .orWDnEa 1 w ws⟩,
  ⟨0xF1C0, 0x8080, some EaSet.data, fun w ws => regEa .orLEaDn 2 w ws⟩,
  ⟨0xF1C0, 0x8180, some EaSet.memAlt, fun w ws => regEa .orLDnEa 2 w ws⟩,
  ⟨0xF1C0, 0x80C0, some EaSet.data, fun w ws => regEa .divuW 1 w ws⟩,
  ⟨0xF1C0, 0x81C0, some EaSet.data, fun w ws => regEa .divsW 1 w ws⟩]

/-- Operation words with bits 15:12 = 1001, the most specific rows first. -/
def rows9 : List Row := [
  ⟨0xF1F0, 0x9100, none, fun w ws => .ok (.subxB (rx w) (w.getLsbD 3) (ry w)) ws⟩,
  ⟨0xF1F0, 0x9140, none, fun w ws => .ok (.subxW (rx w) (w.getLsbD 3) (ry w)) ws⟩,
  ⟨0xF1F0, 0x9180, none, fun w ws => .ok (.subxL (rx w) (w.getLsbD 3) (ry w)) ws⟩,
  ⟨0xF1C0, 0x9000, some EaSet.data, fun w ws => regEa .subBEaDn 1 w ws⟩,
  ⟨0xF1C0, 0x9100, some EaSet.memAlt, fun w ws => regEa .subBDnEa 1 w ws⟩,
  ⟨0xF1C0, 0x9040, some EaSet.all, fun w ws => regEa .subWEaDn 1 w ws⟩,
  ⟨0xF1C0, 0x9140, some EaSet.memAlt, fun w ws => regEa .subWDnEa 1 w ws⟩,
  ⟨0xF1C0, 0x9080, some EaSet.all, fun w ws => regEa .subLEaDn 2 w ws⟩,
  ⟨0xF1C0, 0x9180, some EaSet.memAlt, fun w ws => regEa .subLDnEa 2 w ws⟩,
  ⟨0xF1C0, 0x90C0, some EaSet.all, fun w ws => regEa .subaW 1 w ws⟩,
  ⟨0xF1C0, 0x91C0, some EaSet.all, fun w ws => regEa .subaL 2 w ws⟩]

/-- Operation words with bits 15:12 = 1011, the most specific rows first. -/
def rowsB : List Row := [
  ⟨0xF1F8, 0xB108, none, fun w ws => .ok (.cmpmB (rx w) (ry w)) ws⟩,
  ⟨0xF1F8, 0xB148, none, fun w ws => .ok (.cmpmW (rx w) (ry w)) ws⟩,
  ⟨0xF1F8, 0xB188, none, fun w ws => .ok (.cmpmL (rx w) (ry w)) ws⟩,
  ⟨0xF1C0, 0xB000, some EaSet.data, fun w ws => regEa .cmpBEaDn 1 w ws⟩,
  ⟨0xF1C0, 0xB040, some EaSet.all, fun w ws => regEa .cmpWEaDn 1 w ws⟩,
  ⟨0xF1C0, 0xB080, some EaSet.all, fun w ws => regEa .cmpLEaDn 2 w ws⟩,
  ⟨0xF1C0, 0xB0C0, some EaSet.all, fun w ws => regEa .cmpaW 1 w ws⟩,
  ⟨0xF1C0, 0xB1C0, some EaSet.all, fun w ws => regEa .cmpaL 2 w ws⟩,
  ⟨0xF1C0, 0xB100, some EaSet.dataAlt, fun w ws => regEa .eorB 1 w ws⟩,
  ⟨0xF1C0, 0xB140, some EaSet.dataAlt, fun w ws => regEa .eorW 1 w ws⟩,
  ⟨0xF1C0, 0xB180, some EaSet.dataAlt, fun w ws => regEa .eorL 2 w ws⟩]

/-- Operation words with bits 15:12 = 1100, the most specific rows first. -/
def rowsC : List Row := [
  ⟨0xF1F8, 0xC140, none, fun w ws => .ok (.exgDxDy (rx w) (ry w)) ws⟩,
  ⟨0xF1F8, 0xC148, none, fun w ws => .ok (.exgAxAy (rx w) (ry w)) ws⟩,
  ⟨0xF1F8, 0xC188, none, fun w ws => .ok (.exgDxAy (rx w) (ry w)) ws⟩,
  ⟨0xF1F0, 0xC100, none, fun w ws => .ok (.abcd (rx w) (w.getLsbD 3) (ry w)) ws⟩,
  ⟨0xF1C0, 0xC000, some EaSet.data, fun w ws => regEa .andBEaDn 1 w ws⟩,
  ⟨0xF1C0, 0xC100, some EaSet.memAlt, fun w ws => regEa .andBDnEa 1 w ws⟩,
  ⟨0xF1C0, 0xC040, some EaSet.data, fun w ws => regEa .andWEaDn 1 w ws⟩,
  ⟨0xF1C0, 0xC140, some EaSet.memAlt, fun w ws => regEa .andWDnEa 1 w ws⟩,
  ⟨0xF1C0, 0xC080, some EaSet.data, fun w ws => regEa .andLEaDn 2 w ws⟩,
  ⟨0xF1C0, 0xC180, some EaSet.memAlt, fun w ws => regEa .andLDnEa 2 w ws⟩,
  ⟨0xF1C0, 0xC0C0, some EaSet.data, fun w ws => regEa .muluW 1 w ws⟩,
  ⟨0xF1C0, 0xC1C0, some EaSet.data, fun w ws => regEa .mulsW 1 w ws⟩]

/-- Operation words with bits 15:12 = 1101, the most specific rows first. -/
def rowsD : List Row := [
  ⟨0xF1F0, 0xD100, none, fun w ws => .ok (.addxB (rx w) (w.getLsbD 3) (ry w)) ws⟩,
  ⟨0xF1F0, 0xD140, none, fun w ws => .ok (.addxW (rx w) (w.getLsbD 3) (ry w)) ws⟩,
  ⟨0xF1F0, 0xD180, none, fun w ws => .ok (.addxL (rx w) (w.getLsbD 3) (ry w)) ws⟩,
  ⟨0xF1C0, 0xD000, some EaSet.data, fun w ws => regEa .addBEaDn 1 w ws⟩,
  ⟨0xF1C0, 0xD100, some EaSet.memAlt, fun w ws => regEa .addBDnEa 1 w ws⟩,
  ⟨0xF1C0, 0xD040, some EaSet.all, fun w ws => regEa .addWEaDn 1 w ws⟩,
  ⟨0xF1C0, 0xD140, some EaSet.memAlt, fun w ws => regEa .addWDnEa 1 w ws⟩,
  ⟨0xF1C0, 0xD080, some EaSet.all, fun w ws => regEa .addLEaDn 2 w ws⟩,
  ⟨0xF1C0, 0xD180, some EaSet.memAlt, fun w ws => regEa .addLDnEa 2 w ws⟩,
  ⟨0xF1C0, 0xD0C0, some EaSet.all, fun w ws => regEa .addaW 1 w ws⟩,
  ⟨0xF1C0, 0xD1C0, some EaSet.all, fun w ws => regEa .addaL 2 w ws⟩]

/-- Operation words with bits 15:12 = 1110, the most specific rows first. -/
def rowsE : List Row := [
  ⟨0xFFC0, 0xE0C0, some EaSet.memAlt, fun w ws => oneEa .asrEa 1 w ws⟩,
  ⟨0xFFC0, 0xE1C0, some EaSet.memAlt, fun w ws => oneEa .aslEa 1 w ws⟩,
  ⟨0xFFC0, 0xE2C0, some EaSet.memAlt, fun w ws => oneEa .lsrEa 1 w ws⟩,
  ⟨0xFFC0, 0xE3C0, some EaSet.memAlt, fun w ws => oneEa .lslEa 1 w ws⟩,
  ⟨0xFFC0, 0xE4C0, some EaSet.memAlt, fun w ws => oneEa .roxrEa 1 w ws⟩,
  ⟨0xFFC0, 0xE5C0, some EaSet.memAlt, fun w ws => oneEa .roxlEa 1 w ws⟩,
  ⟨0xFFC0, 0xE6C0, some EaSet.memAlt, fun w ws => oneEa .rorEa 1 w ws⟩,
  ⟨0xFFC0, 0xE7C0, some EaSet.memAlt, fun w ws => oneEa .rolEa 1 w ws⟩,
  ⟨0xFFC0, 0xE8C0, some EaSet.bfRead, fun w ws => bfWord .bftst w ws⟩,
  ⟨0xFFC0, 0xE9C0, some EaSet.bfRead, fun w ws => bfRegWord .bfextu w ws⟩,
  ⟨0xFFC0, 0xEAC0, some EaSet.bfWrite, fun w ws => bfWord .bfchg w ws⟩,
  ⟨0xFFC0, 0xEBC0, some EaSet.bfRead, fun w ws => bfRegWord .bfexts w ws⟩,
  ⟨0xFFC0, 0xECC0, some EaSet.bfWrite, fun w ws => bfWord .bfclr w ws⟩,
  ⟨0xFFC0, 0xEDC0, some EaSet.bfRead, fun w ws => bfRegWord .bfffo w ws⟩,
  ⟨0xFFC0, 0xEEC0, some EaSet.bfWrite, fun w ws => bfWord .bfset w ws⟩,
  ⟨0xFFC0, 0xEFC0, some EaSet.bfWrite, fun w ws => bfRegWord .bfins w ws⟩,
  ⟨0xF1D8, 0xE000, none, fun w ws => .ok (.asrBDxDy (rx w) (w.getLsbD 5) (ry w)) ws⟩,
  ⟨0xF1D8, 0xE040, none, fun w ws => .ok (.asrWDxDy (rx w) (w.getLsbD 5) (ry w)) ws⟩,
  ⟨0xF1D8, 0xE080, none, fun w ws => .ok (.asrLDxDy (rx w) (w.getLsbD 5) (ry w)) ws⟩,
  ⟨0xF1D8, 0xE100, none, fun w ws => .ok (.aslBDxDy (rx w) (w.getLsbD 5) (ry w)) ws⟩,
  ⟨0xF1D8, 0xE140, none, fun w ws => .ok (.aslWDxDy (rx w) (w.getLsbD 5) (ry w)) ws⟩,
  ⟨0xF1D8, 0xE180, none, fun w ws => .ok (.aslLDxDy (rx w) (w.getLsbD 5) (ry w)) ws⟩,
  ⟨0xF1D8, 0xE008, none, fun w ws => .ok (.lsrBDxDy (rx w) (w.getLsbD 5) (ry w)) ws⟩,
  ⟨0xF1D8, 0xE048, none, fun w ws => .ok (.lsrWDxDy (rx w) (w.getLsbD 5) (ry w)) ws⟩,
  ⟨0xF1D8, 0xE088, none, fun w ws => .ok (.lsrLDxDy (rx w) (w.getLsbD 5) (ry w)) ws⟩,
  ⟨0xF1D8, 0xE108, none, fun w ws => .ok (.lslBDxDy (rx w) (w.getLsbD 5) (ry w)) ws⟩,
  ⟨0xF1D8, 0xE148, none, fun w ws => .ok (.lslWDxDy (rx w) (w.getLsbD 5) (ry w)) ws⟩,
  ⟨0xF1D8, 0xE188, none, fun w ws => .ok (.lslLDxDy (rx w) (w.getLsbD 5) (ry w)) ws⟩,
  ⟨0xF1D8, 0xE010, none, fun w ws => .ok (.roxrBDxDy (rx w) (w.getLsbD 5) (ry w)) ws⟩,
  ⟨0xF1D8, 0xE050, none, fun w ws => .ok (.roxrWDxDy (rx w) (w.getLsbD 5) (ry w)) ws⟩,
  ⟨0xF1D8, 0xE090, none, fun w ws => .ok (.roxrLDxDy (rx w) (w.getLsbD 5) (ry w)) ws⟩,
  ⟨0xF1D8, 0xE110, none, fun w ws => .ok (.roxlBDxDy (rx w) (w.getLsbD 5) (ry w)) ws⟩,
  ⟨0xF1D8, 0xE150, none, fun w ws => .ok (.roxlWDxDy (rx w) (w.getLsbD 5) (ry w)) ws⟩,
  ⟨0xF1D8, 0xE190, none, fun w ws => .ok (.roxlLDxDy (rx w) (w.getLsbD 5) (ry w)) ws⟩,
  ⟨0xF1D8, 0xE018, none, fun w ws => .ok (.rorBDxDy (rx w) (w.getLsbD 5) (ry w)) ws⟩,
  ⟨0xF1D8, 0xE058, none, fun w ws => .ok (.rorWDxDy (rx w) (w.getLsbD 5) (ry w)) ws⟩,
  ⟨0xF1D8, 0xE098, none, fun w ws => .ok (.rorLDxDy (rx w) (w.getLsbD 5) (ry w)) ws⟩,
  ⟨0xF1D8, 0xE118, none, fun w ws => .ok (.rolBDxDy (rx w) (w.getLsbD 5) (ry w)) ws⟩,
  ⟨0xF1D8, 0xE158, none, fun w ws => .ok (.rolWDxDy (rx w) (w.getLsbD 5) (ry w)) ws⟩,
  ⟨0xF1D8, 0xE198, none, fun w ws => .ok (.rolLDxDy (rx w) (w.getLsbD 5) (ry w)) ws⟩]

/-- Operation words with bits 15:12 = 1111, the most specific rows first. -/
def rowsF : List Row := [
  ⟨0xFFFF, 0xF27A, none, fun _ ws => predWord ws fun p ws => imm16 (.ftrapccW p) ws⟩,
  ⟨0xFFFF, 0xF27B, none, fun _ ws => predWord ws fun p ws => imm32 (.ftrapccL p) ws⟩,
  ⟨0xFFFF, 0xF27C, none, fun _ ws => predWord ws fun p ws => .ok (.ftrapcc p) ws⟩,
  ⟨0xFFF8, 0xF500, none, fun w ws => .ok (.pflushnAn (ry w)) ws⟩,
  ⟨0xFFF8, 0xF508, none, fun w ws => .ok (.pflushAn (ry w)) ws⟩,
  ⟨0xFFF8, 0xF510, none, fun _ ws => .ok .pflushan ws⟩,
  ⟨0xFFF8, 0xF518, none, fun _ ws => .ok .pflusha ws⟩,
  ⟨0xFFF8, 0xF548, none, fun w ws => .ok (.ptestwAn (ry w)) ws⟩,
  ⟨0xFFF8, 0xF568, none, fun w ws => .ok (.ptestrAn (ry w)) ws⟩,
  ⟨0xFFF8, 0xF620, none, fun w ws => move16Pair .move16AxPlusAyPlus w ws⟩,
  ⟨0xFFF8, 0xF600, none, fun w ws => imm32 (.move16AnPlusXxxL (ry w)) ws⟩,
  ⟨0xFFF8, 0xF608, none, fun w ws => imm32 (.move16XxxLAnPlus (ry w)) ws⟩,
  ⟨0xFFF8, 0xF610, none, fun w ws => imm32 (.move16AnXxxL (ry w)) ws⟩,
  ⟨0xFFF8, 0xF618, none, fun w ws => imm32 (.move16XxxLAn (ry w)) ws⟩,
  ⟨0xFFF8, 0xF248, none, fun w ws => predWord ws fun p ws => imm16 (.fdbcc p (ry w)) ws⟩,
  ⟨0xFF38, 0xF408, none, fun w ws => .ok (.cinvl (w.extractLsb' 6 2) (ry w)) ws⟩,
  ⟨0xFF38, 0xF410, none, fun w ws => .ok (.cinvp (w.extractLsb' 6 2) (ry w)) ws⟩,
  ⟨0xFF38, 0xF418, none, fun w ws => .ok (.cinva (w.extractLsb' 6 2)) ws⟩,
  ⟨0xFF38, 0xF428, none, fun w ws => .ok (.cpushl (w.extractLsb' 6 2) (ry w)) ws⟩,
  ⟨0xFF38, 0xF430, none, fun w ws => .ok (.cpushp (w.extractLsb' 6 2) (ry w)) ws⟩,
  ⟨0xFF38, 0xF438, none, fun w ws => .ok (.cpusha (w.extractLsb' 6 2)) ws⟩,
  ⟨0xFFC0, 0xF300, some EaSet.fsaveModes, fun w ws => oneEa .fsave 1 w ws⟩,
  ⟨0xFFC0, 0xF340, some EaSet.frestoreModes, fun w ws => oneEa .frestore 1 w ws⟩,
  ⟨0xFFC0, 0xF200, none, fun w ws => fpGeneral w ws⟩,
  ⟨0xFFC0, 0xF240, some EaSet.dataAlt, fun w ws => predWord ws fun p ws => (eaOf 1 w ws).map (.fscc p)⟩,
  ⟨0xFFC0, 0xF280, none, fun w ws => fbccW w ws⟩,
  ⟨0xFFC0, 0xF2C0, none, fun w ws => fbccL w ws⟩]

/-- The rows that can select an operation word. Line 1010 has none. -/
def rowsOf (w : Word) : List Row :=
  match (w.extractLsb' 12 4).toNat with
  | 0 => rows0
  | 1 => rows1
  | 2 => rows2
  | 3 => rows3
  | 4 => rows4
  | 5 => rows5
  | 6 => rows6
  | 7 => rows7
  | 8 => rows8
  | 9 => rows9
  | 11 => rowsB
  | 12 => rowsC
  | 13 => rowsD
  | 14 => rowsE
  | 15 => rowsF
  | _ => []

/-- What a word that no row matches is: A-line, F-line or illegal (R475). -/
def rejectOf (w : Word) : Reject :=
  if w.extractLsb' 12 4 = 0xA then .aline else if w.extractLsb' 12 4 = 0xF then .fline else .illegal

/-- The instruction that starts a list of words (R475), and the words after it. -/
def decode : List Word → Parse Instr
  | [] => .more
  | w :: ws =>
    match (rowsOf w).find? (·.selects w) with
    | some r => r.parse w ws
    | none => .stop (rejectOf w)

/-- The longest instruction, in words (R450). -/
def maxWords : Nat := 11

/-- The words of an instruction numbered as spec/opcode_table.json numbers them: the first word is the least
significant, `nbits` are given, every other bit is zero. -/
def tableWords (nbits w : Nat) : List Word :=
  (List.range maxWords).map fun i => BitVec.ofNat 16 ((w % 2 ^ nbits) >>> (16 * i))

/-- The instruction the decoder reads from a table word. -/
def decodeTableWord (nbits w : Nat) : Option Instr :=
  match decode (tableWords nbits w) with
  | .ok i _ => some i
  | _ => none

end

/-! ### The encoder -/

/-- The words of a well-formed instruction (R450 to R473 and the instructions' own rules), unused bits zero. -/
def encode : Instr → List Word
  | .oriToCcr imm => [(0b0000000000111100#16 : Word)] ++ [imm]
  | .oriToSr imm => [(0b0000000001111100#16 : Word)] ++ [imm]
  | .andiToCcr imm => [(0b0000001000111100#16 : Word)] ++ [imm]
  | .andiToSr imm => [(0b0000001001111100#16 : Word)] ++ [imm]
  | .eoriToCcr imm => [(0b0000101000111100#16 : Word)] ++ [imm]
  | .eoriToSr imm => [(0b0000101001111100#16 : Word)] ++ [imm]
  | .oriB imm ea => [(0b0000000000#10 ++ ea.field : Word)] ++ [0#8 ++ imm] ++ ea.ext 1
  | .oriW imm ea => [(0b0000000001#10 ++ ea.field : Word)] ++ [imm] ++ ea.ext 1
  | .oriL imm ea => [(0b0000000010#10 ++ ea.field : Word)] ++ longWords imm ++ ea.ext 2
  | .andiB imm ea => [(0b0000001000#10 ++ ea.field : Word)] ++ [0#8 ++ imm] ++ ea.ext 1
  | .andiW imm ea => [(0b0000001001#10 ++ ea.field : Word)] ++ [imm] ++ ea.ext 1
  | .andiL imm ea => [(0b0000001010#10 ++ ea.field : Word)] ++ longWords imm ++ ea.ext 2
  | .subiB imm ea => [(0b0000010000#10 ++ ea.field : Word)] ++ [0#8 ++ imm] ++ ea.ext 1
  | .subiW imm ea => [(0b0000010001#10 ++ ea.field : Word)] ++ [imm] ++ ea.ext 1
  | .subiL imm ea => [(0b0000010010#10 ++ ea.field : Word)] ++ longWords imm ++ ea.ext 2
  | .addiB imm ea => [(0b0000011000#10 ++ ea.field : Word)] ++ [0#8 ++ imm] ++ ea.ext 1
  | .addiW imm ea => [(0b0000011001#10 ++ ea.field : Word)] ++ [imm] ++ ea.ext 1
  | .addiL imm ea => [(0b0000011010#10 ++ ea.field : Word)] ++ longWords imm ++ ea.ext 2
  | .eoriB imm ea => [(0b0000101000#10 ++ ea.field : Word)] ++ [0#8 ++ imm] ++ ea.ext 1
  | .eoriW imm ea => [(0b0000101001#10 ++ ea.field : Word)] ++ [imm] ++ ea.ext 1
  | .eoriL imm ea => [(0b0000101010#10 ++ ea.field : Word)] ++ longWords imm ++ ea.ext 2
  | .cmpiB imm ea => [(0b0000110000#10 ++ ea.field : Word)] ++ [0#8 ++ imm] ++ ea.ext 1
  | .cmpiW imm ea => [(0b0000110001#10 ++ ea.field : Word)] ++ [imm] ++ ea.ext 1
  | .cmpiL imm ea => [(0b0000110010#10 ++ ea.field : Word)] ++ longWords imm ++ ea.ext 2
  | .btst bit ea => [(0b0000100000#10 ++ ea.field : Word)] ++ [0#8 ++ bit] ++ ea.ext 1
  | .btstDn dn ea => [(0b0000#4 ++ dn ++ 0b100#3 ++ ea.field : Word)] ++ ea.ext 1
  | .bchg bit ea => [(0b0000100001#10 ++ ea.field : Word)] ++ [0#8 ++ bit] ++ ea.ext 1
  | .bchgDn dn ea => [(0b0000#4 ++ dn ++ 0b101#3 ++ ea.field : Word)] ++ ea.ext 1
  | .bclr bit ea => [(0b0000100010#10 ++ ea.field : Word)] ++ [0#8 ++ bit] ++ ea.ext 1
  | .bclrDn dn ea => [(0b0000#4 ++ dn ++ 0b110#3 ++ ea.field : Word)] ++ ea.ext 1
  | .bset bit ea => [(0b0000100011#10 ++ ea.field : Word)] ++ [0#8 ++ bit] ++ ea.ext 1
  | .bsetDn dn ea => [(0b0000#4 ++ dn ++ 0b111#3 ++ ea.field : Word)] ++ ea.ext 1
  | .movepWD16AyDx dx ay d => [(0b0000#4 ++ dx ++ 0b100001#6 ++ ay : Word)] ++ [d]
  | .movepLD16AyDx dx ay d => [(0b0000#4 ++ dx ++ 0b101001#6 ++ ay : Word)] ++ [d]
  | .movepWDxD16Ay dx ay d => [(0b0000#4 ++ dx ++ 0b110001#6 ++ ay : Word)] ++ [d]
  | .movepLDxD16Ay dx ay d => [(0b0000#4 ++ dx ++ 0b111001#6 ++ ay : Word)] ++ [d]
  | .cmp2B rn ea => [(0b0000000011#10 ++ ea.field : Word), (rn ++ 0b0#1 ++ 0#11 : Word)] ++ ea.ext 1
  | .chk2B rn ea => [(0b0000000011#10 ++ ea.field : Word), (rn ++ 0b1#1 ++ 0#11 : Word)] ++ ea.ext 1
  | .cmp2W rn ea => [(0b0000001011#10 ++ ea.field : Word), (rn ++ 0b0#1 ++ 0#11 : Word)] ++ ea.ext 1
  | .chk2W rn ea => [(0b0000001011#10 ++ ea.field : Word), (rn ++ 0b1#1 ++ 0#11 : Word)] ++ ea.ext 1
  | .cmp2L rn ea => [(0b0000010011#10 ++ ea.field : Word), (rn ++ 0b0#1 ++ 0#11 : Word)] ++ ea.ext 1
  | .chk2L rn ea => [(0b0000010011#10 ++ ea.field : Word), (rn ++ 0b1#1 ++ 0#11 : Word)] ++ ea.ext 1
  | .movesB rn toMem ea => [(0b0000111000#10 ++ ea.field : Word), (rn ++ bit1 toMem ++ 0#11 : Word)] ++ ea.ext 1
  | .movesW rn toMem ea => [(0b0000111001#10 ++ ea.field : Word), (rn ++ bit1 toMem ++ 0#11 : Word)] ++ ea.ext 1
  | .movesL rn toMem ea => [(0b0000111010#10 ++ ea.field : Word), (rn ++ bit1 toMem ++ 0#11 : Word)] ++ ea.ext 1
  | .casB du dc ea => [(0b0000101011#10 ++ ea.field : Word), (0#7 ++ du ++ 0#3 ++ dc : Word)] ++ ea.ext 1
  | .casW du dc ea => [(0b0000110011#10 ++ ea.field : Word), (0#7 ++ du ++ 0#3 ++ dc : Word)] ++ ea.ext 1
  | .casL du dc ea => [(0b0000111011#10 ++ ea.field : Word), (0#7 ++ du ++ 0#3 ++ dc : Word)] ++ ea.ext 1
  | .cas2W rn1 du1 dc1 rn2 du2 dc2 => [(0b0000110011111100#16 : Word), (rn1 ++ 0#3 ++ du1 ++ 0#3 ++ dc1 : Word), (rn2 ++ 0#3 ++ du2 ++ 0#3 ++ dc2 : Word)]
  | .cas2L rn1 du1 dc1 rn2 du2 dc2 => [(0b0000111011111100#16 : Word), (rn1 ++ 0#3 ++ du1 ++ 0#3 ++ dc1 : Word), (rn2 ++ 0#3 ++ du2 ++ 0#3 ++ dc2 : Word)]
  | .moveB src dst => [(0b0001#4 ++ dst.regField ++ dst.modeField ++ src.field : Word)] ++ src.ext 1 ++ dst.ext 1
  | .moveL src dst => [(0b0010#4 ++ dst.regField ++ dst.modeField ++ src.field : Word)] ++ src.ext 2 ++ dst.ext 2
  | .moveW src dst => [(0b0011#4 ++ dst.regField ++ dst.modeField ++ src.field : Word)] ++ src.ext 1 ++ dst.ext 1
  | .moveaL an ea => [(0b0010#4 ++ an ++ 0b001#3 ++ ea.field : Word)] ++ ea.ext 2
  | .moveaW an ea => [(0b0011#4 ++ an ++ 0b001#3 ++ ea.field : Word)] ++ ea.ext 1
  | .negxB ea => [(0b0100000000#10 ++ ea.field : Word)] ++ ea.ext 1
  | .negxW ea => [(0b0100000001#10 ++ ea.field : Word)] ++ ea.ext 1
  | .negxL ea => [(0b0100000010#10 ++ ea.field : Word)] ++ ea.ext 2
  | .clrB ea => [(0b0100001000#10 ++ ea.field : Word)] ++ ea.ext 1
  | .clrW ea => [(0b0100001001#10 ++ ea.field : Word)] ++ ea.ext 1
  | .clrL ea => [(0b0100001010#10 ++ ea.field : Word)] ++ ea.ext 2
  | .negB ea => [(0b0100010000#10 ++ ea.field : Word)] ++ ea.ext 1
  | .negW ea => [(0b0100010001#10 ++ ea.field : Word)] ++ ea.ext 1
  | .negL ea => [(0b0100010010#10 ++ ea.field : Word)] ++ ea.ext 2
  | .notB ea => [(0b0100011000#10 ++ ea.field : Word)] ++ ea.ext 1
  | .notW ea => [(0b0100011001#10 ++ ea.field : Word)] ++ ea.ext 1
  | .notL ea => [(0b0100011010#10 ++ ea.field : Word)] ++ ea.ext 2
  | .moveFromSr ea => [(0b0100000011#10 ++ ea.field : Word)] ++ ea.ext 1
  | .moveFromCcr ea => [(0b0100001011#10 ++ ea.field : Word)] ++ ea.ext 1
  | .moveToCcr ea => [(0b0100010011#10 ++ ea.field : Word)] ++ ea.ext 1
  | .moveToSr ea => [(0b0100011011#10 ++ ea.field : Word)] ++ ea.ext 1
  | .nbcd ea => [(0b0100100000#10 ++ ea.field : Word)] ++ ea.ext 1
  | .linkL an d => [(0b0100100000001#13 ++ an : Word)] ++ longWords d
  | .swap dn => [(0b0100100001000#13 ++ dn : Word)]
  | .bkpt n => [(0b0100100001001#13 ++ n : Word)]
  | .pea ea => [(0b0100100001#10 ++ ea.field : Word)] ++ ea.ext 1
  | .extW dn => [(0b0100100010000#13 ++ dn : Word)]
  | .extL dn => [(0b0100100011000#13 ++ dn : Word)]
  | .extbL dn => [(0b0100100111000#13 ++ dn : Word)]
  | .movemWListEa list ea => [(0b0100100010#10 ++ ea.field : Word)] ++ [list] ++ ea.ext 1
  | .movemWEaList list ea => [(0b0100110010#10 ++ ea.field : Word)] ++ [list] ++ ea.ext 1
  | .movemLListEa list ea => [(0b0100100011#10 ++ ea.field : Word)] ++ [list] ++ ea.ext 1
  | .movemLEaList list ea => [(0b0100110011#10 ++ ea.field : Word)] ++ [list] ++ ea.ext 1
  | .tstB ea => [(0b0100101000#10 ++ ea.field : Word)] ++ ea.ext 1
  | .tstW ea => [(0b0100101001#10 ++ ea.field : Word)] ++ ea.ext 1
  | .tstL ea => [(0b0100101010#10 ++ ea.field : Word)] ++ ea.ext 2
  | .tas ea => [(0b0100101011#10 ++ ea.field : Word)] ++ ea.ext 1
  | .illegal => [(0b0100101011111100#16 : Word)]
  | .muluLEaDl dl ea => [(0b0100110000#10 ++ ea.field : Word), (0#1 ++ dl ++ 0b00#2 ++ 0#7 ++ 0#3 : Word)] ++ ea.ext 2
  | .muluLEaDhDl dh dl ea => [(0b0100110000#10 ++ ea.field : Word), (0#1 ++ dl ++ 0b01#2 ++ 0#7 ++ dh : Word)] ++ ea.ext 2
  | .mulsLEaDl dl ea => [(0b0100110000#10 ++ ea.field : Word), (0#1 ++ dl ++ 0b10#2 ++ 0#7 ++ 0#3 : Word)] ++ ea.ext 2
  | .mulsLEaDhDl dh dl ea => [(0b0100110000#10 ++ ea.field : Word), (0#1 ++ dl ++ 0b11#2 ++ 0#7 ++ dh : Word)] ++ ea.ext 2
  | .divuLEaDq dq ea => [(0b0100110001#10 ++ ea.field : Word), (0#1 ++ dq ++ 0b00#2 ++ 0#7 ++ dq : Word)] ++ ea.ext 2
  | .divulLEaDrDq dr dq ea => [(0b0100110001#10 ++ ea.field : Word), (0#1 ++ dq ++ 0b00#2 ++ 0#7 ++ dr : Word)] ++ ea.ext 2
  | .divuLEaDrDq dr dq ea => [(0b0100110001#10 ++ ea.field : Word), (0#1 ++ dq ++ 0b01#2 ++ 0#7 ++ dr : Word)] ++ ea.ext 2
  | .divsLEaDq dq ea => [(0b0100110001#10 ++ ea.field : Word), (0#1 ++ dq ++ 0b10#2 ++ 0#7 ++ dq : Word)] ++ ea.ext 2
  | .divslLEaDrDq dr dq ea => [(0b0100110001#10 ++ ea.field : Word), (0#1 ++ dq ++ 0b10#2 ++ 0#7 ++ dr : Word)] ++ ea.ext 2
  | .divsLEaDrDq dr dq ea => [(0b0100110001#10 ++ ea.field : Word), (0#1 ++ dq ++ 0b11#2 ++ 0#7 ++ dr : Word)] ++ ea.ext 2
  | .trap n => [(0b010011100100#12 ++ n : Word)]
  | .linkW an d => [(0b0100111001010#13 ++ an : Word)] ++ [d]
  | .unlk an => [(0b0100111001011#13 ++ an : Word)]
  | .moveAnUsp an => [(0b0100111001100#13 ++ an : Word)]
  | .moveUspAn an => [(0b0100111001101#13 ++ an : Word)]
  | .reset => [(0b0100111001110000#16 : Word)]
  | .nop => [(0b0100111001110001#16 : Word)]
  | .stop imm => [(0b0100111001110010#16 : Word)] ++ [imm]
  | .rte => [(0b0100111001110011#16 : Word)]
  | .rtd d => [(0b0100111001110100#16 : Word)] ++ [d]
  | .rts => [(0b0100111001110101#16 : Word)]
  | .trapv => [(0b0100111001110110#16 : Word)]
  | .rtr => [(0b0100111001110111#16 : Word)]
  | .movecRcRn rn code => [(0b0100111001111010#16 : Word), (rn ++ code : Word)]
  | .movecRnRc rn code => [(0b0100111001111011#16 : Word), (rn ++ code : Word)]
  | .jsr ea => [(0b0100111010#10 ++ ea.field : Word)] ++ ea.ext 1
  | .jmp ea => [(0b0100111011#10 ++ ea.field : Word)] ++ ea.ext 1
  | .chkL dn ea => [(0b0100#4 ++ dn ++ 0b100#3 ++ ea.field : Word)] ++ ea.ext 2
  | .chkW dn ea => [(0b0100#4 ++ dn ++ 0b110#3 ++ ea.field : Word)] ++ ea.ext 1
  | .lea an ea => [(0b0100#4 ++ an ++ 0b111#3 ++ ea.field : Word)] ++ ea.ext 1
  | .addqB data ea => [(0b0101#4 ++ data ++ 0b000#3 ++ ea.field : Word)] ++ ea.ext 1
  | .subqB data ea => [(0b0101#4 ++ data ++ 0b100#3 ++ ea.field : Word)] ++ ea.ext 1
  | .addqW data ea => [(0b0101#4 ++ data ++ 0b001#3 ++ ea.field : Word)] ++ ea.ext 1
  | .subqW data ea => [(0b0101#4 ++ data ++ 0b101#3 ++ ea.field : Word)] ++ ea.ext 1
  | .addqL data ea => [(0b0101#4 ++ data ++ 0b010#3 ++ ea.field : Word)] ++ ea.ext 1
  | .subqL data ea => [(0b0101#4 ++ data ++ 0b110#3 ++ ea.field : Word)] ++ ea.ext 1
  | .scc cc ea => [(0b0101#4 ++ cc ++ 0b11#2 ++ ea.field : Word)] ++ ea.ext 1
  | .dbcc cc dn d => [(0b0101#4 ++ cc ++ 0b11001#5 ++ dn : Word)] ++ [d]
  | .trapccW cc imm => [(0b0101#4 ++ cc ++ 0b11111010#8 : Word)] ++ [imm]
  | .trapccL cc imm => [(0b0101#4 ++ cc ++ 0b11111011#8 : Word)] ++ longWords imm
  | .trapcc cc => [(0b0101#4 ++ cc ++ 0b11111100#8 : Word)]
  | .bra disp => [(0b01100000#8 ++ disp.field : Word)] ++ disp.ext
  | .bsr disp => [(0b01100001#8 ++ disp.field : Word)] ++ disp.ext
  | .bcc cc disp => [(0b0110#4 ++ cc ++ disp.field : Word)] ++ disp.ext
  | .moveq dn d => [(0b0111#4 ++ dn ++ 0b0#1 ++ d : Word)]
  | .orBEaDn dn ea => [(0b1000#4 ++ dn ++ 0b000#3 ++ ea.field : Word)] ++ ea.ext 1
  | .orBDnEa dn ea => [(0b1000#4 ++ dn ++ 0b100#3 ++ ea.field : Word)] ++ ea.ext 1
  | .orWEaDn dn ea => [(0b1000#4 ++ dn ++ 0b001#3 ++ ea.field : Word)] ++ ea.ext 1
  | .orWDnEa dn ea => [(0b1000#4 ++ dn ++ 0b101#3 ++ ea.field : Word)] ++ ea.ext 1
  | .orLEaDn dn ea => [(0b1000#4 ++ dn ++ 0b010#3 ++ ea.field : Word)] ++ ea.ext 2
  | .orLDnEa dn ea => [(0b1000#4 ++ dn ++ 0b110#3 ++ ea.field : Word)] ++ ea.ext 2
  | .divuW dn ea => [(0b1000#4 ++ dn ++ 0b011#3 ++ ea.field : Word)] ++ ea.ext 1
  | .divsW dn ea => [(0b1000#4 ++ dn ++ 0b111#3 ++ ea.field : Word)] ++ ea.ext 1
  | .sbcd rx mem ry => [(0b1000#4 ++ rx ++ 0b10000#5 ++ bit1 mem ++ ry : Word)]
  | .pack rx mem ry adj => [(0b1000#4 ++ rx ++ 0b10100#5 ++ bit1 mem ++ ry : Word)] ++ [adj]
  | .unpk rx mem ry adj => [(0b1000#4 ++ rx ++ 0b11000#5 ++ bit1 mem ++ ry : Word)] ++ [adj]
  | .subBEaDn dn ea => [(0b1001#4 ++ dn ++ 0b000#3 ++ ea.field : Word)] ++ ea.ext 1
  | .subBDnEa dn ea => [(0b1001#4 ++ dn ++ 0b100#3 ++ ea.field : Word)] ++ ea.ext 1
  | .subWEaDn dn ea => [(0b1001#4 ++ dn ++ 0b001#3 ++ ea.field : Word)] ++ ea.ext 1
  | .subWDnEa dn ea => [(0b1001#4 ++ dn ++ 0b101#3 ++ ea.field : Word)] ++ ea.ext 1
  | .subLEaDn dn ea => [(0b1001#4 ++ dn ++ 0b010#3 ++ ea.field : Word)] ++ ea.ext 2
  | .subLDnEa dn ea => [(0b1001#4 ++ dn ++ 0b110#3 ++ ea.field : Word)] ++ ea.ext 2
  | .subaW an ea => [(0b1001#4 ++ an ++ 0b011#3 ++ ea.field : Word)] ++ ea.ext 1
  | .subaL an ea => [(0b1001#4 ++ an ++ 0b111#3 ++ ea.field : Word)] ++ ea.ext 2
  | .subxB rx mem ry => [(0b1001#4 ++ rx ++ 0b10000#5 ++ bit1 mem ++ ry : Word)]
  | .subxW rx mem ry => [(0b1001#4 ++ rx ++ 0b10100#5 ++ bit1 mem ++ ry : Word)]
  | .subxL rx mem ry => [(0b1001#4 ++ rx ++ 0b11000#5 ++ bit1 mem ++ ry : Word)]
  | .cmpBEaDn dn ea => [(0b1011#4 ++ dn ++ 0b000#3 ++ ea.field : Word)] ++ ea.ext 1
  | .cmpWEaDn dn ea => [(0b1011#4 ++ dn ++ 0b001#3 ++ ea.field : Word)] ++ ea.ext 1
  | .cmpLEaDn dn ea => [(0b1011#4 ++ dn ++ 0b010#3 ++ ea.field : Word)] ++ ea.ext 2
  | .cmpaW an ea => [(0b1011#4 ++ an ++ 0b011#3 ++ ea.field : Word)] ++ ea.ext 1
  | .cmpaL an ea => [(0b1011#4 ++ an ++ 0b111#3 ++ ea.field : Word)] ++ ea.ext 2
  | .eorB dn ea => [(0b1011#4 ++ dn ++ 0b100#3 ++ ea.field : Word)] ++ ea.ext 1
  | .cmpmB ax ay => [(0b1011#4 ++ ax ++ 0b100001#6 ++ ay : Word)]
  | .eorW dn ea => [(0b1011#4 ++ dn ++ 0b101#3 ++ ea.field : Word)] ++ ea.ext 1
  | .cmpmW ax ay => [(0b1011#4 ++ ax ++ 0b101001#6 ++ ay : Word)]
  | .eorL dn ea => [(0b1011#4 ++ dn ++ 0b110#3 ++ ea.field : Word)] ++ ea.ext 2
  | .cmpmL ax ay => [(0b1011#4 ++ ax ++ 0b110001#6 ++ ay : Word)]
  | .andBEaDn dn ea => [(0b1100#4 ++ dn ++ 0b000#3 ++ ea.field : Word)] ++ ea.ext 1
  | .andBDnEa dn ea => [(0b1100#4 ++ dn ++ 0b100#3 ++ ea.field : Word)] ++ ea.ext 1
  | .andWEaDn dn ea => [(0b1100#4 ++ dn ++ 0b001#3 ++ ea.field : Word)] ++ ea.ext 1
  | .andWDnEa dn ea => [(0b1100#4 ++ dn ++ 0b101#3 ++ ea.field : Word)] ++ ea.ext 1
  | .andLEaDn dn ea => [(0b1100#4 ++ dn ++ 0b010#3 ++ ea.field : Word)] ++ ea.ext 2
  | .andLDnEa dn ea => [(0b1100#4 ++ dn ++ 0b110#3 ++ ea.field : Word)] ++ ea.ext 2
  | .muluW dn ea => [(0b1100#4 ++ dn ++ 0b011#3 ++ ea.field : Word)] ++ ea.ext 1
  | .mulsW dn ea => [(0b1100#4 ++ dn ++ 0b111#3 ++ ea.field : Word)] ++ ea.ext 1
  | .abcd rx mem ry => [(0b1100#4 ++ rx ++ 0b10000#5 ++ bit1 mem ++ ry : Word)]
  | .exgDxDy rx ry => [(0b1100#4 ++ rx ++ 0b101000#6 ++ ry : Word)]
  | .exgAxAy rx ry => [(0b1100#4 ++ rx ++ 0b101001#6 ++ ry : Word)]
  | .exgDxAy rx ry => [(0b1100#4 ++ rx ++ 0b110001#6 ++ ry : Word)]
  | .addBEaDn dn ea => [(0b1101#4 ++ dn ++ 0b000#3 ++ ea.field : Word)] ++ ea.ext 1
  | .addBDnEa dn ea => [(0b1101#4 ++ dn ++ 0b100#3 ++ ea.field : Word)] ++ ea.ext 1
  | .addWEaDn dn ea => [(0b1101#4 ++ dn ++ 0b001#3 ++ ea.field : Word)] ++ ea.ext 1
  | .addWDnEa dn ea => [(0b1101#4 ++ dn ++ 0b101#3 ++ ea.field : Word)] ++ ea.ext 1
  | .addLEaDn dn ea => [(0b1101#4 ++ dn ++ 0b010#3 ++ ea.field : Word)] ++ ea.ext 2
  | .addLDnEa dn ea => [(0b1101#4 ++ dn ++ 0b110#3 ++ ea.field : Word)] ++ ea.ext 2
  | .addaW an ea => [(0b1101#4 ++ an ++ 0b011#3 ++ ea.field : Word)] ++ ea.ext 1
  | .addaL an ea => [(0b1101#4 ++ an ++ 0b111#3 ++ ea.field : Word)] ++ ea.ext 2
  | .addxB rx mem ry => [(0b1101#4 ++ rx ++ 0b10000#5 ++ bit1 mem ++ ry : Word)]
  | .addxW rx mem ry => [(0b1101#4 ++ rx ++ 0b10100#5 ++ bit1 mem ++ ry : Word)]
  | .addxL rx mem ry => [(0b1101#4 ++ rx ++ 0b11000#5 ++ bit1 mem ++ ry : Word)]
  | .asrBDxDy cnt ir dy => [(0b1110#4 ++ cnt ++ 0b000#3 ++ bit1 ir ++ 0b00#2 ++ dy : Word)]
  | .asrWDxDy cnt ir dy => [(0b1110#4 ++ cnt ++ 0b001#3 ++ bit1 ir ++ 0b00#2 ++ dy : Word)]
  | .asrLDxDy cnt ir dy => [(0b1110#4 ++ cnt ++ 0b010#3 ++ bit1 ir ++ 0b00#2 ++ dy : Word)]
  | .asrEa ea => [(0b1110000011#10 ++ ea.field : Word)] ++ ea.ext 1
  | .aslBDxDy cnt ir dy => [(0b1110#4 ++ cnt ++ 0b100#3 ++ bit1 ir ++ 0b00#2 ++ dy : Word)]
  | .aslWDxDy cnt ir dy => [(0b1110#4 ++ cnt ++ 0b101#3 ++ bit1 ir ++ 0b00#2 ++ dy : Word)]
  | .aslLDxDy cnt ir dy => [(0b1110#4 ++ cnt ++ 0b110#3 ++ bit1 ir ++ 0b00#2 ++ dy : Word)]
  | .aslEa ea => [(0b1110000111#10 ++ ea.field : Word)] ++ ea.ext 1
  | .lsrBDxDy cnt ir dy => [(0b1110#4 ++ cnt ++ 0b000#3 ++ bit1 ir ++ 0b01#2 ++ dy : Word)]
  | .lsrWDxDy cnt ir dy => [(0b1110#4 ++ cnt ++ 0b001#3 ++ bit1 ir ++ 0b01#2 ++ dy : Word)]
  | .lsrLDxDy cnt ir dy => [(0b1110#4 ++ cnt ++ 0b010#3 ++ bit1 ir ++ 0b01#2 ++ dy : Word)]
  | .lsrEa ea => [(0b1110001011#10 ++ ea.field : Word)] ++ ea.ext 1
  | .lslBDxDy cnt ir dy => [(0b1110#4 ++ cnt ++ 0b100#3 ++ bit1 ir ++ 0b01#2 ++ dy : Word)]
  | .lslWDxDy cnt ir dy => [(0b1110#4 ++ cnt ++ 0b101#3 ++ bit1 ir ++ 0b01#2 ++ dy : Word)]
  | .lslLDxDy cnt ir dy => [(0b1110#4 ++ cnt ++ 0b110#3 ++ bit1 ir ++ 0b01#2 ++ dy : Word)]
  | .lslEa ea => [(0b1110001111#10 ++ ea.field : Word)] ++ ea.ext 1
  | .roxrBDxDy cnt ir dy => [(0b1110#4 ++ cnt ++ 0b000#3 ++ bit1 ir ++ 0b10#2 ++ dy : Word)]
  | .roxrWDxDy cnt ir dy => [(0b1110#4 ++ cnt ++ 0b001#3 ++ bit1 ir ++ 0b10#2 ++ dy : Word)]
  | .roxrLDxDy cnt ir dy => [(0b1110#4 ++ cnt ++ 0b010#3 ++ bit1 ir ++ 0b10#2 ++ dy : Word)]
  | .roxrEa ea => [(0b1110010011#10 ++ ea.field : Word)] ++ ea.ext 1
  | .roxlBDxDy cnt ir dy => [(0b1110#4 ++ cnt ++ 0b100#3 ++ bit1 ir ++ 0b10#2 ++ dy : Word)]
  | .roxlWDxDy cnt ir dy => [(0b1110#4 ++ cnt ++ 0b101#3 ++ bit1 ir ++ 0b10#2 ++ dy : Word)]
  | .roxlLDxDy cnt ir dy => [(0b1110#4 ++ cnt ++ 0b110#3 ++ bit1 ir ++ 0b10#2 ++ dy : Word)]
  | .roxlEa ea => [(0b1110010111#10 ++ ea.field : Word)] ++ ea.ext 1
  | .rorBDxDy cnt ir dy => [(0b1110#4 ++ cnt ++ 0b000#3 ++ bit1 ir ++ 0b11#2 ++ dy : Word)]
  | .rorWDxDy cnt ir dy => [(0b1110#4 ++ cnt ++ 0b001#3 ++ bit1 ir ++ 0b11#2 ++ dy : Word)]
  | .rorLDxDy cnt ir dy => [(0b1110#4 ++ cnt ++ 0b010#3 ++ bit1 ir ++ 0b11#2 ++ dy : Word)]
  | .rorEa ea => [(0b1110011011#10 ++ ea.field : Word)] ++ ea.ext 1
  | .rolBDxDy cnt ir dy => [(0b1110#4 ++ cnt ++ 0b100#3 ++ bit1 ir ++ 0b11#2 ++ dy : Word)]
  | .rolWDxDy cnt ir dy => [(0b1110#4 ++ cnt ++ 0b101#3 ++ bit1 ir ++ 0b11#2 ++ dy : Word)]
  | .rolLDxDy cnt ir dy => [(0b1110#4 ++ cnt ++ 0b110#3 ++ bit1 ir ++ 0b11#2 ++ dy : Word)]
  | .rolEa ea => [(0b1110011111#10 ++ ea.field : Word)] ++ ea.ext 1
  | .bftst bf ea => [(0b1110100011#10 ++ ea.field : Word), (0#4 ++ bf.field : Word)] ++ ea.ext 1
  | .bfextu dn bf ea => [(0b1110100111#10 ++ ea.field : Word), (0#1 ++ dn ++ bf.field : Word)] ++ ea.ext 1
  | .bfchg bf ea => [(0b1110101011#10 ++ ea.field : Word), (0#4 ++ bf.field : Word)] ++ ea.ext 1
  | .bfexts dn bf ea => [(0b1110101111#10 ++ ea.field : Word), (0#1 ++ dn ++ bf.field : Word)] ++ ea.ext 1
  | .bfclr bf ea => [(0b1110110011#10 ++ ea.field : Word), (0#4 ++ bf.field : Word)] ++ ea.ext 1
  | .bfffo dn bf ea => [(0b1110110111#10 ++ ea.field : Word), (0#1 ++ dn ++ bf.field : Word)] ++ ea.ext 1
  | .bfset bf ea => [(0b1110111011#10 ++ ea.field : Word), (0#4 ++ bf.field : Word)] ++ ea.ext 1
  | .bfins dn bf ea => [(0b1110111111#10 ++ ea.field : Word), (0#1 ++ dn ++ bf.field : Word)] ++ ea.ext 1
  | .fmoveEaFpmFpn src dst => [(0xF2#8 ++ 0b00#2 ++ src.field : Word), (src.cmd ++ dst ++ 0b0000000#7 : Word)] ++ src.ext
  | .fsmove src dst => [(0xF2#8 ++ 0b00#2 ++ src.field : Word), (src.cmd ++ dst ++ 0b1000000#7 : Word)] ++ src.ext
  | .fdmove src dst => [(0xF2#8 ++ 0b00#2 ++ src.field : Word), (src.cmd ++ dst ++ 0b1000100#7 : Word)] ++ src.ext
  | .fsqrt src dst => [(0xF2#8 ++ 0b00#2 ++ src.field : Word), (src.cmd ++ dst ++ 0b0000100#7 : Word)] ++ src.ext
  | .fssqrt src dst => [(0xF2#8 ++ 0b00#2 ++ src.field : Word), (src.cmd ++ dst ++ 0b1000001#7 : Word)] ++ src.ext
  | .fdsqrt src dst => [(0xF2#8 ++ 0b00#2 ++ src.field : Word), (src.cmd ++ dst ++ 0b1000101#7 : Word)] ++ src.ext
  | .fabs src dst => [(0xF2#8 ++ 0b00#2 ++ src.field : Word), (src.cmd ++ dst ++ 0b0011000#7 : Word)] ++ src.ext
  | .fsabs src dst => [(0xF2#8 ++ 0b00#2 ++ src.field : Word), (src.cmd ++ dst ++ 0b1011000#7 : Word)] ++ src.ext
  | .fdabs src dst => [(0xF2#8 ++ 0b00#2 ++ src.field : Word), (src.cmd ++ dst ++ 0b1011100#7 : Word)] ++ src.ext
  | .fneg src dst => [(0xF2#8 ++ 0b00#2 ++ src.field : Word), (src.cmd ++ dst ++ 0b0011010#7 : Word)] ++ src.ext
  | .fsneg src dst => [(0xF2#8 ++ 0b00#2 ++ src.field : Word), (src.cmd ++ dst ++ 0b1011010#7 : Word)] ++ src.ext
  | .fdneg src dst => [(0xF2#8 ++ 0b00#2 ++ src.field : Word), (src.cmd ++ dst ++ 0b1011110#7 : Word)] ++ src.ext
  | .fdiv src dst => [(0xF2#8 ++ 0b00#2 ++ src.field : Word), (src.cmd ++ dst ++ 0b0100000#7 : Word)] ++ src.ext
  | .fsdiv src dst => [(0xF2#8 ++ 0b00#2 ++ src.field : Word), (src.cmd ++ dst ++ 0b1100000#7 : Word)] ++ src.ext
  | .fddiv src dst => [(0xF2#8 ++ 0b00#2 ++ src.field : Word), (src.cmd ++ dst ++ 0b1100100#7 : Word)] ++ src.ext
  | .fadd src dst => [(0xF2#8 ++ 0b00#2 ++ src.field : Word), (src.cmd ++ dst ++ 0b0100010#7 : Word)] ++ src.ext
  | .fsadd src dst => [(0xF2#8 ++ 0b00#2 ++ src.field : Word), (src.cmd ++ dst ++ 0b1100010#7 : Word)] ++ src.ext
  | .fdadd src dst => [(0xF2#8 ++ 0b00#2 ++ src.field : Word), (src.cmd ++ dst ++ 0b1100110#7 : Word)] ++ src.ext
  | .fmul src dst => [(0xF2#8 ++ 0b00#2 ++ src.field : Word), (src.cmd ++ dst ++ 0b0100011#7 : Word)] ++ src.ext
  | .fsmul src dst => [(0xF2#8 ++ 0b00#2 ++ src.field : Word), (src.cmd ++ dst ++ 0b1100011#7 : Word)] ++ src.ext
  | .fdmul src dst => [(0xF2#8 ++ 0b00#2 ++ src.field : Word), (src.cmd ++ dst ++ 0b1100111#7 : Word)] ++ src.ext
  | .fsub src dst => [(0xF2#8 ++ 0b00#2 ++ src.field : Word), (src.cmd ++ dst ++ 0b0101000#7 : Word)] ++ src.ext
  | .fssub src dst => [(0xF2#8 ++ 0b00#2 ++ src.field : Word), (src.cmd ++ dst ++ 0b1101000#7 : Word)] ++ src.ext
  | .fdsub src dst => [(0xF2#8 ++ 0b00#2 ++ src.field : Word), (src.cmd ++ dst ++ 0b1101100#7 : Word)] ++ src.ext
  | .fcmp src dst => [(0xF2#8 ++ 0b00#2 ++ src.field : Word), (src.cmd ++ dst ++ 0b0111000#7 : Word)] ++ src.ext
  | .ftst src dst => [(0xF2#8 ++ 0b00#2 ++ src.field : Word), (src.cmd ++ dst ++ 0b0111010#7 : Word)] ++ src.ext
  | .fintUnimplemented src dst => [(0xF2#8 ++ 0b00#2 ++ src.field : Word), (src.cmd ++ dst ++ 0b0000001#7 : Word)] ++ src.ext
  | .fsinhUnimplemented src dst => [(0xF2#8 ++ 0b00#2 ++ src.field : Word), (src.cmd ++ dst ++ 0b0000010#7 : Word)] ++ src.ext
  | .fintrzUnimplemented src dst => [(0xF2#8 ++ 0b00#2 ++ src.field : Word), (src.cmd ++ dst ++ 0b0000011#7 : Word)] ++ src.ext
  | .flognp1Unimplemented src dst => [(0xF2#8 ++ 0b00#2 ++ src.field : Word), (src.cmd ++ dst ++ 0b0000110#7 : Word)] ++ src.ext
  | .fetoxm1Unimplemented src dst => [(0xF2#8 ++ 0b00#2 ++ src.field : Word), (src.cmd ++ dst ++ 0b0001000#7 : Word)] ++ src.ext
  | .ftanhUnimplemented src dst => [(0xF2#8 ++ 0b00#2 ++ src.field : Word), (src.cmd ++ dst ++ 0b0001001#7 : Word)] ++ src.ext
  | .fatanUnimplemented src dst => [(0xF2#8 ++ 0b00#2 ++ src.field : Word), (src.cmd ++ dst ++ 0b0001010#7 : Word)] ++ src.ext
  | .fasinUnimplemented src dst => [(0xF2#8 ++ 0b00#2 ++ src.field : Word), (src.cmd ++ dst ++ 0b0001100#7 : Word)] ++ src.ext
  | .fatanhUnimplemented src dst => [(0xF2#8 ++ 0b00#2 ++ src.field : Word), (src.cmd ++ dst ++ 0b0001101#7 : Word)] ++ src.ext
  | .fsinUnimplemented src dst => [(0xF2#8 ++ 0b00#2 ++ src.field : Word), (src.cmd ++ dst ++ 0b0001110#7 : Word)] ++ src.ext
  | .ftanUnimplemented src dst => [(0xF2#8 ++ 0b00#2 ++ src.field : Word), (src.cmd ++ dst ++ 0b0001111#7 : Word)] ++ src.ext
  | .fetoxUnimplemented src dst => [(0xF2#8 ++ 0b00#2 ++ src.field : Word), (src.cmd ++ dst ++ 0b0010000#7 : Word)] ++ src.ext
  | .ftwotoxUnimplemented src dst => [(0xF2#8 ++ 0b00#2 ++ src.field : Word), (src.cmd ++ dst ++ 0b0010001#7 : Word)] ++ src.ext
  | .ftentoxUnimplemented src dst => [(0xF2#8 ++ 0b00#2 ++ src.field : Word), (src.cmd ++ dst ++ 0b0010010#7 : Word)] ++ src.ext
  | .flognUnimplemented src dst => [(0xF2#8 ++ 0b00#2 ++ src.field : Word), (src.cmd ++ dst ++ 0b0010100#7 : Word)] ++ src.ext
  | .flog10Unimplemented src dst => [(0xF2#8 ++ 0b00#2 ++ src.field : Word), (src.cmd ++ dst ++ 0b0010101#7 : Word)] ++ src.ext
  | .flog2Unimplemented src dst => [(0xF2#8 ++ 0b00#2 ++ src.field : Word), (src.cmd ++ dst ++ 0b0010110#7 : Word)] ++ src.ext
  | .fcoshUnimplemented src dst => [(0xF2#8 ++ 0b00#2 ++ src.field : Word), (src.cmd ++ dst ++ 0b0011001#7 : Word)] ++ src.ext
  | .facosUnimplemented src dst => [(0xF2#8 ++ 0b00#2 ++ src.field : Word), (src.cmd ++ dst ++ 0b0011100#7 : Word)] ++ src.ext
  | .fcosUnimplemented src dst => [(0xF2#8 ++ 0b00#2 ++ src.field : Word), (src.cmd ++ dst ++ 0b0011101#7 : Word)] ++ src.ext
  | .fgetexpUnimplemented src dst => [(0xF2#8 ++ 0b00#2 ++ src.field : Word), (src.cmd ++ dst ++ 0b0011110#7 : Word)] ++ src.ext
  | .fgetmanUnimplemented src dst => [(0xF2#8 ++ 0b00#2 ++ src.field : Word), (src.cmd ++ dst ++ 0b0011111#7 : Word)] ++ src.ext
  | .fmodUnimplemented src dst => [(0xF2#8 ++ 0b00#2 ++ src.field : Word), (src.cmd ++ dst ++ 0b0100001#7 : Word)] ++ src.ext
  | .fsgldivUnimplemented src dst => [(0xF2#8 ++ 0b00#2 ++ src.field : Word), (src.cmd ++ dst ++ 0b0100100#7 : Word)] ++ src.ext
  | .fremUnimplemented src dst => [(0xF2#8 ++ 0b00#2 ++ src.field : Word), (src.cmd ++ dst ++ 0b0100101#7 : Word)] ++ src.ext
  | .fscaleUnimplemented src dst => [(0xF2#8 ++ 0b00#2 ++ src.field : Word), (src.cmd ++ dst ++ 0b0100110#7 : Word)] ++ src.ext
  | .fsglmulUnimplemented src dst => [(0xF2#8 ++ 0b00#2 ++ src.field : Word), (src.cmd ++ dst ++ 0b0100111#7 : Word)] ++ src.ext
  | .fsincosUnimplemented src dst dc => [(0xF2#8 ++ 0b00#2 ++ src.field : Word), (src.cmd ++ dst ++ 0b0110#4 ++ dc : Word)] ++ src.ext
  | .fmovecrUnimplemented dst off => [0xF200#16, (0b010111#6 ++ dst ++ off : Word)]
  | .fmoveLFpmEa src ea => [(0xF2#8 ++ 0b00#2 ++ ea.field : Word), (0b011#3 ++ 0#3 ++ src ++ 0#7 : Word)] ++ ea.ext 1
  | .fmoveSFpmEa src ea => [(0xF2#8 ++ 0b00#2 ++ ea.field : Word), (0b011#3 ++ 1#3 ++ src ++ 0#7 : Word)] ++ ea.ext 1
  | .fmoveXFpmEa src ea => [(0xF2#8 ++ 0b00#2 ++ ea.field : Word), (0b011#3 ++ 2#3 ++ src ++ 0#7 : Word)] ++ ea.ext 1
  | .fmovePKFpmEa src k ea => [(0xF2#8 ++ 0b00#2 ++ ea.field : Word), (0b011#3 ++ 3#3 ++ src ++ k : Word)] ++ ea.ext 1
  | .fmoveWFpmEa src ea => [(0xF2#8 ++ 0b00#2 ++ ea.field : Word), (0b011#3 ++ 4#3 ++ src ++ 0#7 : Word)] ++ ea.ext 1
  | .fmoveDFpmEa src ea => [(0xF2#8 ++ 0b00#2 ++ ea.field : Word), (0b011#3 ++ 5#3 ++ src ++ 0#7 : Word)] ++ ea.ext 1
  | .fmoveBFpmEa src ea => [(0xF2#8 ++ 0b00#2 ++ ea.field : Word), (0b011#3 ++ 6#3 ++ src ++ 0#7 : Word)] ++ ea.ext 1
  | .fmovePDnFpmEa src dn ea => [(0xF2#8 ++ 0b00#2 ++ ea.field : Word), (0b011#3 ++ 7#3 ++ src ++ dn ++ 0#4 : Word)] ++ ea.ext 1
  | .fmoveLEaFpcr ea => [(0xF2#8 ++ 0b00#2 ++ ea.field : Word), (0b100100#6 ++ 0#10 : Word)] ++ ea.ext 2
  | .fmoveLEaFpsr ea => [(0xF2#8 ++ 0b00#2 ++ ea.field : Word), (0b100010#6 ++ 0#10 : Word)] ++ ea.ext 2
  | .fmoveLEaFpiar ea => [(0xF2#8 ++ 0b00#2 ++ ea.field : Word), (0b100001#6 ++ 0#10 : Word)] ++ ea.ext 2
  | .fmovemLEaCtrlList regs ea => [(0xF2#8 ++ 0b00#2 ++ ea.field : Word), (0b100#3 ++ regs ++ 0#10 : Word)] ++ ea.ext (2 * ctrlCount regs)
  | .fmoveLFpcrEa ea => [(0xF2#8 ++ 0b00#2 ++ ea.field : Word), (0b101100#6 ++ 0#10 : Word)] ++ ea.ext 2
  | .fmoveLFpsrEa ea => [(0xF2#8 ++ 0b00#2 ++ ea.field : Word), (0b101010#6 ++ 0#10 : Word)] ++ ea.ext 2
  | .fmoveLFpiarEa ea => [(0xF2#8 ++ 0b00#2 ++ ea.field : Word), (0b101001#6 ++ 0#10 : Word)] ++ ea.ext 2
  | .fmovemLCtrlListEa regs ea => [(0xF2#8 ++ 0b00#2 ++ ea.field : Word), (0b101#3 ++ regs ++ 0#10 : Word)] ++ ea.ext (2 * ctrlCount regs)
  | .fmovemXEaList mode list ea => [(0xF2#8 ++ 0b00#2 ++ ea.field : Word), (0b110#3 ++ mode ++ 0#3 ++ list : Word)] ++ ea.ext 1
  | .fmovemXListEa mode list ea => [(0xF2#8 ++ 0b00#2 ++ ea.field : Word), (0b111#3 ++ mode ++ 0#3 ++ list : Word)] ++ ea.ext 1
  | .fscc pred ea => [(0xF2#8 ++ 0b01#2 ++ ea.field : Word), (0#11 ++ pred : Word)] ++ ea.ext 1
  | .fdbcc pred dn d => [(0xF2#8 ++ 0b01001#5 ++ dn : Word), (0#11 ++ pred : Word), d]
  | .ftrapccW pred imm => [0xF27A#16, (0#11 ++ pred : Word), imm]
  | .ftrapccL pred imm => [0xF27B#16, (0#11 ++ pred : Word)] ++ longWords imm
  | .ftrapcc pred => [0xF27C#16, (0#11 ++ pred : Word)]
  | .fnop => [0xF280#16, 0#16]
  | .fbccW pred d => [(0xF2#8 ++ 0b100#3 ++ pred : Word), d]
  | .fbccL pred d => [(0xF2#8 ++ 0b110#3 ++ pred : Word)] ++ longWords d
  | .fsave ea => [(0b1111001100#10 ++ ea.field : Word)] ++ ea.ext 1
  | .frestore ea => [(0b1111001101#10 ++ ea.field : Word)] ++ ea.ext 1
  | .cinvl caches an => [(0b11110100#8 ++ caches ++ 0b001#3 ++ an : Word)]
  | .cinvp caches an => [(0b11110100#8 ++ caches ++ 0b010#3 ++ an : Word)]
  | .cinva caches => [(0b11110100#8 ++ caches ++ 0b011#3 ++ 0#3 : Word)]
  | .cpushl caches an => [(0b11110100#8 ++ caches ++ 0b101#3 ++ an : Word)]
  | .cpushp caches an => [(0b11110100#8 ++ caches ++ 0b110#3 ++ an : Word)]
  | .cpusha caches => [(0b11110100#8 ++ caches ++ 0b111#3 ++ 0#3 : Word)]
  | .pflushnAn an => [(0b1111010100000#13 ++ an : Word)]
  | .pflushAn an => [(0b1111010100001#13 ++ an : Word)]
  | .pflushan => [(0b1111010100010#13 ++ 0#3 : Word)]
  | .pflusha => [(0b1111010100011#13 ++ 0#3 : Word)]
  | .ptestwAn an => [(0b1111010101001#13 ++ an : Word)]
  | .ptestrAn an => [(0b1111010101101#13 ++ an : Word)]
  | .move16AxPlusAyPlus ax ay => [(0b1111011000100#13 ++ ax : Word), (0b1#1 ++ ay ++ 0#12 : Word)]
  | .move16AnPlusXxxL an addr => [(0b1111011000000#13 ++ an : Word)] ++ longWords addr
  | .move16XxxLAnPlus an addr => [(0b1111011000001#13 ++ an : Word)] ++ longWords addr
  | .move16AnXxxL an addr => [(0b1111011000010#13 ++ an : Word)] ++ longWords addr
  | .move16XxxLAn an addr => [(0b1111011000011#13 ++ an : Word)] ++ longWords addr

end Sys2Proof
end

