-- ==== Sys2Proof/Config.lean ====
section
/-! DEFINITION. What the spec leaves free: the source of free values, the contents of the caches after power-on, and
the OPEN parameters of 92_eei_decisions.md that are fixed for one machine, the system `MEM` among them. No parameter
has a body, so nothing can be proved about its value. -/

namespace Sys2Proof.Machine

/-- A valid entry of an address translation cache (10_state R84). -/
structure AtcEntry where
  g : Bool
  fc2 : Bool
  la : BitVec 16
  pa : BitVec 20
  u1 : Bool
  u0 : Bool
  s : Bool
  cm : BitVec 2
  m : Bool
  w : Bool
  r : Bool
deriving DecidableEq, Repr

/-- A valid cache line (10_state R85): tag PA31-PA10, the 16 bytes with the lowest address most significant, and the
dirty bits, bit k for long word k (data cache only). -/
structure CacheLine where
  tag : BitVec 22
  data : BitVec 128
  dirty : BitVec 4
deriving DecidableEq, Repr

/-- One bus cycle as the system sees it (20_memory R164, R167): its transfer type and modifier, the address, SIZ, the
direction, the data written, and whether an alternate master runs it. -/
structure Transfer where
  tt : BitVec 2
  tm : BitVec 3
  addr : Nat
  siz : BitVec 2
  read : Bool
  data : BitVec 128
  alternate : Bool
deriving DecidableEq, Repr

/-- What the system answers to a bus cycle (20_memory R167): how often it asks for a retry first, whether it ends the
cycle with TEA, else with TA; the data of a read; TBI and TCI; AVEC, which counts in an interrupt acknowledge cycle only
(22_caches_bus R370). -/
structure Answer where
  retries : Nat
  tea : Bool
  data : BitVec 32
  tbi : Bool
  tci : Bool
  avec : Bool
deriving DecidableEq, Repr, Inhabited

end Sys2Proof.Machine

namespace Sys2Proof.Config

open Sys2Proof.Machine

/-- The free value number `n`, of width `w`: `undefined(w)` of 00_scope R15. Each use reads the counter
`draws` of the state and advances it (log 6). -/
opaque freeValue (w n : Nat) : BitVec w

/-- MEM (00_scope R11, 20_memory R167): what the system answers to a bus cycle in one of its windows, given the cycles
made there before it, the first one first. It depends on every attribute of the cycle and may have state. -/
opaque mem (before : List Transfer) (t : Transfer) : Answer

/-- ARBITER_HONOURS_LOCK (92_eei_decisions D7): no other master takes the bus inside a locked sequence. -/
opaque arbiterHonoursLock : Bool

/-- The entry that slot `k` of the instruction ATC holds after power-on, if it is valid (70_reset_and_hazards R1306). -/
opaque resetIatc (k : Nat) : Option AtcEntry

/-- As `resetIatc`, of the data ATC. -/
opaque resetDatc (k : Nat) : Option AtcEntry

/-- The line that slot `k` of the instruction cache holds after power-on, if it is valid (R1306). -/
opaque resetIcache (k : Nat) : Option CacheLine

/-- As `resetIcache`, of the data cache, dirty bits included. -/
opaque resetDcache (k : Nat) : Option CacheLine

/-- The four replacement counters after power-on (21_mmu R235, 22_caches_bus R339). -/
opaque resetCounter (k : Nat) : BitVec 2

/-- FPU_VERSION less one. -/
opaque fpuVersionLessOne : Fin 255

/-- FPU_VERSION: the version byte of the idle, unimplemented and busy state frames (61_fp_exceptions R1260); version 0 is
that of the null frame (log 43). -/
def fpuVersion : BitVec 8 := BitVec.ofNat 8 (fpuVersionLessOne.val + 1)

/-- FSAVE_LAYOUT, busy frame: the bit offset of field number `i` in the 96 bytes after the first long word, counted
from the last bit. `busyOffset` of Machine/FloatCtl.lean is this choice where it is a layout (log 16). -/
opaque busyChoice (i : Nat) : Nat

/-- FSAVE_LAYOUT, unimplemented-instruction frame: as `busyChoice`, in the 40 bytes after the first long word; an offset
with no room for the field means that the frame does not hold it. -/
opaque unimpChoice (i : Nat) : Nat

/-- The mapping of a command word to the bits CMDREG3B shows in a frame (Figure 9-8 of the source is lost, R1262). -/
opaque cmdreg3b (cmd : BitVec 16) : BitVec 16

/-- CU_SAVEPC_CONTINUE: the CU_SAVEPC value with which FRESTORE completes the interrupted instruction ("To Be
Defined" in the source, N56; 61_fp_exceptions R1204). -/
opaque cuSavePcContinue : BitVec 32

end Sys2Proof.Config
end

