-- ==== Sys2Proof/Machine/State.lean ====
section
/-! DEFINITION. The state of the machine (10_state R50), as plain data, and its value after reset (R91). -/

namespace Sys2Proof.Machine

/-- Eight registers of one kind, numbered 0 to 7. -/
structure Bank (α : Type) where
  r0 : α
  r1 : α
  r2 : α
  r3 : α
  r4 : α
  r5 : α
  r6 : α
  r7 : α
deriving DecidableEq, Repr

/-- A0 to A6 (R52) and the three registers named A7 (R55). -/
structure AddrRegs where
  a0 : Long
  a1 : Long
  a2 : Long
  a3 : Long
  a4 : Long
  a5 : Long
  a6 : Long
  usp : Long
  isp : Long
  msp : Long
deriving DecidableEq, Repr

/-- The supervisor's control registers (R65 to R71). Unimplemented bits are held as zero. -/
structure Control where
  vbr : Long
  sfc : BitVec 3
  dfc : BitVec 3
  cacr : Long
  urp : Long
  srp : Long
  tc : Word
  itt0 : Long
  itt1 : Long
  dtt0 : Long
  dtt1 : Long
  mmusr : Long
deriving DecidableEq, Repr

/-- An extended-precision number as an FP register holds it (R73): sign, exponent, mantissa. -/
structure Fpr where
  s : Bool
  e : BitVec 15
  m : BitVec 64
deriving DecidableEq, Repr

/-- The condition of the FPU that selects the frame FSAVE writes (R83, 61_fp_exceptions R1260). -/
inductive FpuKind where
  | null
  | idle
  | unimp
  | busy
deriving DecidableEq, Repr

/-- The fields of the unimplemented-instruction and busy state frames (61_fp_exceptions R1261). `cmd3` is
CMDREG3B as a frame shows it (R1262; log 16); `vector` stands in the internal bytes the source does not describe
(R83): the vector the frame stands for, less 48 (log 34), and the destination of an FMOVE FPm,<ea>: an address, or the
number of a data register (log 35). -/
structure FpuFrame where
  cmd1 : BitVec 16
  cmd3 : BitVec 16
  cuSavePc : BitVec 32
  e1 : Bool
  e3 : Bool
  t : Bool
  stag : BitVec 3
  dtag : BitVec 3
  etemp : Fpr
  fptemp : Fpr
  wbts : Bool
  wbte : BitVec 16
  wbtm : BitVec 67
  sbit : Bool
  fpiarcu : BitVec 32
  vector : BitVec 3
  toReg : Bool
  dest : BitVec 32
deriving DecidableEq, Repr

/-- The floating-point unit: registers R73 to R82, hidden state R83. -/
structure Fpu where
  fp : Bank Fpr
  fpcr : Long
  fpsr : Long
  fpiar : Long
  kind : FpuKind
  /-- FPU.pending: the vector the next floating-point instruction takes (R1201, R1202). -/
  pending : Option (BitVec 8)
  /-- The vector a format $7 frame with SSW.CP stands for (R90, 60_exceptions R1104). -/
  postPending : Option (BitVec 8)
  frame : FpuFrame
deriving DecidableEq, Repr

/-- A push that was bus errored, waiting to be reported (22_caches_bus R342, 60_exceptions R1099): physical
address, whether it is a line push, whether a locked access forced it, the data (a long-word push in the top 32
bits). -/
structure PushFault where
  addr : Long
  line : Bool
  locked : Bool
  data : BitVec 128
deriving DecidableEq, Repr

/-- A range of addresses of plain memory whose transfers the system ends with TEA (20_memory R167), for reads, writes
or both. The model's own platform data (log 10). -/
structure BusError where
  lo : Nat
  hi : Nat
  read : Bool
  write : Bool
deriving DecidableEq, Repr

/-- The size of an alternate master's transfer (22_caches_bus R361). -/
inductive BusSize where
  | byte
  | word
  | long
  | line
deriving DecidableEq, Repr

/-- What the outside does between two bus cycles of the processor: RSTI asserted, with the levels of CDIS, MDIS and
IPL2-IPL0 when it negates (70_reset_and_hazards R1301, R1303), the CDIS and MDIS pins (22_caches_bus R324, 21_mmu R223), or
an alternate master's transfer with its snoop control (22_caches_bus R345, R352). -/
inductive BusEvent where
  | reset (modes : BitVec 5)
  | pins (cdis mdis : Bool)
  | snoopRead (pa : Long) (size : BusSize) (sc : BitVec 2)
  | snoopWrite (pa : Long) (size : BusSize) (sc : BitVec 2) (data : BitVec 128)
deriving DecidableEq, Repr

/-- How far the maintenance sequence for a word that was stored into has come (20_memory R195, 93 U10): nothing; its
instruction-cache line invalidated with the new word in memory; NOP executed after that. A change of flow ends it. -/
inductive Maintained where
  | no
  | invalidated
  | synchronized
deriving DecidableEq, Repr

/-- Old contents of an instruction word that was stored into, which a fetch may still give (20_memory R195, U10). -/
structure StaleWord where
  addr : Nat
  word : List Byte
  stage : Maintained
deriving DecidableEq, Repr

/-- What a prefetch gave: a word with its physical address, or the pending mark of a fault, of the translation (`atc`) or of
the bus (R89, 60_exceptions R1092, R1103). -/
inductive Prefetched where
  | word (pa : Long) (bytes : List Byte)
  | fault (atc : Bool)
deriving DecidableEq, Repr

/-- A word in the instruction pipeline, with its logical address (R89). -/
structure PipeWord where
  la : Long
  content : Prefetched
deriving DecidableEq, Repr

/-- The line-fill buffer (R86, 22_caches_bus R340): the long words read so far in their places, how many they are, and
whether the first one was answered with TCI. -/
structure FillBuffer where
  data : BitVec 128
  got : Nat
  tci : Bool
deriving DecidableEq, Repr

/-- Memory, the hidden state of the two memory units, and the model's own counter of free values. Every access
changes this part of the state only. -/
structure MemSys where
  /-- Physical memory of transfer types 0 and 1 outside the windows (20_memory R150): addresses strictly rising, no
  byte listed that reads as an unlisted one. -/
  ram : List Host.Cell
  /-- The alternate spaces of function codes 0, 3, 4, 7 (20_memory R163), keyed by (fc + 1) * 2^32 + address. -/
  alt : List Host.Cell
  /-- Valid entries of the instruction ATC by 4 * set + way (R84). -/
  iatc : List (Nat × AtcEntry)
  /-- Valid entries of the data ATC. -/
  datc : List (Nat × AtcEntry)
  iatcCtr : BitVec 2
  datcCtr : BitVec 2
  /-- Valid lines of the instruction cache by 4 * set + way (R85). -/
  icache : List (Nat × CacheLine)
  /-- Valid lines of the data cache. -/
  dcache : List (Nat × CacheLine)
  icacheCtr : BitVec 2
  dcacheCtr : BitVec 2
  /-- The push buffer (R86): a dirty line on its way to memory, with the slot it had. -/
  pushBuffer : Option (Nat × CacheLine)
  fillBuffer : FillBuffer
  /-- The instruction pipeline: the words prefetched and not used yet, the first one prefetched first (R89; log 7). -/
  pipe : List PipeWord
  /-- The bus-errored pushes that wait to be reported, the first one first (22_caches_bus R342, 60_exceptions R1099; log 20). -/
  pushFaults : List PushFault
  /-- Old contents of instruction words that were stored into (20_memory R195, R89; log 8). -/
  stale : List StaleWord
  busErrors : List BusError
  /-- Ranges of addresses of plain memory whose line reads answer TCI (22_caches_bus R385; log 10). -/
  inhibit : List (Nat × Nat)
  /-- Ranges of addresses whose transfers `Config.mem` answers (20_memory R167; log 10). -/
  windows : List (Nat × Nat)
  /-- The transfers made in the windows so far, the first one first: the state of MEM. -/
  history : List Transfer
  /-- Events due inside instructions, each with the number of bus cycles of the processor and of its accesses in a cache that
  come before it (after the event before it; 20_memory R175, 22_caches_bus R352, 70_reset_and_hazards R1302; log 9). -/
  due : List (Nat × BusEvent)
  /-- The CDIS pin disables the caches while it is asserted (22_caches_bus R324). -/
  cdis : Bool
  /-- The MDIS pin disables translation (21_mmu R223). -/
  mdis : Bool
  /-- The instruction in progress has read an operand of a serialized page (20_memory R191; log 65). -/
  serialized : Bool
  /-- The processor has made a cycle of the locked sequence in progress, so that LOCK is asserted; kept while events are due
  (22_caches_bus R390; log 45). -/
  lock : Bool
  /-- RSTI was asserted inside the instruction in progress: the levels of the mode pins (R1302, R1303). -/
  struck : Option (BitVec 5)
  /-- How many free values have been drawn (log 6). -/
  draws : Nat
deriving DecidableEq, Repr

/-- The processing states of R88; the exception state lasts less than a step. -/
inductive RunState where
  | normal
  | stopped
  | halted
deriving DecidableEq, Repr

/-- What the system answers to an interrupt acknowledge cycle (22_caches_bus R370). -/
inductive Iack where
  | vector (v : BitVec 8)
  | auto
  | spurious
deriving DecidableEq, Repr

/-- What the outside does (log 9). Between two steps: RSTI asserted (70_reset_and_hazards R1301), a sample of the
interrupt level with the response an acknowledge would get (60_exceptions R1130), the CDIS and MDIS pins, and an
alternate master's transfer (22_caches_bus R345). Inside an instruction: an event that comes after `cycles` more bus
cycles of the processor. `prefetch` is the processor's own, at a time that the source does not state: it prefetches the
long word that holds `la`; `other` says that it is on the path of a branch that is not gone (R89; log 7). -/
inductive Event where
  | reset (modes : BitVec 5)
  | interrupt (level : BitVec 3) (response : Iack)
  | pins (cdis mdis : Bool)
  | snoopRead (pa : Long) (size : BusSize) (sc : BitVec 2)
  | snoopWrite (pa : Long) (size : BusSize) (sc : BitVec 2) (data : BitVec 128)
  | within (cycles : Nat) (e : BusEvent)
  | prefetch (la : Long) (other : Bool)
deriving DecidableEq, Repr

/-- A floating-point exception of a completed instruction that waits while a push error is reported (R90): a
post-instruction exception or that of an unimplemented instruction, with its effective address. -/
inductive FpDue where
  | post (ea : Long)
  | unimp (ea : Long)
deriving DecidableEq, Repr

/-- The whole machine. -/
structure State where
  d : Bank Long
  a : AddrRegs
  pc : Long
  sr : Word
  ctl : Control
  fpu : Fpu
  mem : MemSys
  run : RunState
  /-- A pending trace and the address of the traced instruction (R90, 60_exceptions R1072). -/
  trace : Option Long
  /-- `movem_ea` (R90, 60_exceptions R1104). -/
  movemEa : Option Long
  /-- The FP post-instruction and unimplemented-FP pending flags (R90, 60_exceptions R1097). -/
  fpDue : Option FpDue
  /-- The valid interrupt level L (R87). -/
  ipl : BitVec 3
  /-- The last sample of the interrupt level; two equal ones in a row make it valid (R87). -/
  iplSample : BitVec 3
  /-- The level-7 latch (R87, 60_exceptions R1131). -/
  nmiLatch : Bool
  iack : Iack
  /-- How many times RESET has driven RSTO (22_caches_bus R393). -/
  rsto : Nat
  /-- The levels of CDIS, MDIS, IPL2, IPL1, IPL0 when RSTI last negated, bits 4 to 0 (70_reset_and_hazards R1303;
  log 56). -/
  modePins : BitVec 5
  /-- External events still to come, the next one first. -/
  inputs : List Event
deriving DecidableEq, Repr

/-- Why the machine stops. No rule of the spec stops the processor: every exception is taken and leads to a next
state, so the one fault guards the fetch loop of the model. -/
inductive Fault where
  /-- Raised by `fetchInstr` if the decoder asks for more than the 11 words an instruction can have (30_encoding
  R450). Never raised; safe. -/
  | instructionTooLong
deriving DecidableEq, Repr

/-- Where the model gives an instruction no meaning. -/
inductive Refusal where
  /-- Raised by an arm of `exec` whose instruction has no meaning yet. Safe. -/
  | notModelled (mnemonic : String)
  /-- Raised by RTE from a format $7 frame with two or more of CP, CU, CT, CM set, for which the source says the
  operation is undefined (60_exceptions R1104, 93 U30). Safe. -/
  | rteContinuation
deriving DecidableEq, Repr

/-- Eight equal registers. -/
def Bank.fill {α : Type} (v : α) : Bank α := ⟨v, v, v, v, v, v, v, v⟩

/-- The NAN an FP register holds after reset (R73): positive, nonsignaling, all ones. -/
def Fpr.resetNan : Fpr := ⟨false, 0x7FFF, 0xFFFFFFFFFFFFFFFF⟩

/-- Positive zero. -/
def Fpr.zero : Fpr := ⟨false, 0, 0⟩

/-- The frame fields of an FPU that has met no exception. -/
def FpuFrame.zero : FpuFrame :=
  ⟨0, 0, 0, false, false, false, 0, 0, Fpr.zero, Fpr.zero, false, 0, 0, false, 0, 0, false, 0⟩

/-- The FPU after reset or a null FRESTORE (R91). -/
def Fpu.reset : Fpu := ⟨Bank.fill Fpr.resetNan, 0, 0, 0, .null, none, none, FpuFrame.zero⟩

/-- The control registers after reset: VBR, CACR zero, TC.E = 0 and TC.P = 1, the TTRs disabled (R91); the
registers the spec leaves unspecified are zero (log 2). -/
def Control.reset : Control := ⟨0, 0, 0, 0, 0, 0, 0x4000, 0, 0, 0, 0, 0⟩

/-- The valid entries of a table of `n` slots. -/
def validSlots {α : Type} (n : Nat) (f : Nat → Option α) : List (Nat × α) :=
  (List.range n).filterMap fun k => (f k).map (k, ·)

/-- An empty line-fill buffer. -/
def FillBuffer.empty : FillBuffer := ⟨0, 0, false⟩

/-- Memory with nothing listed, nothing waiting, the first four long words at pc 0 prefetched (R91, R1304); the ATCs, the
caches and their counters hold anything (70_reset_and_hazards R1306; log 1, 4). -/
def MemSys.reset : MemSys :=
  { ram := []
    alt := []
    iatc := validSlots 64 Config.resetIatc
    datc := validSlots 64 Config.resetDatc
    iatcCtr := Config.resetCounter 0
    datcCtr := Config.resetCounter 1
    icache := validSlots 256 fun k => (Config.resetIcache k).map fun x => { x with dirty := 0 }
    dcache := validSlots 256 Config.resetDcache
    icacheCtr := Config.resetCounter 2
    dcacheCtr := Config.resetCounter 3
    pushBuffer := none
    fillBuffer := FillBuffer.empty
    pipe := (List.range 8).map fun k => ⟨BitVec.ofNat 32 (2 * k), .word (BitVec.ofNat 32 (2 * k)) [0, 0]⟩
    pushFaults := []
    stale := []
    busErrors := []
    inhibit := []
    windows := []
    history := []
    due := []
    cdis := false
    mdis := false
    serialized := false
    lock := false
    struck := none
    draws := 0 }

/-- The machine right after reset (R91, 70_reset_and_hazards R1301); values the spec leaves unspecified: log 2
to 4. -/
def State.reset : State :=
  { d := Bank.fill 0
    a := ⟨0, 0, 0, 0, 0, 0, 0, 0, 0, 0⟩
    pc := 0
    sr := 0x2700
    ctl := Control.reset
    fpu := Fpu.reset
    mem := MemSys.reset
    run := .normal
    trace := none
    movemEa := none
    fpDue := none
    ipl := 0
    iplSample := 0
    nmiLatch := false
    iack := .auto
    rsto := 0
    modePins := 0x1F
    inputs := [] }

end Sys2Proof.Machine
end

