-- ==== Sys2Proof/Machine/Memory.lean ====
section
/-! DEFINITION. Cells of memory and sparse tables: the canonical lists that hold memory, the ATCs and the caches,
big-endian byte sequences (20_memory R151), and free values. -/

namespace Sys2Proof.Machine

/-! ### Memory cells -/

/-- What a byte of memory that nothing has written reads as (log 1). -/
def unlisted : Byte := 0

/-- The byte at a key. -/
def cellGet : List Host.Cell → Nat → Byte
  | [], _ => unlisted
  | (k, v) :: r, a => if a = k then v else cellGet r a

/-- The list with one more entry before `r`, unless the byte is what an unlisted one reads as. -/
def cellCons (a : Nat) (v : Byte) (r : List Host.Cell) : List Host.Cell :=
  if v = unlisted then r else (a, v) :: r

/-- Write one byte, keeping the canonical form. -/
def cellPut : List Host.Cell → Nat → Byte → List Host.Cell
  | [], a, v => cellCons a v []
  | (k, x) :: r, a, v =>
    if a < k then cellCons a v ((k, x) :: r)
    else if a = k then cellCons a v r
    else (k, x) :: cellPut r a v

/-- Whether every key of a list is above `a` and rising, and no entry reads as an unlisted byte. -/
def cellsAbove : Nat → List Host.Cell → Bool
  | _, [] => true
  | a, (k, v) :: r => decide (a < k) && v != unlisted && cellsAbove k r

/-- The canonical form of memory: keys strictly rising, no entry equal to what an unlisted address reads as. -/
def cellsWf : List Host.Cell → Bool
  | [] => true
  | (k, v) :: r => v != unlisted && cellsAbove k r

/-- `n` bytes from address `a`, addresses modulo 2^32, keys offset by `base` (R151, D3). -/
def getBytes (cells : List Host.Cell) (base : Nat) : Long → Nat → List Byte
  | _, 0 => []
  | a, n + 1 => cellGet cells (base + a.toNat) :: getBytes cells base (a + 1) n

/-- Store bytes from address `a` upwards (R151, D3). -/
def putBytes (cells : List Host.Cell) (base : Nat) : Long → List Byte → List Host.Cell
  | _, [] => cells
  | a, b :: bs => putBytes (cellPut cells (base + a.toNat) b) base (a + 1) bs

/-! ### Byte sequences, most significant first (R151) -/

/-- The value of up to four bytes. -/
def ofBytes (bs : List Byte) : Long := bs.foldl (fun acc b => (acc <<< 8) ||| b.zeroExtend 32) 0

/-- The low `n` bytes of a long word. -/
def toBytes (v : Long) : Nat → List Byte
  | 0 => []
  | n + 1 => v.extractLsb' (8 * n) 8 :: toBytes v n

/-- The value of sixteen bytes. -/
def lineOfBytes (bs : List Byte) : BitVec 128 := bs.foldl (fun acc b => (acc <<< 8) ||| b.zeroExtend 128) 0

/-- The low `n` bytes of a 128-bit value. -/
def bytesOfLine (v : BitVec 128) : Nat → List Byte
  | 0 => []
  | n + 1 => v.extractLsb' (8 * n) 8 :: bytesOfLine v n

/-! ### Sparse tables of valid entries, keyed by 4 * set + way, keys rising -/

/-- The entry at a key. -/
def tabGet {α : Type} : List (Nat × α) → Nat → Option α
  | [], _ => none
  | (k, v) :: r, a => if a = k then some v else tabGet r a

/-- Replace or insert an entry. -/
def tabPut {α : Type} : List (Nat × α) → Nat → α → List (Nat × α)
  | [], a, v => [(a, v)]
  | (k, x) :: r, a, v =>
    if a < k then (a, v) :: (k, x) :: r
    else if a = k then (a, v) :: r
    else (k, x) :: tabPut r a v

/-- Invalidate an entry. -/
def tabDel {α : Type} (l : List (Nat × α)) (a : Nat) : List (Nat × α) := l.filter (·.1 ≠ a)

/-- The ways 0 to 3 of a set whose entry satisfies `p`. -/
def waysWhere {α : Type} (l : List (Nat × α)) (set : Nat) (p : α → Bool) : List Nat :=
  [0, 1, 2, 3].filter fun w => match tabGet l (4 * set + w) with | some v => p v | none => false

/-- The lowest-numbered invalid way of a set (D11), if there is one. -/
def freeWay {α : Type} (l : List (Nat × α)) (set : Nat) : Option Nat :=
  [0, 1, 2, 3].find? fun w => (tabGet l (4 * set + w)).isNone

/-! ### Free values -/

/-- The next free value of width `w`, and memory with the counter advanced (log 6). -/
def MemSys.draw (m : MemSys) (w : Nat) : BitVec w × MemSys :=
  (Config.freeValue w m.draws, { m with draws := m.draws + 1 })

end Sys2Proof.Machine
end

