-- ==== Sys2Proof/Machine/Bus.lean ====
section
/-! DEFINITION. The bus: lines of the caches, instruction words whose old contents a fetch may still give (20_memory
R195), what alternate masters do (22_caches_bus R345 to R352), and the bus cycles of the processor with their
termination (20_memory R155, R167, 22_caches_bus R364 to R367, R380 to R385). -/

namespace Sys2Proof.Machine

/-! ### Lines -/

/-- The data cache is enabled by CACR.DE unless CDIS is asserted (R324). -/
def Control.dcacheOn (c : Control) (m : MemSys) : Bool := c.cacr.getLsbD 31 && !m.cdis

/-- The instruction cache is enabled by CACR.IE unless CDIS is asserted (R324). -/
def Control.icacheOn (c : Control) (m : MemSys) : Bool := c.cacr.getLsbD 15 && !m.cdis

/-- The set a physical address selects (R322). -/
def cacheSet (pa : Long) : Nat := (pa.extractLsb' 4 6).toNat

/-- The tag of a physical address (R322). -/
def cacheTag (pa : Long) : BitVec 22 := pa.extractLsb' 10 22

/-- The address of the line that holds `pa`. -/
def lineBase (pa : Long) : Long := pa &&& 0xFFFFFFF0

/-- The offset of `pa` in its line. -/
def lineOffset (pa : Long) : Nat := (pa.extractLsb' 0 4).toNat

/-- The key and contents of the line that `pa` hits (R322). Allocation never gives two lines of a set one tag, but the contents
after power-on (R325) may have them: the one of the lowest number is then the one that is hit, updated and snooped, DESIGN
CHOICE (log 67). -/
def findLine (l : List (Nat × CacheLine)) (pa : Long) : Option (Nat × CacheLine) :=
  match waysWhere l (cacheSet pa) (fun x => x.tag = cacheTag pa) with
  | w :: _ => (tabGet l (4 * cacheSet pa + w)).map fun x => (4 * cacheSet pa + w, x)
  | [] => none

/-- The physical address of the line held under a key. -/
def CacheLine.addr (key : Nat) (x : CacheLine) : Long := x.tag ++ BitVec.ofNat 6 (key / 4) ++ 0#4

/-- `n` bytes of a line from an offset. -/
def CacheLine.bytes (x : CacheLine) (off n : Nat) : List Byte := ((bytesOfLine x.data 16).drop off).take n

/-- The long words of a line that bytes `off` to `off + n - 1` lie in. -/
def touchedLongs (off n : Nat) : BitVec 4 :=
  (List.range 4).foldl (fun acc k =>
    if off < 4 * k + 4 ∧ 4 * k < off + n then acc ||| BitVec.twoPow 4 k else acc) 0

/-- The line with bytes replaced from an offset; `mark` sets the dirty bits of the long words touched (R332). -/
def CacheLine.update (x : CacheLine) (off : Nat) (bs : List Byte) (mark : Bool) : CacheLine :=
  let old := bytesOfLine x.data 16
  { x with
    data := lineOfBytes (old.take off ++ bs ++ old.drop (off + bs.length))
    dirty := if mark then x.dirty ||| touchedLongs off bs.length else x.dirty }

/-- The line that the push buffer holds for `pa` (22_caches_bus R349). -/
def MemSys.buffered (m : MemSys) (pa : Long) : Option (Nat × CacheLine) :=
  m.pushBuffer.filter fun p => p.2.addr p.1 == lineBase pa

/-- The line that the data cache or the push buffer holds for `pa`. -/
def MemSys.dataLine (m : MemSys) (pa : Long) : Option (Nat × CacheLine) := (findLine m.dcache pa).or (m.buffered pa)

/-- Whether one of the `n` bytes from a key is in a window that `Config.mem` answers for. -/
def MemSys.windowed (m : MemSys) (key n : Nat) : Bool :=
  m.windows.any fun r => decide (key ≤ r.2) && decide (r.1 < key + n)

/-! ### Words that a fetch may still give as they were (20_memory R195, 93 U10) -/

/-- The `n` bytes at `pa` as the data side of the processor sees them: in the data cache, in the push buffer or in
memory. -/
def MemSys.coherent (m : MemSys) (pa : Long) (n : Nat) : List Byte :=
  match m.dataLine pa with
  | some (_, x) => x.bytes (lineOffset pa) n
  | none => getBytes m.ram 0 pa n

/-- Add an old content of the word at `a`; the maintenance of that word begins anew. -/
def addStale (st : List StaleWord) (a : Nat) (word : List Byte) : List StaleWord :=
  ⟨a, word, .no⟩ :: st.filter fun x => !(x.addr == a && x.word == word)

/-- Compare words before and after a store, from address `a` up, and note the ones that changed. -/
def noteWords (st : List StaleWord) : Nat → List Byte → List Byte → List StaleWord
  | a, o1 :: o2 :: os, n1 :: n2 :: ns =>
    let st := noteWords st (a + 2) os ns
    if o1 = n1 ∧ o2 = n2 then st else addStale st a [o1, o2]
  | _, _, _ => st

/-- The first word that `n` bytes at `pa` lie in. -/
def wordBase (pa : Long) : Long := pa &&& 0xFFFFFFFE

/-- How many bytes the words have that `n` bytes at `pa` lie in. -/
def wordSpan (pa : Long) (n : Nat) : Nat := (pa.toNat % 2 + n + 1) / 2 * 2

/-- The memory system `m'` that a store of `n` bytes at `pa` made of `m`, with the words that changed noted, as the data
side sees them or in memory: a store past a line of the data cache, which is off or not snooped, changes memory alone. The
words lie in one line. -/
def MemSys.noted (m' m : MemSys) (pa : Long) (n : Nat) : MemSys :=
  let a := wordBase pa
  let k := wordSpan pa n
  { m' with
    stale := noteWords (noteWords m.stale a.toNat (m.coherent a k) (m'.coherent a k)) a.toNat
      (getBytes m.ram 0 a k) (getBytes m'.ram 0 a k) }

/-- Store bytes in physical memory. -/
def MemSys.store (m : MemSys) (pa : Long) (bs : List Byte) : MemSys :=
  MemSys.noted { m with ram := putBytes m.ram 0 pa bs } m pa bs.length

/-- The copies of the instruction word at `pa` that the instruction cache and the pipeline hold. -/
def MemSys.fetchedCopies (m : MemSys) (pa : Long) : List (List Byte) :=
  ((findLine m.icache pa).map fun x => x.2.bytes (lineOffset pa) 2).toList ++
    m.pipe.filterMap fun w => match w.content with
      | .word q bs => if q = pa then some bs else none
      | .fault _ => none

/-- The word `old` at `w` after a store of bytes at `pa`. -/
def overlay (w : Long) (old : List Byte) (pa : Long) (bs : List Byte) : List Byte :=
  (List.range 2).map fun k => bs.getD (w + BitVec.ofNat 32 k - pa).toNat (old.getD k 0)

/-- Bytes have been stored at `pa` in a window: what MEM holds is its own, so that a fetch of a word of which the
instruction cache or the pipeline has a copy gives that copy or the copy with the bytes in it. -/
def MemSys.notedWindow (m : MemSys) (pa : Long) (bs : List Byte) : MemSys :=
  { m with
    stale := (List.range (wordSpan pa bs.length / 2)).foldl (fun st k =>
      let w := wordBase pa + BitVec.ofNat 32 (2 * k)
      (m.fetchedCopies w).foldl (fun st old =>
        if overlay w old pa bs = old then st else addStale st w.toNat (overlay w old pa bs)) st) m.stale }

/-- Whether memory has the word at `pa` as the last store left it: no dirty line holds it, or one with the word that memory
has too. -/
def MemSys.reached (m : MemSys) (pa : Long) : Bool :=
  (m.dataLine pa).all (·.2.dirty == 0) || (!m.windowed pa.toNat 2 && m.coherent pa 2 == getBytes m.ram 0 pa 2)

/-- Instruction-cache lines have been invalidated, those for which `p` holds: for the words in them that memory holds as
they are now, the maintenance sequence has begun. -/
def MemSys.maintain (m : MemSys) (p : Long → Bool) : MemSys :=
  { m with stale := m.stale.map fun x =>
      let pa := BitVec.ofNat 32 x.addr
      if x.stage = .no ∧ p (lineBase pa) = true ∧ m.reached pa = true then
        { x with stage := .invalidated }
      else x }

/-- The words in the pipeline are discarded (R89, 92_eei_decisions D37). -/
def MemSys.flushPipe (m : MemSys) : MemSys := { m with pipe := [] }

/-- NOP: the pipeline is flushed; the second step of the sequence. -/
def MemSys.synchronize (m : MemSys) : MemSys :=
  { m.flushPipe with
    stale := m.stale.map fun x => if x.stage = .invalidated then { x with stage := .synchronized } else x }

/-- A change of flow refills the pipeline: words whose sequence is complete are now certain (70_reset_and_hazards
R1311). -/
def MemSys.refill (m : MemSys) : MemSys := { m.flushPipe with stale := m.stale.filter (·.stage ≠ .synchronized) }

/-- The old contents noted of the word at `pa`. -/
def MemSys.olds (m : MemSys) (pa : Long) : List (List Byte) :=
  (m.stale.filter (·.addr = pa.toNat)).map (·.word)

/-- The word at `pa` as it is now, in the data cache and in memory, unless only MEM knows it. -/
def MemSys.current (m : MemSys) (pa : Long) : List (List Byte) :=
  ((m.dataLine pa).map fun x => x.2.bytes (lineOffset pa) 2).toList ++
    if m.windowed pa.toNat 2 then [] else [getBytes m.ram 0 pa 2]

/-- A fetched word: if it was stored into and not maintained since, it is any of the word fetched, the word as it is
now, in the data cache or in memory, and its old contents, as a free value says (U10). -/
def prefetchChoice (m : MemSys) (pa : Long) (bs : List Byte) : List Byte × MemSys :=
  match m.olds pa with
  | [] => (bs, m)
  | olds =>
    let l := bs :: m.current pa ++ olds
    let (b, m) := m.draw 32
    (l.getD (b.toNat % l.length) bs, m)

/-! ### Alternate masters (22_caches_bus R345 to R349) -/

/-- The number of bytes of an alternate master's transfer. -/
def BusSize.bytes : BusSize → Nat
  | .byte => 1 | .word => 2 | .long => 4 | .line => 16

/-- SIZ of a transfer (R361). -/
def sizeCode (n : Nat) : BitVec 2 := if n = 1 then 1 else if n = 2 then 2 else if n = 16 then 3 else 0

/-- The address of the first byte an aligned transfer moves. -/
def BusSize.align (sz : BusSize) (pa : Long) : Long := pa &&& ~~~(BitVec.ofNat 32 (sz.bytes - 1))

/-- An alternate master's write that the system takes: memory, or MEM where the address is in a window. That MEM is shown
TT = 0 and TM = 1 with it is the model's choice, as the spec gives an alternate master's cycle neither (log 57). -/
def MemSys.alternateWrite (m : MemSys) (pa : Long) (size : BusSize) (data : BitVec 128) : MemSys :=
  let bs := bytesOfLine data size.bytes
  if m.windowed pa.toNat size.bytes then
    MemSys.notedWindow { m with history := m.history ++ [⟨0, 1, pa.toNat, sizeCode size.bytes, false, data, true⟩] } pa bs
  else m.store pa bs

/-- Invalidate the instruction-cache line that a snoop hits. -/
def MemSys.snoopIcache (m : MemSys) (pa : Long) : MemSys :=
  match findLine m.icache pa with
  | some (k, _) => { m with icache := tabDel m.icache k }
  | none => m

/-- Drop the line that a snoop hits in the data cache or in the push buffer (R348, R349). -/
def MemSys.snoopDrop (m : MemSys) (pa : Long) : MemSys :=
  let m :=
    match findLine m.dcache pa with
    | some (k, _) => { m with dcache := tabDel m.dcache k }
    | none => m
  if (m.buffered pa).isSome then { m with pushBuffer := none } else m

/-- An alternate master's read (rows 9 and 10 of R337, V4, V5 of R338): SC = 10 invalidates the lines it hits, in
either cache; the data it is given is not part of this machine. -/
def snoopRead (m : MemSys) (pa : Long) (sc : BitVec 2) : MemSys :=
  if sc = 2 then (m.snoopDrop pa).snoopIcache pa else m

/-- An alternate master's write (rows 11 and 12 of R337, V6 of R338). With snooping inhibited, and wherever the
processor does not sink the data, the transfer reaches memory. A line in the push buffer is snooped as a dirty line
(R349; log 45). -/
def snoopWrite (m : MemSys) (pa : Long) (size : BusSize) (sc : BitVec 2) (data : BitVec 128) : MemSys :=
  let pa := size.align pa
  let bs := bytesOfLine data size.bytes
  let sinks := decide (sc = 1 ∧ size ≠ .line)
  if sc = 1 ∨ sc = 2 then
    let m := m.snoopIcache pa
    let m' :=
      match findLine m.dcache pa, m.buffered pa with
      | some (k, x), _ =>
        if x.dirty ≠ 0 ∧ sinks then
          MemSys.noted { m with dcache := tabPut m.dcache k (x.update (lineOffset pa) bs true) } m pa bs.length
        else (m.snoopDrop pa).alternateWrite pa size data
      | none, some (k, x) =>
        if sinks then
          MemSys.noted { m with pushBuffer := some (k, x.update (lineOffset pa) bs true) } m pa bs.length
        else (m.snoopDrop pa).alternateWrite pa size data
      | none, none => m.alternateWrite pa size data
    m'.maintain (· == lineBase pa)
  else m.alternateWrite pa size data

/-- One event on the bus. -/
def BusEvent.apply (m : MemSys) : BusEvent → MemSys
  | .reset modes => { m with struck := some modes }
  | .pins cdis mdis => { m with cdis := cdis, mdis := mdis }
  | .snoopRead pa _ sc => Sys2Proof.Machine.snoopRead m pa sc
  | .snoopWrite pa size sc data => Sys2Proof.Machine.snoopWrite m pa size sc data

/-- The events that are due now, until RSTI strikes; `wait` says that a locked sequence keeps other masters off the
bus (92_eei_decisions D7). -/
def runDue (m : MemSys) (wait : Bool) : List (Nat × BusEvent) → MemSys
  | [] => { m with due := [] }
  | (n, e) :: r =>
    if m.struck.isSome then { m with due := (n, e) :: r }
    else
      match n, e with
      | 0, .reset modes => runDue (BusEvent.apply m (.reset modes)) wait r
      | 0, .pins cdis mdis => runDue (BusEvent.apply m (.pins cdis mdis)) wait r
      | 0, e => if wait then { m with due := (0, e) :: r } else runDue (e.apply m) wait r
      | n + 1, e => { m with due := (n, e) :: r }

/-- What happens before a bus cycle of the processor: the events that are due (22_caches_bus R352). Other masters are kept off
the bus where LOCK is asserted already, so not before the first cycle of a locked sequence (R390). -/
def MemSys.tick (m : MemSys) (locked : Bool) : MemSys :=
  match m.due with
  | [] => m
  | l => { runDue m (m.lock && locked && Config.arbiterHonoursLock) l with lock := locked }

/-- What happens before an access that a cache may serve: the events that are due; a snoop is served between the accesses of a
cache, not inside one (20_memory R175). -/
def MemSys.cacheTick (m : MemSys) : MemSys :=
  match m.due with
  | [] => m
  | l => runDue m false l

/-- A locked sequence begins: LOCK is not asserted yet (22_caches_bus R390). With nothing due this is of no account. -/
def MemSys.beginLocked (m : MemSys) : MemSys := if m.due = [] then m else { m with lock := false }

/-- The pins that are due when the first half of an operand has been accessed, if they come next (22_caches_bus R324). -/
def pinsDue (m : MemSys) : List (Nat × BusEvent) → MemSys
  | (0, .pins cdis mdis) :: r => pinsDue { m with cdis := cdis, mdis := mdis } r
  | l => { m with due := l }

/-- Between the halves of an operand the pins may change (22_caches_bus R324, 21_mmu R223). -/
def MemSys.betweenHalves (m : MemSys) : MemSys := pinsDue m m.due

/-- Nothing outside the processor acts on the bus: plain memory answers, no event is due, RSTI has not struck; no line
waits in the push buffer. -/
def MemSys.quiet (m : MemSys) : Bool :=
  m.busErrors.isEmpty && m.windows.isEmpty && m.due.isEmpty && m.struck.isNone && m.pushBuffer.isNone

/-! ### Bus cycles (20_memory R155, R167) -/

/-- What a bus cycle of the processor shows besides its address, direction and data; `line` is one of the four cycles
of a line transfer, `later` says that it is not the first of them, `burst` that the system has not inhibited the burst; `held`
says that the other masters have had their turn before it; `low` is A1 and A0 of a line cycle, which memory ignores
(22_caches_bus R365). -/
structure Cycle where
  tt : BitVec 2
  tm : BitVec 3
  locked : Bool
  line : Bool
  later : Bool
  burst : Bool
  held : Bool
  low : BitVec 2
deriving DecidableEq, Repr

/-- The cycles of an ordinary transfer. -/
def Cycle.single (tt : BitVec 2) (tm : BitVec 3) (locked : Bool) : Cycle :=
  ⟨tt, tm, locked, false, false, false, false, 0⟩

/-- The first cycle of a line transfer; `low` is A1 and A0 of the operand address (22_caches_bus R365). -/
def Cycle.lineOf (tt : BitVec 2) (tm : BitVec 3) (locked : Bool) (low : BitVec 2) : Cycle :=
  ⟨tt, tm, locked, true, false, true, false, low⟩

/-- The first cycle of a push, of a line or of one long word (20_memory R160). -/
def Cycle.push (line locked : Bool) : Cycle := ⟨0, 0, locked, line, false, line, true, 0⟩

/-- The cycle after this one of the same transfer; TBI of the first cycle of a line inhibits the burst (22_caches_bus
R365, R367). The long-word cycles that complete such a line show A1 and A0 of the operand address as the first one does:
DESIGN CHOICE (log 63). -/
def Cycle.then (c : Cycle) (tbi : Bool) : Cycle :=
  if c.line then { c with later := true, burst := c.burst && (c.later || !tbi) } else c

/-- The key of an address: alternate spaces are apart (20_memory R163; log 11). -/
def Cycle.base (c : Cycle) : Nat := if c.tt = 2 then (c.tm.toNat + 1) * 2 ^ 32 else 0

/-- How a bus cycle ended: with an error or with TA; the bytes read; TBI and TCI; whether RSTI kept a write from being
made (70_reset_and_hazards R1302). -/
structure Ending where
  error : Bool
  data : List Byte
  tbi : Bool
  tci : Bool
  dropped : Bool
deriving DecidableEq, Repr

/-- Whether plain memory ends a transfer that touches one of the `n` bytes from `key` with TEA (R167). -/
def MemSys.tea (m : MemSys) (read : Bool) (key n : Nat) : Bool :=
  m.busErrors.any fun e => (if read then e.read else e.write) && decide (key ≤ e.hi) && decide (e.lo < key + n)

/-- Whether plain memory answers TCI to a line read whose first long word is at `key` (22_caches_bus R385). -/
def MemSys.tci (m : MemSys) (key : Nat) : Bool :=
  m.inhibit.any fun r => decide (key ≤ r.2) && decide (r.1 < key + 4)

/-- What `Config.mem` answers to a cycle of `n` bytes at an address in one of its windows. -/
def MemSys.answer (m : MemSys) (c : Cycle) (addr n : Nat) (read : Bool) (data : List Byte) : Answer × MemSys :=
  let t : Transfer := ⟨c.tt, c.tm, addr, if c.line && c.burst then 3 else sizeCode n, read, lineOfBytes data, false⟩
  (Config.mem m.history t, { m with history := m.history ++ [t] })

/-- A cycle that `Config.mem` answers. A retry is run again until the system ends the cycle otherwise (22_caches_bus
R383), but on a cycle of a line after the first it is a bus error (R341 c). -/
def MemSys.ask (m : MemSys) (c : Cycle) (key n : Nat) (read : Bool) (data : List Byte) : Ending × MemSys :=
  let (a, m) := m.answer c (key - c.base + c.low.toNat) n read data
  (⟨a.tea || (c.later && a.retries != 0), toBytes a.data n, a.tbi, a.tci, false⟩, m)

/-- The cells that a cycle reads and writes. -/
def MemSys.cells (m : MemSys) (c : Cycle) : List Host.Cell := if c.tt = 2 then m.alt else m.ram

/-- A read cycle of `n` bytes. Other masters act before it, but not inside a line transfer (20_memory R175). After RSTI has
struck it ends as if by TEA, one of the two ends that 70_reset_and_hazards R1302 allows: DESIGN CHOICE (log 69). A table search
then loads an entry with R = 0 (21_mmu R250), which reset leaves in the ATC. -/
def MemSys.readCycle (m : MemSys) (c : Cycle) (pa : Long) (n : Nat) : Ending × MemSys :=
  let m := if c.later || c.held then m else m.tick c.locked
  let key := c.base + pa.toNat
  if m.struck.isSome then (⟨true, [], false, false, false⟩, m)
  else if m.windowed key n then m.ask c key n true []
  else (⟨m.tea true key n, getBytes (m.cells c) c.base pa n, false, m.tci key, false⟩, m)

/-- An acknowledge cycle: a byte read with TT = 3, TM being the interrupt level or 0 for a breakpoint (20_memory R164,
22_caches_bus R370, R372). It has an answer of MEM where its address, in a space of its own above the others, is in a window
(log 10). -/
def MemSys.acknowledge (m : MemSys) (tm : BitVec 3) (pa : Long) : Option Answer × MemSys :=
  let m := m.tick false
  if m.struck.isNone && m.windowed (9 * 2 ^ 32 + pa.toNat) 1 then
    let (a, m) := m.answer (Cycle.single 3 tm false) pa.toNat 1 true []
    (some a, m)
  else (none, m)

/-- The bytes of a write cycle reach memory. -/
def MemSys.put (m : MemSys) (c : Cycle) (pa : Long) (bs : List Byte) : MemSys :=
  if c.tt = 2 then { m with alt := putBytes m.alt c.base pa bs } else m.store pa bs

/-- A write cycle. A write that is in progress or pending when RSTI strikes is made or not, as a free value says
(93 U35); a line is one transfer, so that its first cycle decides for it (70_reset_and_hazards R1302, 20_memory R175). -/
def MemSys.writeCycle (m : MemSys) (c : Cycle) (pa : Long) (bs : List Byte) : Ending × MemSys :=
  let m := if c.later || c.held then m else m.tick c.locked
  let key := c.base + pa.toNat
  let (made, m) : Bool × MemSys :=
    if m.struck.isSome && !c.later then ((m.draw 1).1 = 1, (m.draw 1).2) else (true, m)
  if !made then (⟨false, [], false, false, true⟩, m)
  else if m.windowed key bs.length then
    let (e, m) := m.ask c key bs.length false bs
    (e, if e.error || c.tt == 2 then m else m.notedWindow pa bs)
  else if m.tea false key bs.length then (⟨true, [], false, false, false⟩, m)
  else (⟨false, [], false, false, false⟩, m.put c pa bs)

/-- The length of the next aligned transfer of `n` bytes at `key` (R155). -/
def transferLength (key n : Nat) : Nat :=
  if key % 4 = 0 ∧ 4 ≤ n then 4 else if key % 2 = 0 ∧ 2 ≤ n then 2 else 1

/-- How many aligned transfers `n` bytes at `key` take; the first argument bounds them. -/
def transferCount : Nat → Nat → Nat → Nat
  | 0, _, _ => 0
  | fuel + 1, key, n =>
    if n = 0 then 0 else 1 + transferCount fuel (key + transferLength key n) (n - transferLength key n)

/-- Read `n` bytes by aligned transfers in ascending order (R155); `none` when one ended with an error. The first
argument bounds the number of transfers. -/
def busReads : Nat → MemSys → Cycle → Long → Nat → Option (List Byte) × MemSys
  | 0, m, _, _, _ => (some [], m)
  | fuel + 1, m, c, pa, n =>
    if n = 0 then (some [], m)
    else
      let t := transferLength pa.toNat n
      match m.readCycle c pa t with
      | (e, m) =>
        if e.error then (none, m)
        else
          match busReads fuel m (c.then e.tbi) (pa + BitVec.ofNat 32 t) (n - t) with
          | (r, m) => (r.map (e.data ++ ·), m)

/-- Write bytes by aligned transfers in ascending order (R155); the flag is true when one ended with an error, those
before it having been made. A line that RSTI keeps from being made ends with its first cycle. -/
def busWrites : Nat → MemSys → Cycle → Long → List Byte → Bool × MemSys
  | 0, m, _, _, _ => (false, m)
  | fuel + 1, m, c, pa, bs =>
    match bs with
    | [] => (false, m)
    | _ =>
      let t := transferLength pa.toNat bs.length
      match m.writeCycle c pa (bs.take t) with
      | (e, m) =>
        if e.error then (true, m)
        else if e.dropped && c.line then (false, m)
        else busWrites fuel m (c.then e.tbi) (pa + BitVec.ofNat 32 t) (bs.drop t)

/-- A read of `n` bytes from the bus. -/
def MemSys.busRead (m : MemSys) (c : Cycle) (pa : Long) (n : Nat) : Option (List Byte) × MemSys := busReads n m c pa n

/-- A write of bytes on the bus. -/
def MemSys.busWrite (m : MemSys) (c : Cycle) (pa : Long) (bs : List Byte) : Bool × MemSys :=
  busWrites bs.length m c pa bs

/-! ### Line reads (22_caches_bus R340, R341, R365) -/

/-- The rest of a line read, from long word `k`: the long words arrive in the order k, k + 1, k + 2, k + 3 modulo 4,
until one ends with an error. -/
def lineReads : Nat → MemSys → Cycle → Long → Nat → MemSys
  | 0, m, _, _, _ => m
  | fuel + 1, m, c, base, k =>
    match m.readCycle c (base + BitVec.ofNat 32 (4 * (k % 4))) 4 with
    | (e, m) =>
      if e.error then m
      else
        let b := m.fillBuffer
        let v : BitVec 128 := (ofBytes e.data).zeroExtend 128 <<< (32 * (3 - k % 4))
        lineReads fuel { m with fillBuffer := ⟨b.data ||| v, b.got + 1, if c.later then b.tci else e.tci⟩ }
          (c.then e.tbi) base (k + 1)

/-- Read the line that holds `pa` into the line-fill buffer, the long word of `pa` first. -/
def MemSys.lineRead (m : MemSys) (c : Cycle) (pa : Long) : MemSys :=
  lineReads 4 { m with fillBuffer := FillBuffer.empty } c (lineBase pa) (lineOffset pa / 4)

/-- Whether the buffer has the long words that `n` bytes at `pa` lie in. -/
def FillBuffer.serves (b : FillBuffer) (pa : Long) (n : Nat) : Bool :=
  decide ((lineOffset pa + n - 1) / 4 - lineOffset pa / 4 < b.got)

/-- `n` bytes at `pa` from the buffer. -/
def FillBuffer.bytes (b : FillBuffer) (pa : Long) (n : Nat) : List Byte :=
  ((bytesOfLine b.data 16).drop (lineOffset pa)).take n

/-- The line in the buffer. -/
def FillBuffer.cacheLine (b : FillBuffer) (pa : Long) : CacheLine := ⟨cacheTag pa, b.data, 0⟩

end Sys2Proof.Machine
end

