-- ==== Sys2Proof/Machine/Cache.lean ====
section
/-! DEFINITION. The two caches (22_caches_bus R320 to R343): pushes, line fill, the accesses of the processor to a
physical address, and cache maintenance. -/

namespace Sys2Proof.Machine

/-- Why a physical access failed: a transfer ended with TEA, or a push it forced was bus errored (R342). -/
inductive PhysFault where
  | bus
  | push (p : PushFault)
deriving DecidableEq, Repr

/-- The result of a physical access. -/
inductive PRes (α : Type) where
  | ok (a : α) (m : MemSys)
  | err (f : PhysFault) (m : MemSys)

/-- Sequencing of physical accesses. -/
def PRes.bind {α β : Type} (r : PRes α) (k : α → MemSys → PRes β) : PRes β :=
  match r with
  | .ok a m => k a m
  | .err f m => .err f m

/-- The attributes of a data access: the function code and transfer type it shows (20_memory R160), whether it is
locked (R176), whether a miss allocates (22_caches_bus R335), and for a MOVE16 line A1 and A0 of the operand address,
which its cycles show (22_caches_bus R365). -/
structure Access where
  tt : BitVec 2
  tm : BitVec 3
  locked : Bool
  alloc : Bool
  line : Option (BitVec 2)
deriving DecidableEq, Repr

/-- The bus cycles of an access. -/
def Access.cycle (a : Access) : Cycle :=
  match a.line with
  | some low => Cycle.lineOf a.tt a.tm a.locked low
  | none => Cycle.single a.tt a.tm a.locked

/-- How many half-lines `n` bytes at `pa` touch (R323, R339). -/
def halfLines (pa : Long) (n : Nat) : Nat := if lineOffset pa / 8 = (lineOffset pa + n - 1) / 8 then 1 else 2

/-- Advance the data cache's replacement counter (R339). -/
def MemSys.bumpDcache (m : MemSys) (n : Nat) : MemSys := { m with dcacheCtr := m.dcacheCtr + BitVec.ofNat 2 n }

/-! ### Pushes (R342) -/

/-- What the push of a dirty line writes: one dirty long word by itself, else the whole line. -/
def pushOf (key : Nat) (x : CacheLine) (locked : Bool) : PushFault :=
  let one (k : Nat) : PushFault :=
    ⟨x.addr key + BitVec.ofNat 32 (4 * k), false, locked, x.data <<< (32 * k)⟩
  if x.dirty = 1 then one 0 else if x.dirty = 2 then one 1 else if x.dirty = 4 then one 2
  else if x.dirty = 8 then one 3 else ⟨x.addr key, true, locked, x.data⟩

/-- The bytes a push writes. -/
def PushFault.bytes (p : PushFault) : List Byte :=
  if p.line then bytesOfLine p.data 16 else (bytesOfLine p.data 16).take 4

/-- Write the line in the push buffer to memory. It is in the buffer, where the other masters still find it (R349),
until the push has the bus. -/
def pushBuffered (m : MemSys) (locked : Bool) : PRes Unit :=
  if m.pushBuffer.isNone then .ok () m
  else
    let m := m.tick locked
    match m.pushBuffer with
    | none => .ok () m
    | some (key, x) =>
      let p := pushOf key x locked
      match m.busWrite (Cycle.push p.line locked) p.addr p.bytes with
      | (false, m) => .ok () { m with pushBuffer := none }
      | (true, m) => .err (.push p) { m with pushBuffer := none }

/-- Write a line that has left the data cache to memory, if it is dirty. -/
def pushLine (m : MemSys) (key : Nat) (x : CacheLine) (locked : Bool) : PRes Unit :=
  if x.dirty = 0 then .ok () m else pushBuffered { m with pushBuffer := some (key, x) } locked

/-- A bus-errored push joins those that wait to be reported. -/
def MemSys.queuePush (m : MemSys) (p : PushFault) : MemSys := { m with pushFaults := m.pushFaults ++ [p] }

/-- The first of the bus-errored pushes that wait is reported. -/
def MemSys.pushReported (m : MemSys) : MemSys := { m with pushFaults := m.pushFaults.tail }

/-- The bus error of a push that an access forces, in an instruction that has read a serialized page: it does not abort the
instruction and waits (20_memory R191; log 65). -/
def PRes.postponed (r : PRes Unit) : PRes Unit :=
  match r with
  | .ok _ m => .ok () m
  | .err .bus m => .err .bus m
  | .err (.push p) m => if m.serialized then .ok () (m.queuePush p) else .err (.push p) m

/-- What a noncachable access does to a data-cache line it matches: a dirty line is pushed, the line is
invalidated (R333); after a bus error of the push it is invalid too (R1099). While another one waits a dirty line stays, and
the one that waits is reported (log 20); but after the read of a serialized page the instruction goes on, and every bus error
of a push waits (20_memory R191; log 65). -/
def evictMatch (m : MemSys) (pa : Long) (locked : Bool) : PRes Unit :=
  match findLine m.dcache pa with
  | none => .ok () m
  | some (key, x) =>
    match if x.dirty = 0 ∨ m.serialized then none else m.pushFaults.head? with
    | some p => .err (.push p) m
    | none => (pushLine { m with dcache := tabDel m.dcache key } key x locked).postponed

/-! ### Line fill of the data cache (R340, R341) -/

/-- How a line fill ends: with a bus error on a long word the access needs; with bytes that the access may use but no
line (TCI, a bus error on another long word, log 7); or with the line in the cache. -/
inductive Fill where
  | error (m : MemSys)
  | bypass (bs : List Byte) (m : MemSys)
  | cached (bs : List Byte) (m : MemSys)

/-- Replace bytes in a line of the data cache. -/
def MemSys.modify (m : MemSys) (key : Nat) (x : CacheLine) (pa : Long) (bs : List Byte) (mark : Bool) : MemSys :=
  MemSys.noted { m with dcache := tabPut m.dcache key (x.update (lineOffset pa) bs mark) } m pa bs.length

/-- Load a line into the data cache, with the bytes of a write in it. -/
def MemSys.install (m : MemSys) (key : Nat) (x : CacheLine) (pa : Long) (wr : Option (List Byte)) : MemSys :=
  let m := { m with dcache := tabPut m.dcache key x }
  match wr with
  | none => m
  | some bs => m.modify key x pa bs true

/-- A dirty victim goes back from the push buffer to the cache (R341 d). -/
def MemSys.restoreVictim (m : MemSys) : MemSys :=
  match m.pushBuffer with
  | some (key, x) => { m with dcache := tabPut m.dcache key x, pushBuffer := none }
  | none => m

/-- The push of a dirty victim once the new line is in the cache; a bus error waits in `pushFaults` (R342). -/
def MemSys.pushVictim (m : MemSys) : MemSys :=
  match pushBuffered m false with
  | .ok _ m => m
  | .err (.push p) m => m.queuePush p
  | .err .bus m => m

/-- Load the line of `n` bytes at `pa` into the data cache; `wr` are the bytes a write replaces there. The victim is
the first invalid line, else the one the counter points to (R339); it leaves the cache before the line is read, a dirty
one for the push buffer, and only a dirty one comes back if the line cannot be cached (R341 d). The cycles show A1 and A0 of
`pa`, which for the second line of an operand over two lines are 00: DESIGN CHOICE (log 63). -/
def fillDcache (m : MemSys) (a : Access) (pa : Long) (n : Nat) (wr : Option (List Byte)) : Fill :=
  let set := cacheSet pa
  let key := 4 * set + (freeWay m.dcache set).getD m.dcacheCtr.toNat
  let victim := tabGet m.dcache key
  let dirty := victim.filter (·.dirty != 0)
  let m := if victim.isSome then m.bumpDcache 1 else m
  let m : MemSys := { m with dcache := tabDel m.dcache key, pushBuffer := dirty.map (key, ·) }
  let m := m.lineRead (Cycle.lineOf a.tt a.tm a.locked (pa.extractLsb' 0 2)) pa
  let b := m.fillBuffer
  let m := { m with fillBuffer := FillBuffer.empty }
  if !b.serves pa n then .error m.restoreVictim
  else if b.tci || decide (b.got < 4) then .bypass (b.bytes pa n) m.restoreVictim
  else .cached (b.bytes pa n) (m.install key (b.cacheLine pa) pa wr).pushVictim

/-! ### Data accesses to a physical address; the bytes lie in one line -/

/-- An access that no cache may serve (R330): noncachable page, locked, or alternate space. -/
def Access.nocache (a : Access) (cm : BitVec 2) : Bool := a.locked || cm.getLsbD 1 || a.tt == 2

/-- A bus read as a physical access. -/
def busReadP (m : MemSys) (a : Access) (pa : Long) (n : Nat) : PRes (List Byte) :=
  match m.busRead a.cycle pa n with
  | (some bs, m) => .ok bs m
  | (none, m) => .err .bus m

/-- A bus write as a physical access. -/
def busWriteP (m : MemSys) (a : Access) (pa : Long) (bs : List Byte) : PRes Unit :=
  match m.busWrite a.cycle pa bs with
  | (false, m) => .ok () m
  | (true, m) => .err .bus m

/-- What is due before an access of `cm` in the data cache, where that cache may serve it (20_memory R175). -/
def MemSys.dataTick (c : Control) (m : MemSys) (a : Access) (cm : BitVec 2) : MemSys :=
  if c.dcacheOn m && !a.nocache cm then m.cacheTick else m

/-- Read `n` bytes (R331 to R335, rows 1 and 2 of R337). The dirty lines that a locked sequence hits have been pushed before its
first read (`lockedPush`). An access that no cache may serve looks the cache up but does not advance its replacement counter, which R339 advances for each access to the cache: DESIGN CHOICE (log 27). A MOVE16 read of a noncachable
page that hits follows R333, a dirty line pushed and the bus read, and not the MOVE16 row of R335, by which a read hit comes
from the cache: DESIGN CHOICE (log 66). -/
def pieceRead (c : Control) (m : MemSys) (a : Access) (pa : Long) (cm : BitVec 2) (n : Nat) : PRes (List Byte) :=
  let m := m.dataTick c a cm
  if !c.dcacheOn m then busReadP m a pa n
  else if a.nocache cm then (evictMatch m pa a.locked).bind fun _ m => busReadP m a pa n
  else
    let m := m.bumpDcache (halfLines pa n)
    match findLine m.dcache pa with
    | some (_, x) => .ok (x.bytes (lineOffset pa) n) m
    | none =>
      if a.line.isSome || !a.alloc then busReadP m a pa n
      else
        match fillDcache m a pa n none with
        | .error m => .err .bus m
        | .bypass bs m => .ok bs m
        | .cached bs m => .ok bs m

/-- Make a write (R331 to R335, rows 3 to 6 of R337). A copyback write whose line cannot be cached goes to memory
(log 7, log 50). A writethrough hit has changed the line also where its bus cycle then ends in TEA (R331, R382 d; 60_exceptions
R1101 differs, log 59). A MOVE16 write, which R339 does not name, and a write that no cache may serve do not advance the
replacement counter: DESIGN CHOICE (log 27). A MOVE16 write to a noncachable page that hits pushes a dirty line, as R333 says,
where the MOVE16 row of R335 invalidates it without a push: DESIGN CHOICE (log 66). -/
def pieceWriteMade (c : Control) (m : MemSys) (a : Access) (pa : Long) (cm : BitVec 2) (bs : List Byte) : PRes Unit :=
  if !c.dcacheOn m then busWriteP m a pa bs
  else if a.nocache cm then (evictMatch m pa a.locked).bind fun _ m => busWriteP m a pa bs
  else if a.line.isSome then
    match findLine m.dcache pa with
    | some (key, _) => busWriteP { m with dcache := tabDel m.dcache key } a pa bs
    | none => busWriteP m a pa bs
  else if cm = 0 then
    let m := m.bumpDcache (transferCount bs.length pa.toNat bs.length)
    match findLine m.dcache pa with
    | some (key, x) => busWriteP (m.modify key x pa bs false) a pa bs
    | none => busWriteP m a pa bs
  else
    let m := m.bumpDcache 1
    match findLine m.dcache pa with
    | some (key, x) => .ok () (m.modify key x pa bs true)
    | none =>
      if !a.alloc then busWriteP m a pa bs
      else
        match fillDcache m a pa bs.length (some bs) with
        | .error m => .err .bus m
        | .bypass _ m => busWriteP m a pa bs
        | .cached _ m => .ok () m

/-- Write bytes. After RSTI has struck, a free value says whether a write of the instruction in progress is still made
(93 U35). -/
def pieceWrite (c : Control) (m : MemSys) (a : Access) (pa : Long) (cm : BitVec 2) (bs : List Byte) : PRes Unit :=
  let m := m.dataTick c a cm
  if m.struck.isNone then pieceWriteMade c m a pa cm bs
  else if (m.draw 1).1 = 0 then .ok () (m.draw 1).2
  else pieceWriteMade c (m.draw 1).2 a pa cm bs

/-- How many of `n` bytes at `pa` lie in the line of `pa`. -/
def lineRoom (pa : Long) (n : Nat) : Nat := min n (16 - lineOffset pa)

/-- Where the bytes at `pa` in each of the lines they touch begin. -/
def lineParts (pa : Long) (n : Nat) : List Long :=
  if lineRoom pa n = n then [pa] else [pa, pa + BitVec.ofNat 32 (lineRoom pa n)]

/-- Read bytes of one page, line by line (R323); CDIS may change between the two lines (R324). -/
def physRead (c : Control) (m : MemSys) (a : Access) (pa : Long) (cm : BitVec 2) (n : Nat) : PRes (List Byte) :=
  let k := lineRoom pa n
  if k = n then pieceRead c m a pa cm n
  else
    (pieceRead c m a pa cm k).bind fun x m =>
      (pieceRead c m.betweenHalves a (pa + BitVec.ofNat 32 k) cm (n - k)).bind fun y m => .ok (x ++ y) m

/-- Write bytes of one page, line by line (R323); CDIS may change between the two lines (R324). -/
def physWrite (c : Control) (m : MemSys) (a : Access) (pa : Long) (cm : BitVec 2) (bs : List Byte) : PRes Unit :=
  let k := lineRoom pa bs.length
  if k = bs.length then pieceWrite c m a pa cm bs
  else
    (pieceWrite c m a pa cm (bs.take k)).bind fun _ m =>
      pieceWrite c m.betweenHalves a (pa + BitVec.ofNat 32 k) cm (bs.drop k)

/-! ### Instruction fetch (R336, R338 to R341) -/

/-- The function code of a fetch (20_memory R160). -/
def fetchMode (super : Bool) : BitVec 3 := if super then 6 else 2

/-- An instruction word, or a long word, at a physical address: `n` bytes, before the choice of `prefetchChoice`. The bus
reads long words (20_memory R156). The cache's replacement counter advances once for each such access, so once for every word
that is fetched as it is needed; R339 counts half-lines, and how many accesses the fetching of one half-line takes is the
model's choice, and so is that a noncachable fetch does not advance the counter (log 27). -/
def fetchPieceMade (c : Control) (m : MemSys) (super : Bool) (pa : Long) (cm : BitVec 2) (n : Nat) : PRes (List Byte) :=
  let busWord (m : MemSys) : PRes (List Byte) :=
    match m.readCycle (Cycle.single 0 (fetchMode super) false) (pa &&& 0xFFFFFFFC) 4 with
    | (e, m) => if e.error then .err .bus m else .ok ((e.data.drop (pa.toNat % 4)).take n) m
  if !c.icacheOn m then busWord m
  else if cm.getLsbD 1 then
    match findLine m.icache pa with
    | some (key, _) => busWord { m with icache := tabDel m.icache key }
    | none => busWord m
  else
    let m := { m with icacheCtr := m.icacheCtr + 1 }
    match findLine m.icache pa with
    | some (_, x) => .ok (x.bytes (lineOffset pa) n) m
    | none =>
      let set := cacheSet pa
      let free := freeWay m.icache set
      let key := 4 * set + free.getD m.icacheCtr.toNat
      let m := if free.isNone then { m with icacheCtr := m.icacheCtr + 1 } else m
      let m := { m with icache := tabDel m.icache key }.lineRead
        (Cycle.lineOf 0 (fetchMode super) false (pa.extractLsb' 0 2)) pa
      let b := m.fillBuffer
      let m := { m with fillBuffer := FillBuffer.empty }
      if !b.serves pa n then .err .bus m
      else if b.tci || decide (b.got < 4) then .ok (b.bytes pa n) m
      else .ok (b.bytes pa n) { m with icache := tabPut m.icache key (b.cacheLine pa) }

/-- What is due before a fetch of `cm` in the instruction cache, where that cache may serve it (20_memory R175). -/
def MemSys.instrTick (c : Control) (m : MemSys) (cm : BitVec 2) : MemSys :=
  if c.icacheOn m && !cm.getLsbD 1 then m.cacheTick else m

/-- Fetch `n` bytes of one long word at a physical address, after what is due. -/
def fetchPiece (c : Control) (m : MemSys) (super : Bool) (pa : Long) (cm : BitVec 2) (n : Nat) : PRes (List Byte) :=
  fetchPieceMade c (m.instrTick c cm) super pa cm n

/-! ### Table-search accesses (21_mmu R249) -/

/-- The access of a table search of the instruction or the data MMU (20_memory R160). -/
def searchAccess (instr locked : Bool) : Access := ⟨0, if instr then 4 else 3, locked, false, none⟩

/-- Read a descriptor: writethrough, not allocating. -/
def searchRead (c : Control) (m : MemSys) (instr : Bool) (pa : Long) : PRes Long :=
  (physRead c m (searchAccess instr false) pa 0 4).bind fun bs m => .ok (ofBytes bs) m

/-- Write a descriptor: writethrough, not allocating. -/
def searchWrite (c : Control) (m : MemSys) (instr : Bool) (pa : Long) (v : Long) : PRes Unit :=
  physWrite c m (searchAccess instr false) pa 0 (toBytes v 4)

/-- Read a descriptor again and write it with bits set, locked (R248). -/
def searchLocked (c : Control) (m : MemSys) (instr : Bool) (pa : Long) (bits : Long) : PRes Unit :=
  (physRead c m.beginLocked (searchAccess instr true) pa 0 4).bind fun bs m =>
    physWrite c m (searchAccess instr true) pa 0 (toBytes (ofBytes bs ||| bits) 4)

/-! ### Cache maintenance (R343) -/

/-- The lines a CINV or CPUSH selects. -/
inductive Scope where
  | line (pa : Long)
  | page (pa : Long) (eightK : Bool)
  | all

/-- Whether the line of memory at `base` is selected (R343). -/
def Scope.covers (sc : Scope) (base : Long) : Bool :=
  match sc with
  | .line pa => base == lineBase pa
  | .page pa eightK =>
    if eightK then base.extractLsb' 13 19 == pa.extractLsb' 13 19 else base.extractLsb' 12 20 == pa.extractLsb' 12 20
  | .all => true

/-- Whether the line held under a key is selected. -/
def Scope.selects (sc : Scope) (key : Nat) (x : CacheLine) : Bool := sc.covers (x.addr key)

/-- Invalidate the selected lines of a cache. -/
def invalidate (sc : Scope) (l : List (Nat × CacheLine)) : List (Nat × CacheLine) :=
  match sc with
  | .all => []
  | sc => l.filter fun (key, x) => !sc.selects key x

/-- Push the selected lines of the data cache under the given keys (D11), each invalidated as it is pushed; a bus error
stops the operation (R342). That then the selected lines under lower keys are invalid, clean ones too, and those under higher
keys are as they were, is DESIGN CHOICE: 49_mmu_cache_multiprocessor R1043 and R1045 say only what becomes of the line whose push
failed (log 64). -/
def pushSelected (sc : Scope) : List Nat → MemSys → PRes Unit
  | [], m => .ok () m
  | key :: r, m =>
    match (tabGet m.dcache key).filter (sc.selects key) with
    | some x => (pushLine { m with dcache := tabDel m.dcache key } key x false).bind fun _ m => pushSelected sc r m
    | none => pushSelected sc r m

end Sys2Proof.Machine
end

