-- ==== Sys2Proof/Machine/Mmu.lean ====
section
/-! DEFINITION. Memory management (21_mmu R220 to R263): transparent translation, the address translation caches,
the table search with its history bits, flushing and PTEST. -/

namespace Sys2Proof.Machine

/-! ### Transparent translation (R224) -/

/-- Whether a transparent translation register matches a logical address. -/
def ttrMatches (r : Long) (la : Long) (fc2 : Bool) : Bool :=
  r.getLsbD 15 &&
    ((la.extractLsb' 24 8 ^^^ r.extractLsb' 24 8) &&& ~~~(r.extractLsb' 16 8)) == 0 &&
    (r.getLsbD 14 || r.getLsbD 13 == fc2)

/-- The matching register of a unit, TT0 first. -/
def ttrMatch (c : Control) (instr : Bool) (la : Long) (fc2 : Bool) : Option Long :=
  let t0 := if instr then c.itt0 else c.dtt0
  let t1 := if instr then c.itt1 else c.dtt1
  if ttrMatches t0 la fc2 then some t0 else if ttrMatches t1 la fc2 then some t1 else none

/-! ### The address translation caches (R230, R235) -/

/-- TC.P: 8K pages (R69). -/
def Control.eightK (c : Control) : Bool := c.tc.getLsbD 14

/-- Paged translation is on: TC.E set and MDIS negated (R222, R223). -/
def Control.paging (c : Control) (m : MemSys) : Bool := c.tc.getLsbD 15 && !m.mdis

/-- The entries of a unit's ATC. -/
def MemSys.atc (m : MemSys) (instr : Bool) : List (Nat × AtcEntry) := if instr then m.iatc else m.datc

/-- Replace the entries of a unit's ATC. -/
def MemSys.setAtc (m : MemSys) (instr : Bool) (l : List (Nat × AtcEntry)) : MemSys :=
  if instr then { m with iatc := l } else { m with datc := l }

/-- The replacement counter of a unit's ATC. -/
def MemSys.atcCtr (m : MemSys) (instr : Bool) : BitVec 2 := if instr then m.iatcCtr else m.datcCtr

/-- Advance the replacement counter, as each access does (R235). -/
def MemSys.bumpAtc (m : MemSys) (instr : Bool) : MemSys :=
  if instr then { m with iatcCtr := m.iatcCtr + 1 } else { m with datcCtr := m.datcCtr + 1 }

/-- The set a logical address selects (R230). -/
def atcSet (c : Control) (la : Long) : Nat :=
  if c.eightK then (la.extractLsb' 13 4).toNat else (la.extractLsb' 12 4).toNat

/-- Whether an entry is for a logical address and privilege (R230). -/
def AtcEntry.matches (c : Control) (la : Long) (fc2 : Bool) (e : AtcEntry) : Bool :=
  e.fc2 == fc2 &&
    if c.eightK then e.la.extractLsb' 1 15 == la.extractLsb' 17 15 else e.la == la.extractLsb' 16 16

/-- The matching keys of a unit's ATC. More than one is a software error (U13). -/
def atcHits (c : Control) (m : MemSys) (instr : Bool) (la : Long) (fc2 : Bool) : List Nat :=
  (waysWhere (m.atc instr) (atcSet c la) (AtcEntry.matches c la fc2)).map (4 * atcSet c la + ·)

/-- The key the MMU uses of those that match: with several, any one, as a free value says (U13). -/
def atcPick (m : MemSys) : List Nat → Option Nat × MemSys
  | [] => (none, m)
  | [k] => (some k, m)
  | ks =>
    let (b, m) := m.draw 2
    (ks[b.toNat % ks.length]?, m)

/-- Look up a logical address (R230). -/
def atcLookup (c : Control) (m : MemSys) (instr : Bool) (la : Long) (fc2 : Bool) :
    Option (Nat × AtcEntry) × MemSys :=
  let (k, m) := atcPick (m.bumpAtc instr) (atcHits c m instr la fc2)
  (k.bind fun k => (tabGet (m.atc instr) k).map (k, ·), m)

/-- Load an entry: over the one that was hit, else an invalid one, else the one the counter points to (R235). -/
def loadAtc (c : Control) (m : MemSys) (instr : Bool) (la : Long) (hit : Option Nat) (e : AtcEntry) : MemSys :=
  let set := atcSet c la
  let key := hit.getD (4 * set + (freeWay (m.atc instr) set).getD (m.atcCtr instr).toNat)
  m.setAtc instr (tabPut (m.atc instr) key e)

/-! ### The table search (R247 to R251) -/

/-- What a table search met: a page descriptor (after its history update), an invalid descriptor, or a bus
error; with the write protection accumulated. -/
inductive SearchEnd where
  | page (pd : Long) (wp : Bool)
  | invalid (wp : Bool)
  | busError
deriving DecidableEq, Repr

/-- Descriptor bit U. -/
def descU : Long := 8
/-- Page descriptor bit M. -/
def descM : Long := 16

/-- Set U in a table descriptor that has it clear (R247). -/
def markTable (c : Control) (m : MemSys) (instr : Bool) (a d : Long) : PRes Unit :=
  if d.getLsbD 3 then .ok () m else searchWrite c m instr a (d ||| descU)

/-- History bits of a page descriptor (Table 6-1 in R248); the answer is the descriptor with its new U and M. -/
def markPage (c : Control) (m : MemSys) (instr : Bool) (a pd : Long) (wp wr sviol : Bool) : PRes Long :=
  let setM := wr && !wp && !sviol && !pd.getLsbD 4
  if setM then (searchWrite c m instr a (pd ||| descU ||| descM)).bind fun _ m => .ok (pd ||| descU ||| descM) m
  else if pd.getLsbD 3 then .ok pd m
  else (searchLocked c m instr a descU).bind fun _ m => .ok (pd ||| descU) m

/-- UDT of a table descriptor says the next table is resident (R243). -/
def tableResident (d : Long) : Bool := d.getLsbD 1

/-- PDT of a page descriptor (R244). -/
def pdt (d : Long) : BitVec 2 := d.extractLsb' 0 2

/-- The walk of the tables (R247). -/
def tableWalk (c : Control) (m : MemSys) (instr : Bool) (la : Long) (fc2 wr : Bool) : PRes SearchEnd :=
  let root := if fc2 then c.srp else c.urp
  let a1 : Long := root.extractLsb' 9 23 ++ la.extractLsb' 25 7 ++ 0#2
  (searchRead c m instr a1).bind fun d1 m =>
    if !tableResident d1 then .ok (.invalid false) m
    else
      (markTable c m instr a1 d1).bind fun _ m =>
        let wp := d1.getLsbD 2
        let a2 : Long := d1.extractLsb' 9 23 ++ la.extractLsb' 18 7 ++ 0#2
        (searchRead c m instr a2).bind fun d2 m =>
          if !tableResident d2 then .ok (.invalid wp) m
          else
            (markTable c m instr a2 d2).bind fun _ m =>
              let wp := wp || d2.getLsbD 2
              let a3 : Long :=
                if c.eightK then d2.extractLsb' 7 25 ++ la.extractLsb' 13 5 ++ 0#2
                else d2.extractLsb' 8 24 ++ la.extractLsb' 12 6 ++ 0#2
              (searchRead c m instr a3).bind fun d3 m =>
                let finish (a pd : Long) (m : MemSys) : PRes SearchEnd :=
                  if pdt pd = 1 then
                    let wp := wp || pd.getLsbD 2
                    (markPage c m instr a pd wp wr (!fc2 && pd.getLsbD 7)).bind fun pd m => .ok (.page pd wp) m
                  else .ok (.invalid wp) m
                if pdt d3 = 2 then
                  let ad : Long := d3.extractLsb' 2 30 ++ 0#2
                  (searchRead c m instr ad).bind fun pd m => finish ad pd m
                else finish a3 d3 m

/-- The ATC entry a finished search makes (R247, R251). After a search that found no page the fields other than the tag
and R are any values, those of `free` (93_implementation_defined 1.2; log 48). -/
def entryOf (la : Long) (fc2 : Bool) (free : BitVec 28) : SearchEnd → AtcEntry
  | .page pd wp =>
    { g := pd.getLsbD 10, fc2 := fc2, la := la.extractLsb' 16 16, pa := pd.extractLsb' 12 20
      u1 := pd.getLsbD 9, u0 := pd.getLsbD 8, s := pd.getLsbD 7, cm := pd.extractLsb' 5 2
      m := pd.getLsbD 4, w := wp, r := fc2 || !pd.getLsbD 7 }
  | _ =>
    { g := free.getLsbD 20, fc2 := fc2, la := la.extractLsb' 16 16, pa := free.extractLsb' 0 20
      u1 := free.getLsbD 21, u0 := free.getLsbD 22, s := free.getLsbD 23, cm := free.extractLsb' 24 2
      m := free.getLsbD 26, w := free.getLsbD 27, r := false }

/-- Whether a search found a page. -/
def SearchEnd.found : SearchEnd → Bool
  | .page _ _ => true
  | _ => false

/-- The end of a table search: the ATC is loaded (R247, R251). `hit` is the entry a write hit with M clear (R233). -/
def searchEnd (c : Control) (m : MemSys) (instr : Bool) (la : Long) (fc2 : Bool) (hit : Option Nat) (e : SearchEnd) :
    PRes SearchEnd :=
  let d := m.draw 28
  if e.found then .ok e (loadAtc c m instr la hit (entryOf la fc2 0 e))
  else .ok e (loadAtc c d.2 instr la hit (entryOf la fc2 d.1 e))

/-- The table search: walk, then load the ATC (R247). A push of a dirty line that its locked access forced and that was bus
errored is taken at once, as any other (22_caches_bus R342), and the search has no result. -/
def tableSearch (c : Control) (m : MemSys) (instr : Bool) (la : Long) (fc2 wr : Bool) (hit : Option Nat) :
    PRes SearchEnd :=
  match tableWalk c m instr la fc2 wr with
  | .ok e m => searchEnd c m instr la fc2 hit e
  | .err .bus m => searchEnd c m instr la fc2 hit .busError
  | .err (.push p) m => .err (.push p) m

/-! ### Translation (R221) -/

/-- The result of a translation: physical address and cache mode, an ATC fault, or a push that its search forced and that
was bus errored. -/
inductive Trans where
  | ok (pa : Long) (cm : BitVec 2) (m : MemSys)
  | fault (m : MemSys)
  | push (p : PushFault) (m : MemSys)

/-- Go on after a table search. -/
def Trans.after (r : PRes SearchEnd) (k : MemSys → Trans) : Trans :=
  match r with
  | .ok _ m => k m
  | .err (.push p) m => .push p m
  | .err .bus m => .fault m

/-- The physical address of a hit (R234). -/
def AtcEntry.phys (c : Control) (e : AtcEntry) (la : Long) : Long :=
  if c.eightK then e.pa.extractLsb' 1 19 ++ la.extractLsb' 0 13 else e.pa ++ la.extractLsb' 0 12

/-- The checks on an entry (R232): resident, not write protected for a write, M set for a write. -/
def useEntry (c : Control) (m : MemSys) (la : Long) (wr : Bool) (e : AtcEntry) : Trans :=
  if !e.r || (wr && e.w) then .fault m else .ok (e.phys c la) e.cm m

/-- Translate a logical address for a unit (R221). `wr`: a write, or any access of a locked sequence (R236). -/
def translate (c : Control) (m : MemSys) (instr : Bool) (la : Long) (fc2 wr : Bool) : Trans :=
  match ttrMatch c instr la fc2 with
  | some t => if wr && t.getLsbD 2 then .fault m else .ok la (t.extractLsb' 5 2) m
  | none =>
    if !c.paging m then .ok la 0 m
    else
      match atcLookup c m instr la fc2 with
      | (some (key, e), m) =>
        if e.r && wr && !e.w && !e.m then
          .after (tableSearch c m instr la fc2 wr (some key)) fun m =>
            match tabGet (m.atc instr) key with
            | some e => useEntry c m la wr e
            | none => .fault m
        else useEntry c m la wr e
      | (none, m) =>
        .after (tableSearch c m instr la fc2 wr none) fun m =>
          match atcLookup c m instr la fc2 with
          | (some (_, e), m) => useEntry c m la wr e
          | (none, m) => .fault m

/-! ### Flushing and PTEST (R260, R262, R263) -/

/-- PFLUSHA and PFLUSHAN: every entry, or every nonglobal one. -/
def flushAll (m : MemSys) (nonglobal : Bool) : MemSys :=
  let kept (l : List (Nat × AtcEntry)) : List (Nat × AtcEntry) := if nonglobal then l.filter (·.2.g) else []
  { m with iatc := kept m.iatc, datc := kept m.datc }

/-- PFLUSH (An) and PFLUSHN (An): the entries of both ATCs for a logical address and privilege. -/
def flushAddr (c : Control) (m : MemSys) (la : Long) (fc2 nonglobal : Bool) : MemSys :=
  let hit (x : Nat × AtcEntry) : Bool :=
    x.1 / 4 == atcSet c la && x.2.matches c la fc2 && !(nonglobal && x.2.g)
  { m with iatc := m.iatc.filter fun x => !hit x, datc := m.datc.filter fun x => !hit x }

/-- The MMUSR of a search (R263; D9 for an invalid descriptor). -/
def mmusrOf : SearchEnd → Long
  | .page pd wp =>
    pd.extractLsb' 12 20 ++ 0#1 ++ pd.extractLsb' 4 7 ++ 0#1 ++ BitVec.ofBool wp ++ 0b01#2
  | .invalid wp => if wp then 4 else 0
  | .busError => 0x800

/-- PTEST: the new MMUSR and the memory system after the search (R262, D10). R262 invalidates the entry that matches; that
all of several entries that match are invalidated (93 U13) is the model's choice (log 27). -/
def ptest (c : Control) (m : MemSys) (la : Long) (wr : Bool) : PRes Long :=
  let fc2 := c.dfc.getLsbD 2
  let instr := c.dfc == 2 || c.dfc == 6
  if (ttrMatch c true la fc2).isSome || (ttrMatch c false la fc2).isSome then .ok 3 m
  else
    let m := (atcHits c m instr la fc2).foldl (fun m k => m.setAtc instr (tabDel (m.atc instr) k)) m
    (tableSearch c m instr la fc2 wr none).bind fun e m => .ok (mmusrOf e) m

end Sys2Proof.Machine
end

