-- ==== Sys2Proof/Machine/Access.lean ====
section
/-! DEFINITION. Data and instruction accesses at logical addresses: translation once per page (21_mmu R231), then
the cache and the bus; what an access fault records of the access (60_exceptions R1097). -/

namespace Sys2Proof.Machine

/-- What a faulted access leaves for the special status word and the fault address (R1097, R1098). -/
structure AccessFault where
  fa : Long
  atc : Bool
  ma : Bool
  lk : Bool
  read : Bool
  size : BitVec 2
  tt : BitVec 2
  tm : BitVec 3
  /-- The push that was bus errored, where the fault is one (R1099). -/
  push : Option PushFault
deriving DecidableEq, Repr

/-- The result of a logical access. -/
inductive MRes (α : Type) where
  | ok (a : α) (m : MemSys)
  | fail (f : AccessFault) (m : MemSys)

/-- Sequencing of logical accesses. -/
def MRes.bind {α β : Type} (r : MRes α) (k : α → MemSys → MRes β) : MRes β :=
  match r with
  | .ok a m => k a m
  | .fail f m => .fail f m

/-- The privilege bit FC2 of an access (20_memory R160). -/
def Access.fc2 (a : Access) : Bool := a.tm.getLsbD 2

/-- The fault of an access to the operand of `n` bytes at `fa`. -/
def Access.fault (a : Access) (fa : Long) (n : Nat) (read atc ma : Bool) : AccessFault :=
  ⟨fa, atc, ma, a.locked, read, sizeCode n, a.tt, a.tm, none⟩

/-- The fault of a bus-errored push (R1099). -/
def PushFault.fault (p : PushFault) : AccessFault :=
  ⟨p.addr, false, false, p.locked, false, if p.line then 3 else 0, 0, 0, some p⟩

/-- A failed physical access as a fault of the operand of `n` bytes at `fa`. -/
def PhysFault.toFault (f : PhysFault) (a : Access) (fa : Long) (n : Nat) (read : Bool) : AccessFault :=
  match f with
  | .bus => a.fault fa n read false false
  | .push p => p.fault

/-- The size of a page (R69). -/
def Control.pageSize (c : Control) : Nat := if c.eightK then 8192 else 4096

/-- How many of `n` bytes at `la` lie in its page. -/
def pageRoom (c : Control) (la : Long) (n : Nat) : Nat := min n (c.pageSize - la.toNat % c.pageSize)

/-- Read an alternate space: untranslated; every data-cache line that matches is pushed and invalidated (R163,
22_caches_bus R333). -/
def altRead (c : Control) (m : MemSys) (a : Access) (la : Long) (n : Nat) : MRes (List Byte) :=
  match physRead c m a la 0 n with
  | .ok bs m => .ok bs m
  | .err f m => .fail (f.toFault a la n true) m

/-- Write an alternate space (R163). -/
def altWrite (c : Control) (m : MemSys) (a : Access) (la : Long) (bs : List Byte) : MRes Unit :=
  match physWrite c m a la 0 bs with
  | .ok _ m => .ok () m
  | .err f m => .fail (f.toFault a la bs.length false) m

/-- A read of a page of cache mode `cm` has been made: of a serialized one (cache mode 10) the instruction in progress keeps
that (20_memory R191). -/
def MemSys.readMade (m : MemSys) (cm : BitVec 2) : MemSys := { m with serialized := m.serialized || cm == 2 }

/-- Read the part of an operand that lies in one page; `fa` and `total` describe the whole operand, `second` says
the part is in its second page. -/
def pageRead (c : Control) (m : MemSys) (a : Access) (fa : Long) (total : Nat) (second : Bool) (la : Long) (n : Nat) :
    MRes (List Byte) :=
  match translate c m false la a.fc2 a.locked with
  | .fault m => .fail (a.fault fa total true true second) m
  | .push p m => .fail p.fault m
  | .ok pa cm m =>
    match physRead c m a pa cm n with
    | .ok bs m => .ok bs (m.readMade cm)
    | .err f m => .fail (f.toFault a fa total true) m

/-- Write the part of an operand that lies in one page. -/
def pageWrite (c : Control) (m : MemSys) (a : Access) (fa : Long) (total : Nat) (second : Bool) (la : Long)
    (bs : List Byte) : MRes Unit :=
  match translate c m false la a.fc2 true with
  | .fault m => .fail (a.fault fa total false true second) m
  | .push p m => .fail p.fault m
  | .ok pa cm m =>
    match physWrite c m a pa cm bs with
    | .ok _ m => .ok () m
    | .err f m => .fail (f.toFault a fa total false) m

/-- Check every page of a locked operand as written before anything is read (R236): where its bytes in each line begin. -/
def lockedCheck (c : Control) (m : MemSys) (a : Access) (la : Long) (n : Nat) : MRes (List Long) :=
  match translate c m false la a.fc2 true with
  | .fault m => .fail (a.fault la n true true false) m
  | .push p m => .fail p.fault m
  | .ok pa _ m =>
    let k := pageRoom c la n
    if k = n then .ok (lineParts pa n) m
    else
      match translate c m.betweenHalves false (la + BitVec.ofNat 32 k) a.fc2 true with
      | .fault m => .fail (a.fault la n true true true) m
      | .push p m => .fail p.fault m
      | .ok pb _ m => .ok (lineParts pa k ++ lineParts pb (n - k)) m

/-- Check the operands of a locked sequence, each an address and a number of bytes. -/
def lockedChecks (c : Control) (a : Access) : MemSys → List (Long × Nat) → MRes (List Long)
  | m, [] => .ok [] m
  | m, (la, n) :: r =>
    (lockedCheck c m a la n).bind fun x m => (lockedChecks c a m r).bind fun y m => .ok (x ++ y) m

/-- The lines of the data cache that a locked sequence hits are pushed, if dirty, and invalidated, all of them before its first
read (20_memory R176, R193, 22_caches_bus R368). Their order among themselves, from the first operand's up, is DESIGN CHOICE
(log 62). -/
def lockedPush (c : Control) (a : Access) : MemSys → List Long → MRes Unit
  | m, [] => .ok () m
  | m, pa :: r =>
    if !c.dcacheOn m then lockedPush c a m r
    else
      match evictMatch m pa true with
      | .ok _ m => lockedPush c a m r
      | .err f m => .fail (f.toFault a pa 1 true) m

/-- How a locked sequence on some operands begins: the check of all of them, then the pushes they force. -/
def lockedBegin (c : Control) (m : MemSys) (a : Access) (l : List (Long × Nat)) : MRes Unit :=
  (lockedChecks c a m l).bind fun lines m => lockedPush c a m.beginLocked lines

/-- Read an operand of `n` bytes (00_scope R15 `MemRead`). With two pages the part in the first one is read, with its bus cycles
and its line fill, before the second page is translated, also where that faults; 21_mmu R231 speaks of writes only: DESIGN
CHOICE (log 61). -/
def dataRead (c : Control) (m : MemSys) (a : Access) (la : Long) (n : Nat) : MRes (List Byte) :=
  if a.tt = 2 then altRead c m a la n
  else
    let k := pageRoom c la n
    if k = n then pageRead c m a la n false la n
    else
      (pageRead c m a la n false la k).bind fun x m =>
        (pageRead c m.betweenHalves a la n true (la + BitVec.ofNat 32 k) (n - k)).bind fun y m => .ok (x ++ y) m

/-- Write an operand (00_scope R15 `MemWrite`). With two pages the part in the first one is written before the second page is
translated, and stays written where that faults; 21_mmu R231 says that it may have been written: DESIGN CHOICE (log 61). -/
def dataWrite (c : Control) (m : MemSys) (a : Access) (la : Long) (bs : List Byte) : MRes Unit :=
  if a.tt = 2 then altWrite c m a la bs
  else
    let k := pageRoom c la bs.length
    if k = bs.length then pageWrite c m a la bs.length false la bs
    else
      (pageWrite c m a la bs.length false la (bs.take k)).bind fun _ m =>
        pageWrite c m.betweenHalves a la bs.length true (la + BitVec.ofNat 32 k) (bs.drop k)

/-! ### Instruction fetch and prefetch (R89, 60_exceptions R1092) -/

/-- The fault of a fetch as R1103 reports it: the long word's address, RW = 1, TM = 2 or 6. -/
def fetchFaultOf (super : Bool) (la : Long) (atc : Bool) : AccessFault :=
  ⟨la &&& 0xFFFFFFFC, atc, false, false, true, 0, 0, fetchMode super, none⟩

/-- `n` bytes at a logical address from the instruction memory unit, with their physical address. -/
def fetchBytes (c : Control) (m : MemSys) (super : Bool) (la : Long) (n : Nat) : MRes (Long × List Byte) :=
  match translate c m true la super false with
  | .fault m => .fail (fetchFaultOf super la true) m
  | .push p m => .fail p.fault m
  | .ok pa cm m =>
    match fetchPiece c m super pa cm n with
    | .ok bs m => .ok (pa, bs) m
    | .err _ m => .fail (fetchFaultOf super la false) m

/-- The word that an instruction takes of the bytes fetched at `pa`. -/
def takeWord (m : MemSys) (pa : Long) (bs : List Byte) : MRes Word :=
  let p := prefetchChoice m pa bs
  .ok ((ofBytes p.1).extractLsb' 0 16) p.2

/-- What the pipeline holds for a logical address. -/
def MemSys.piped (m : MemSys) (la : Long) : Option Prefetched := (m.pipe.find? (·.la == la)).map (·.content)

/-- The pipeline gives up the word at a logical address. -/
def MemSys.unpipe (m : MemSys) (la : Long) : MemSys := { m with pipe := m.pipe.filter (·.la ≠ la) }

/-- Fetch one instruction word at an even logical address (00_scope R15 `Fetch16`): from the pipeline, whose mark of a fault
is a fault now that the word is needed, else from the instruction memory unit. -/
def fetchWord (c : Control) (m : MemSys) (super : Bool) (la : Long) : MRes Word :=
  match m.piped la with
  | some (.word pa bs) => takeWord (m.unpipe la) pa bs
  | some (.fault atc) => .fail (fetchFaultOf super la atc) (m.unpipe la)
  | none => (fetchBytes c m super la 2).bind fun x m => takeWord m x.1 x.2

/-- Prefetch the long word that holds `la`: the pipeline takes its two words, or the mark of a fault, unless they are on the
path of a branch that is not gone. The fault of a push that the translation forced is no prefetch fault and waits to be
reported. -/
def prefetch (c : Control) (m : MemSys) (super : Bool) (la : Long) (other : Bool) : MemSys :=
  let la := la &&& 0xFFFFFFFC
  let hold (m : MemSys) (x y : Prefetched) : MemSys :=
    if other then m else { m with pipe := ((m.unpipe la).unpipe (la + 2)).pipe ++ [⟨la, x⟩, ⟨la + 2, y⟩] }
  match fetchBytes c m super la 4 with
  | .ok (pa, bs) m => hold m (.word pa (bs.take 2)) (.word (pa + 2) (bs.drop 2))
  | .fail f m =>
    match f.push with
    | some p => m.queuePush p
    | none => hold m (.fault f.atc) (.fault f.atc)

/-- Prefetch `k` long words in a row, from the one that holds `la` up, until RSTI strikes or a push error waits to be
reported. -/
def prefetchRow (c : Control) (super : Bool) : Nat → MemSys → Long → MemSys
  | 0, m, _ => m
  | k + 1, m, la =>
    if m.struck.isSome || !m.pushFaults.isEmpty then m
    else prefetchRow c super k (prefetch c m super la false) (la + 4)

end Sys2Proof.Machine
end

