-- ==== Sys2Proof/Machine/Ops.lean ====
section
/-! DEFINITION. The operations every meaning is built from: registers, the status register, memory as an
instruction sees it, taking an exception (60_exceptions R1075), and completing or aborting an instruction (R1096,
R1102). -/

namespace Sys2Proof.Machine

/-- What a step or an instruction answers. -/
abbrev Out := Host.Outcome State Fault Refusal

/-! ### Registers (R51 to R56) -/

/-- Register `n` of a bank. -/
def Bank.get {α : Type} (b : Bank α) (n : BitVec 3) : α :=
  match n.toNat with
  | 0 => b.r0 | 1 => b.r1 | 2 => b.r2 | 3 => b.r3 | 4 => b.r4 | 5 => b.r5 | 6 => b.r6 | _ => b.r7

/-- Write register `n` of a bank. -/
def Bank.set {α : Type} (b : Bank α) (n : BitVec 3) (v : α) : Bank α :=
  match n.toNat with
  | 0 => { b with r0 := v } | 1 => { b with r1 := v } | 2 => { b with r2 := v } | 3 => { b with r3 := v }
  | 4 => { b with r4 := v } | 5 => { b with r5 := v } | 6 => { b with r6 := v } | _ => { b with r7 := v }

/-- SR.S (R60). -/
def supervisor (sr : Word) : Bool := sr.getLsbD 13

/-- SR.M (R60). -/
def master (sr : Word) : Bool := sr.getLsbD 12

/-- A0 to A6, or the stack pointer that the status register selects as A7 (R56). -/
def AddrRegs.get (a : AddrRegs) (sr : Word) (n : BitVec 3) : Long :=
  match n.toNat with
  | 0 => a.a0 | 1 => a.a1 | 2 => a.a2 | 3 => a.a3 | 4 => a.a4 | 5 => a.a5 | 6 => a.a6
  | _ => if !supervisor sr then a.usp else if master sr then a.msp else a.isp

/-- Write A0 to A6, or the selected stack pointer (R56). -/
def AddrRegs.set (a : AddrRegs) (sr : Word) (n : BitVec 3) (v : Long) : AddrRegs :=
  match n.toNat with
  | 0 => { a with a0 := v } | 1 => { a with a1 := v } | 2 => { a with a2 := v } | 3 => { a with a3 := v }
  | 4 => { a with a4 := v } | 5 => { a with a5 := v } | 6 => { a with a6 := v }
  | _ => if !supervisor sr then { a with usp := v } else if master sr then { a with msp := v } else { a with isp := v }

/-- `D[n]`. -/
def State.getD (s : State) (n : BitVec 3) : Long := s.d.get n

/-- `D[n] <- v`, all 32 bits. -/
def State.setD (s : State) (n : BitVec 3) (v : Long) : State := { s with d := s.d.set n v }

/-- `A[n]`, with A7 the active stack pointer (R56). -/
def State.getA (s : State) (n : BitVec 3) : Long := s.a.get s.sr n

/-- `A[n] <- v`. -/
def State.setA (s : State) (n : BitVec 3) (v : Long) : State := { s with a := s.a.set s.sr n v }

/-- `R[n]`: D0-D7 are 0 to 7, A0-A7 are 8 to 15. -/
def State.getR (s : State) (n : BitVec 4) : Long :=
  if n.getLsbD 3 then s.getA (n.extractLsb' 0 3) else s.getD (n.extractLsb' 0 3)

/-- `R[n] <- v`. -/
def State.setR (s : State) (n : BitVec 4) (v : Long) : State :=
  if n.getLsbD 3 then s.setA (n.extractLsb' 0 3) v else s.setD (n.extractLsb' 0 3) v

/-- The bits of the SR that exist (R60). -/
def srMask : Word := 0xF71F

/-- `SR <- v`; undefined bits stay zero (R60). -/
def State.setSr (s : State) (v : Word) : State := { s with sr := v &&& srMask }

/-- `CCR <- v`: the low five bits (R60). -/
def State.setCcr (s : State) (v : Word) : State := { s with sr := s.sr.extractLsb' 8 8 ++ 0#3 ++ v.extractLsb' 0 5 }

/-- SR.S of a state. -/
def State.super (s : State) : Bool := supervisor s.sr

/-- The address of the word `n` words after the operation word. -/
def State.after (s : State) (n : Nat) : Long := s.pc + BitVec.ofNat 32 (2 * n)

/-! ### Memory as an instruction sees it -/

/-- The result of an access made by an instruction. -/
inductive Res (α : Type) where
  | ok (a : α) (s : State)
  | fail (f : AccessFault) (s : State)

/-- Sequencing of an instruction's accesses. -/
def Res.bind {α β : Type} (r : Res α) (k : α → State → Res β) : Res β :=
  match r with
  | .ok a s => k a s
  | .fail f s => .fail f s

/-- An access of the memory system as one of the state. -/
def State.lift {α : Type} (s : State) (r : MRes α) : Res α :=
  match r with
  | .ok a m => .ok a { s with mem := m }
  | .fail f m => .fail f { s with mem := m }

/-- An ordinary operand access at the privilege of the SR (20_memory R160). -/
def State.access (s : State) : Access := ⟨0, if s.super then 5 else 1, false, true, none⟩

/-- The locked access of TAS, CAS and CAS2 (20_memory R176). -/
def State.lockedAccess (s : State) : Access := ⟨0, if s.super then 5 else 1, true, true, none⟩

/-- A MOVE16 line access (20_memory R160), `low` being A1 and A0 of the operand address. -/
def State.lineAccess (s : State) (low : BitVec 2) : Access := ⟨1, if s.super then 5 else 1, false, true, some low⟩

/-- The access of a MOVES with function code `fc` (20_memory R163). -/
def movesAccess (fc : BitVec 3) : Access :=
  if fc = 1 ∨ fc = 2 then ⟨0, 1, false, true, none⟩
  else if fc = 5 ∨ fc = 6 then ⟨0, 5, false, true, none⟩
  else ⟨2, fc, false, true, none⟩

/-- Exception stacking, vector fetches and RTE's frame reads: supervisor data, not allocating (22_caches_bus R335). -/
def frameAccess : Access := ⟨0, 5, false, false, none⟩

/-- Read an operand of 1, 2 or 4 bytes, zero-extended. -/
def State.readVia (s : State) (a : Access) (la : Long) (n : Nat) : Res Long :=
  (s.lift (dataRead s.ctl s.mem a la n)).bind fun bs s => .ok (ofBytes bs) s

/-- `MemRead(la, n)`. -/
def State.read (s : State) (la : Long) (n : Nat) : Res Long := s.readVia s.access la n

/-- A locked read (20_memory R176), made after `State.beginLocked`. -/
def State.readLocked (s : State) (la : Long) (n : Nat) : Res Long := s.readVia s.lockedAccess la n

/-- What comes before the reads of a locked sequence on some operands, each an address and a number of bytes: the check of
them (21_mmu R236) and the pushes they force (20_memory R193). -/
def State.beginLocked (s : State) (l : List (Long × Nat)) : Res Unit := s.lift (lockedBegin s.ctl s.mem s.lockedAccess l)

/-- A write an instruction makes: address, bytes, and the attributes of the access. -/
structure Write where
  addr : Long
  bytes : List Byte
  acc : Access
deriving DecidableEq, Repr

/-- `MemWrite(la, n, v)` as a write still to be made. -/
def State.writeOf (s : State) (la : Long) (n : Nat) (v : Long) : Write := ⟨la, toBytes v n, s.access⟩

/-- Make one write. -/
def State.write (s : State) (w : Write) : Res Unit := s.lift (dataWrite s.ctl s.mem w.acc w.addr w.bytes)

/-- The result of making an instruction's writes in order: all made, or one faulted with those not made. -/
inductive Written where
  | all (s : State)
  | fault (f : AccessFault) (w : Write) (rest : List Write) (s : State)

/-- Make writes in order. -/
def writeAll : State → List Write → Written
  | s, [] => .all s
  | s, w :: ws =>
    match s.write w with
    | .ok _ s => writeAll s ws
    | .fail f s => .fault f w ws s

/-- The state in which an instruction, or the processing of an exception, begins: no serialized page has been read yet
(20_memory R191; log 65). -/
def State.started (s : State) : State := { s with mem := { s.mem with serialized := false } }

/-! ### Taking an exception (60_exceptions R1075 to R1082) -/

/-- A field of a stack frame: its offset, its size in bytes, its value. -/
structure Field where
  off : Nat
  size : Nat
  value : Long

/-- Write the fields of a frame at `base`. RSTI aborts exception processing (R1140): after it has struck no field is
written any more. -/
def writeFields (s : State) (base : Long) : List Field → Res Unit
  | [] => .ok () s
  | f :: fs =>
    if s.mem.struck.isSome then .fail (frameAccess.fault base 4 false false false) s
    else (s.write ⟨base + BitVec.ofNat 32 f.off, toBytes f.value f.size, frameAccess⟩).bind fun _ s =>
      writeFields s base fs

/-- The size of a frame of a format (R1080 to R1082, R1100). -/
def frameSize (format : BitVec 4) : Nat :=
  if format = 2 ∨ format = 3 then 12 else if format = 7 then 60 else 8

/-- The first four words of every frame (R1080). -/
def frameHead (sr : Word) (spc : Long) (format : BitVec 4) (vector : BitVec 8) : List Field :=
  [⟨0, 2, sr.zeroExtend 32⟩, ⟨2, 4, spc⟩,
   ⟨6, 2, ((format ++ 0#2 ++ vector ++ 0#2 : Word)).zeroExtend 32⟩]

/-- Step 1 of R1075: supervisor state, tracing off. -/
def enterSupervisor (sr : Word) : Word := (sr ||| 0x2000) &&& 0x3FFF

/-- The halted state after a double bus fault (R1090). -/
def State.halt (s : State) : State := { s with run := .halted }

/-- Push a frame on the stack that A7 names (R1077). -/
def pushFrame (s : State) (sr : Word) (spc : Long) (format : BitVec 4) (vector : BitVec 8) (extra : List Field) :
    Res Unit :=
  let s := s.setA 7 (s.getA 7 - BitVec.ofNat 32 (frameSize format))
  writeFields s (s.getA 7) (frameHead sr spc format vector ++ extra)

/-- The state with the first `n` instruction words at the pc taken from the pipeline (R89). -/
def State.taken (s : State) (n : Nat) : State :=
  { s with mem := (List.range n).foldl (fun m k => m.unpipe (s.after k)) s.mem }

/-- Whatever refills the instruction pipeline discards the words it held (R89, 20_memory R195). -/
def State.refill (s : State) : State := { s with mem := s.mem.refill }

/-- The refill that ends exception processing: the first four long words at the pc are prefetched (10_state R89, R1075 step 4,
70_reset_and_hazards R1301 step 10), from the long word that holds the pc up (91_not_in_source N13; log 7). -/
def State.fillPipe (s : State) : State :=
  { s with mem := prefetchRow s.ctl s.super 4 s.mem.refill s.pc }

/-- Step 4 of R1075: the vector becomes the pc and the pipeline is refilled; a fault of the vector read or an odd vector
halts the processor (R1090, D32). -/
def enterVector (s : State) (vector : BitVec 8) : State :=
  match s.readVia frameAccess (s.ctl.vbr + 4 * vector.zeroExtend 32) 4 with
  | .fail _ s => s.halt
  | .ok v s =>
    if v.getLsbD 0 then { s with pc := v }.halt
    else { s with pc := v, trace := none, movemEa := none, run := .normal }.fillPipe

/-- `ExceptionEntry` (R1075) for every exception but reset and interrupts: the status register is saved in the
frame with `spc`, supervisor state is entered with tracing off, and the vector becomes the pc. A fault while
stacking halts the processor (R1090). -/
def takeException (s : State) (vector : BitVec 8) (format : BitVec 4) (spc : Long) (extra : List Field) : State :=
  match pushFrame { s.started with sr := enterSupervisor s.sr } s.sr spc format vector extra with
  | .fail _ s => s.halt
  | .ok _ s => enterVector s vector

/-- An exception with a format $0 frame. -/
def trap0 (s : State) (vector : BitVec 8) (spc : Long) : State := takeException s vector 0 spc []

/-- An exception with a format $2 frame, whose extra long word is `addr` (R1081). -/
def trap2 (s : State) (vector : BitVec 8) (spc addr : Long) : State := takeException s vector 2 spc [⟨8, 4, addr⟩]

/-- An exception with a format $3 frame (R1082). -/
def trap3 (s : State) (vector : BitVec 8) (spc ea : Long) : State := takeException s vector 3 spc [⟨8, 4, ea⟩]

/-- Illegal instruction (R1116). -/
def illegalInstruction (s : State) : State := trap0 s 4 s.pc

/-- Unimplemented A-line opcode (R1116). -/
def alineInstruction (s : State) : State := trap0 s 10 s.pc

/-- Unimplemented F-line opcode (R1116). -/
def flineInstruction (s : State) : State := trap0 s 11 s.pc

/-- Privilege violation (R1120). -/
def privilegeViolation (s : State) : State := trap0 s 8 s.pc

/-- Address error: the instruction at `pc` named the odd address `target` (R1110). -/
def addressError (s : State) (pc target : Long) : State := trap2 s 3 pc (target &&& 0xFFFFFFFE)

/-- `require supervisor` (R961): in user state the privilege violation comes before any other effect. -/
def ifSupervisor (s : State) (body : Out) : Out := if s.super then body else .next (privilegeViolation s)

/-! ### The access fault (R1091 to R1105) -/

/-- What a format $7 frame says beyond the faulted access: the continuation bit set, if one is, with its
effective address; and the write-backs. -/
structure FaultInfo where
  /-- CP, CU, CT, CM in bits 3 to 0. -/
  cont : BitVec 4
  ea : Long
  /-- SSW.CT where CP or CU makes it undefined (U31). -/
  ctFree : Bool
  writes : List Write

/-- No continuation, no write-backs. -/
def FaultInfo.none : FaultInfo := ⟨0, 0, false, []⟩

/-- Free long words number 0 to `k - 1`, and memory with the counter advanced. -/
def MemSys.drawLongs (m : MemSys) (k : Nat) : List Long × MemSys :=
  ((List.range k).map fun i => Config.freeValue 32 (m.draws + i), { m with draws := m.draws + k })

/-- The special status word (R1097); bit 7 is undefined. -/
def sswOf (f : AccessFault) (i : FaultInfo) (free : Long) : Word :=
  let cont := if i.ctFree then i.cont ||| (free.extractLsb' 1 1).zeroExtend 4 <<< 1 else i.cont
  cont ++ BitVec.ofBool f.ma ++ BitVec.ofBool f.atc ++ BitVec.ofBool f.lk ++ BitVec.ofBool f.read ++
    free.extractLsb' 0 1 ++ f.size ++ f.tt ++ f.tm

/-- The status byte of a valid write-back (R1098). -/
def wbStatus (w : Write) : Long :=
  ((1#1 ++ sizeCode w.bytes.length ++ w.acc.tt ++ w.acc.tm : BitVec 8)).zeroExtend 32

/-- WB1D: the operand on the byte lanes of its address, the other lanes undefined (Table 9-7 in R1098). -/
def wb1Data (w : Write) (free : Long) : Long :=
  let n := w.bytes.length
  let left := (ofBytes w.bytes <<< (8 * (4 - n))) ||| (if n < 4 then free >>> (8 * n) else 0)
  left.rotateRight (8 * (w.addr.toNat % 4))

/-- WB2D and WB3D: the operand in the low bytes, the others undefined (R1098). -/
def wbData (w : Write) (free : Long) : Long := ofBytes w.bytes ||| (free <<< (8 * w.bytes.length))

/-- Whether the fault is one of an instruction fetch: its TM names program space (R1103). -/
def AccessFault.isFetch (f : AccessFault) : Bool := f.read && f.tt == 0 && (f.tm == 2 || f.tm == 6)

/-- The status byte of write-back `k + 1` where it is not pending: V is clear and the other bits are undefined (R1098), but
that WB1S is zero for a read, a push and a MOVE16 (R1096, R1098 to R1100) and all three are for a fetch (R1103). -/
def AccessFault.idleStatus (f : AccessFault) (k : Nat) (free : Long) : Long :=
  if f.isFetch || (k == 0 && (f.read || f.push.isSome || f.tt == 1)) then 0 else free &&& 0x7F

/-- The writes that the write-backs of a frame show, the first one as number 0: a push shows them from write-back 2 on
(R1099), a MOVE16 shows its line as push data instead (R1100). -/
def AccessFault.writeBack (f : AccessFault) (ws : List Write) (k : Nat) : Option Write :=
  if f.push.isSome then (if k = 0 then none else ws[k - 1]?) else if f.tt = 1 ∧ !f.read then none else ws[k]?

/-- The fields of a format $7 frame after the first four words (R1100). -/
def faultFields (f : AccessFault) (i : FaultInfo) (free : List Long) : List Field :=
  let v (k : Nat) : Long := free.getD k 0
  let line : Option (BitVec 128) :=
    match f.push with
    | some p => some p.data
    | Option.none => if f.tt = 1 ∧ !f.read then (i.writes.head?).map fun w => lineOfBytes w.bytes else Option.none
  let wb (k : Nat) : Option Write := f.writeBack i.writes k
  let status (k : Nat) : Long := ((wb k).map wbStatus).getD (f.idleStatus k (v (11 + k)))
  let addr (k : Nat) : Long := ((wb k).map (·.addr)).getD (v (2 + k))
  let data (k : Nat) : Long := ((wb k).map fun w => wbData w (v (5 + k))).getD (v (5 + k))
  let pd (k : Nat) : Option Long := line.map fun l => l.extractLsb' (32 * (3 - k)) 32
  let wholeLine := match f.push with | some p => p.line | Option.none => line.isSome
  [⟨0x08, 4, if i.cont = 0 then v 0 else i.ea⟩,
   ⟨0x0C, 2, (sswOf f i (v 1)).zeroExtend 32⟩,
   ⟨0x0E, 2, status 2⟩, ⟨0x10, 2, status 1⟩, ⟨0x12, 2, status 0⟩,
   ⟨0x14, 4, f.fa⟩,
   ⟨0x18, 4, addr 2⟩, ⟨0x1C, 4, data 2⟩, ⟨0x20, 4, addr 1⟩, ⟨0x24, 4, data 1⟩,
   ⟨0x28, 4, if line.isSome then (if f.push.isSome then f.fa else v 2) else addr 0⟩,
   ⟨0x2C, 4, (pd 0).getD (((wb 0).map fun w => wb1Data w (v 5)).getD (v 5))⟩,
   ⟨0x30, 4, if wholeLine then (pd 1).getD (v 8) else v 8⟩,
   ⟨0x34, 4, if wholeLine then (pd 2).getD (v 9) else v 9⟩,
   ⟨0x38, 4, if wholeLine then (pd 3).getD (v 10) else v 10⟩]

/-- Take the access fault (vector 2, format $7) with stacked PC `spc`. -/
def accessError (s : State) (f : AccessFault) (i : FaultInfo) (spc : Long) : State :=
  let (free, m) := s.mem.drawLongs 14
  takeException { s with mem := m } 2 7 spc (faultFields f i free)

/-! ### Completing and aborting an instruction -/

/-- Give an instruction up: a bus-errored push waits and is reported before it, and the instruction is restarted after the
handler (R1140, R1141; log 20). -/
def restart (s0 : State) (m : MemSys) : Out := .next { s0 with mem := m }

/-- Whether an instruction with an exception of its own is given up for a bus-errored push that waits: not once it has read a
serialized page, which is not to be repeated (20_memory R191; log 65). -/
def MemSys.givesUp (m : MemSys) : Bool := !m.pushFaults.isEmpty && !m.serialized

/-- Abort: every register as before the instruction, memory effects stay (R1102); the frame names the instruction
itself (R1096). `s` is the state at the fault, `s0` the state before the instruction. A bus-errored replacement push of the
instruction is taken first, and this fault comes again when the instruction is restarted (22_caches_bus R342, R1141;
log 20), unless it has read a serialized page. -/
def abort (s0 s : State) (f : AccessFault) : Out :=
  if s.mem.givesUp then restart s0 s.mem
  else .next (accessError { s0 with mem := s.mem } f FaultInfo.none s0.pc)

/-- Run the reads of an instruction and go on, or abort it at the first that faults. -/
def orAbort {α : Type} (s0 : State) (r : Res α) (k : α → State → Out) : Out :=
  match r with
  | .ok a s => k a s
  | .fail f s => abort s0 s f

/-- Whether an instruction that starts with status `sr` is traced (R1072, R1125); for T1 T0 = 11 a free value says
which of the three modes holds (U1). -/
def traced (sr : Word) (m : MemSys) (flow : Bool) : Bool :=
  match sr.getLsbD 15, sr.getLsbD 14 with
  | false, false => false
  | false, true => flow
  | true, false => true
  | true, true =>
    let b : BitVec 2 := Config.freeValue 2 m.draws
    if b = 0 then false else if b = 1 then flow else true

/-- The address of the instruction, of state `s0`, is left in the state `s` after it if a trace follows it (R1072). -/
def State.settleTrace (s0 s : State) (flow : Bool) : State :=
  { s with
    trace := if traced s0.sr s.mem flow then some s0.pc else none
    mem := if s0.sr.extractLsb' 14 2 = 3 then { s.mem with draws := s.mem.draws + 1 } else s.mem }

/-- The end of a completed instruction: an odd pc is an address error (R1110), else the next instruction follows with its
trace pending (R1072). `s0` is the state before the instruction, `s` the state after it; `flow` says whether it
changed the flow of control (D29); `ea` is the `movem_ea` an RTE leaves for the next instruction (R1104). A
bus-errored replacement push that waits is reported before anything else, at the boundary (R1096; log 20). The pipeline is
refilled by what 10_state R89 names; an instruction of 48_system_control R960 that does none of this (the CCR forms, MOVE USP,
MOVES, RESET, a check or a trap not taken) keeps the words prefetched: DESIGN CHOICE (log 7). -/
def endInstrEa (s0 s : State) (flow : Bool) (ea : Option Long) : State :=
  let t := s0.settleTrace s flow
  if t.pc.getLsbD 0 && t.mem.pushFaults.isEmpty then addressError t s0.pc t.pc
  else
    let t := { t with movemEa := ea }
    if flow then t.refill else t

/-- The end of every instruction but RTE. -/
def endInstr (s0 s : State) (flow : Bool) : State := endInstrEa s0 s flow none

/-- Abort an instruction whose write `w` faulted: registers as before, the write as write-back 1 (R1096). -/
def abortWrite (s0 s : State) (f : AccessFault) (w : Write) : Out :=
  if s.mem.givesUp then restart s0 s.mem
  else .next (accessError { s0 with mem := s.mem } f
    { FaultInfo.none with writes := if f.push.isSome then [] else [w] } s0.pc)

/-- Whether an instruction is complete when one of its writes has faulted, `rest` being the writes after it (R1096): not
where the fault is a push that the write forced (R1096, last row), nor where the frame has no room for the writes: three
write-backs, with a push two (R1099; log 21). -/
def AccessFault.completes (f : AccessFault) (rest : List Write) (m : MemSys) : Bool :=
  match f.push with
  | none => decide (rest.length ≤ 2)
  | some _ => !m.pushFaults.isEmpty && decide (rest.length ≤ 1)

/-- The access error of an instruction that is complete but for the writes of `i`, the first of which met the fault `f`. A
bus-errored replacement push that waits is taken first, and its frame shows the writes as write-backs 2 and 3 (22_caches_bus
R342, R1099); where they do not fit there the write's own frame comes first and the push after it (log 20). -/
def writeFault (s : State) (f : AccessFault) (i : FaultInfo) : State :=
  match s.mem.pushFaults with
  | p :: _ =>
    if i.writes.length ≤ 2 ∧ f.tt ≠ 1 then accessError { s with mem := s.mem.pushReported } p.fault i s.pc
    else accessError s f i s.pc
  | [] => accessError s f i s.pc

/-- Complete an instruction: `s` is the state after every register change, with the pc of the next instruction;
the writes are made in order. A write that faults leaves the instruction complete, with the write and those after
it as write-backs of the frame (R1096), also where a replacement push waits; a fault that does not complete it aborts it. -/
def complete (s0 s : State) (ws : List Write) (flow : Bool) : Out :=
  match writeAll s ws with
  | .all s => .next (endInstr s0 s flow)
  | .fault f w rest s' =>
    if f.completes rest s'.mem then
      let t := s0.settleTrace s' flow
      .next (writeFault t f ⟨if t.trace.isSome then 2 else 0, s0.pc, false, w :: rest⟩)
    else abortWrite s0 s' f w

/-- As `complete`, for the instructions that every write fault aborts (R1096: FMOVEM of data registers, FSAVE). -/
def completeOrAbort (s0 s : State) (ws : List Write) (flow : Bool) : Out :=
  match writeAll s ws with
  | .all s => .next (endInstr s0 s flow)
  | .fault f w _ s' => abortWrite s0 s' f w

/-- Advance to the instruction `n` words on, with nothing to write. -/
def next (s0 s : State) (n : Nat) : Out := complete s0 { s with pc := s0.after n } [] false

/-- Advance to the instruction `n` words on after writing. -/
def nextWith (s0 s : State) (n : Nat) (ws : List Write) : Out :=
  complete s0 { s with pc := s0.after n } ws false

/-- Transfer control to `target` (R58). -/
def jump (s0 s : State) (target : Long) (ws : List Write) : Out := complete s0 { s with pc := target } ws true

/-- An exception of group 3 that an instruction raises: a bus-errored replacement push that waits comes first, and the
instruction is restarted after it (R1140, R1141; log 20); one that has read a serialized page is not restarted, and the push
is reported before the first instruction of its handler (20_memory R191; log 65). -/
def ownTrap (s0 s : State) (take : State → State) : Out :=
  if s.mem.givesUp then restart s0 s.mem else .next (take s)

/-- As `ownTrap`, for the instructions that complete by taking their trap: a trace of the instruction stays pending and
is taken before the first instruction of the handler (90_conflicts C43; log 17). -/
def tracedTrap (s0 s : State) (take : State → State) : Out :=
  ownTrap s0 s fun s => { take (s0.settleTrace s true) with trace := (s0.settleTrace s true).trace }

/-- A trap that an instruction of `n` words raises after its own effects: the frame names the next instruction and
this one (R1115). -/
def trapNext (s0 s : State) (vector : BitVec 8) (n : Nat) : Out :=
  tracedTrap s0 s fun s => trap2 s vector (s0.after n) s0.pc

/-- A free value of width `w` for an instruction, and the state with the counter advanced. -/
def State.draw (s : State) (w : Nat) : BitVec w × State :=
  ((s.mem.draw w).1, { s with mem := (s.mem.draw w).2 })

/-! ### Interrupts (R1131, R1132) -/

/-- Whether an interrupt is pending (R1131). -/
def State.interruptPending (s : State) : Bool :=
  decide ((s.sr.extractLsb' 8 3).toNat < s.ipl.toNat) || s.nmiLatch

/-- The level taken (R1131). -/
def State.interruptLevel (s : State) : BitVec 3 := if s.nmiLatch then 7 else s.ipl

/-- The vector the acknowledge cycle gives (R1132, 22_caches_bus R370). -/
def Iack.vectorFor (r : Iack) (level : BitVec 3) : BitVec 8 :=
  match r with
  | .vector v => v
  | .auto => 24 + level.zeroExtend 8
  | .spurious => 24

/-- The response of an acknowledge cycle that MEM answers (Table 8-7 in 22_caches_bus R370). A retry is run again until
MEM ends the cycle otherwise. -/
def Answer.response (a : Answer) : Iack :=
  if a.tea then .spurious else if a.avec then .auto else .vector (a.data.extractLsb' 0 8)

/-- Interrupt exception processing (R1132): the acknowledge cycle, the mask becomes the level, a frame goes on the active
supervisor stack, and from master state a throwaway frame on the interrupt stack. The response is that of MEM where the
cycle is in a window, else the one that came with the interrupt (log 9). -/
def takeInterrupt (s : State) : State :=
  let lvl := s.interruptLevel
  let ack := s.mem.acknowledge lvl 0xFFFFFFFF
  let v := ((ack.1.map Answer.response).getD s.iack).vectorFor lvl
  let s1 := { s with
    mem := ack.2
    sr := (enterSupervisor s.sr &&& 0xF8FF) ||| (lvl.zeroExtend 16 <<< 8)
    nmiLatch := s.nmiLatch && lvl != 7 }
  match pushFrame s1 s.sr s.pc 0 v [] with
  | .fail _ s => s.halt
  | .ok _ s2 =>
    if master s2.sr then
      match pushFrame { s2 with sr := s2.sr &&& 0xEFFF } (s.sr ||| 0x2000) s.pc 1 v [] with
      | .fail _ s => s.halt
      | .ok _ s3 => enterVector s3 v
    else enterVector s2 v

/-- Trace exception processing (R1125): the frame names the traced instruction. -/
def takeTrace (s : State) (pc : Long) : State := trap2 { s with trace := none } 9 s.pc pc

/-! ### A bus-errored replacement push (R1096, R1099) -/

/-- What the frame says of exceptions that wait besides: a floating-point exception (CP, CU), else a trace (CT), else a
MOVEM to be continued (R1097). -/
def State.waiting (s : State) : FaultInfo :=
  match s.fpDue, s.trace, s.movemEa with
  | some (.post ea), tr, _ => ⟨8, ea, tr.isSome, []⟩
  | some (.unimp ea), tr, _ => ⟨4, ea, tr.isSome, []⟩
  | none, some pc, _ => ⟨2, pc, false, []⟩
  | none, none, some ea => ⟨1, ea, false, []⟩
  | none, none, none => FaultInfo.none

/-- Take the fault of the push at the boundary after the instruction that forced it. -/
def reportPush (s : State) (p : PushFault) : State :=
  accessError { s with mem := s.mem.pushReported, fpDue := none } p.fault s.waiting s.pc

end Sys2Proof.Machine
end

