-- ==== Sys2Proof/Machine/Flags.lean ====
section
/-! DEFINITION. Operand sizes, the condition codes, and every flag computation of 41_integer_arithmetic R601 and
R602. Operand values are held in long words, of which the low bits of the size count. -/

namespace Sys2Proof.Machine

/-- The sizes of integer operands (00_scope R16). -/
inductive Size where
  | b
  | w
  | l
deriving DecidableEq, Repr

/-- Bytes of a size. -/
def Size.bytes : Size → Nat
  | .b => 1 | .w => 2 | .l => 4

/-- Bits of a size. -/
def Size.bits : Size → Nat
  | .b => 8 | .w => 16 | .l => 32

/-- How many instruction words an immediate of the size takes (R464). -/
def Size.immWords : Size → Nat
  | .l => 2 | _ => 1

/-- The low bits of a value, zero-extended. -/
def Size.trunc (z : Size) (v : Long) : Long :=
  match z with
  | .b => (v.extractLsb' 0 8).zeroExtend 32
  | .w => (v.extractLsb' 0 16).zeroExtend 32
  | .l => v

/-- The low bits of a value, sign-extended to 32 bits. -/
def Size.sext (z : Size) (v : Long) : Long :=
  match z with
  | .b => (v.extractLsb' 0 8).signExtend 32
  | .w => (v.extractLsb' 0 16).signExtend 32
  | .l => v

/-- The low bits of `old` replaced by those of `v` (R53). -/
def Size.merge (z : Size) (old v : Long) : Long :=
  match z with
  | .b => old.extractLsb' 8 24 ++ v.extractLsb' 0 8
  | .w => old.extractLsb' 16 16 ++ v.extractLsb' 0 16
  | .l => v

/-- The most significant bit at a size. -/
def Size.msb (z : Size) (v : Long) : Bool := v.getLsbD (z.bits - 1)

/-- Whether the value is zero at a size. -/
def Size.isZero (z : Size) (v : Long) : Bool := z.trunc v == 0

/-! ### The condition codes (R59, R60) -/

/-- X. -/
def State.flagX (s : State) : Bool := s.sr.getLsbD 4
/-- N. -/
def State.flagN (s : State) : Bool := s.sr.getLsbD 3
/-- Z. -/
def State.flagZ (s : State) : Bool := s.sr.getLsbD 2
/-- V. -/
def State.flagV (s : State) : Bool := s.sr.getLsbD 1
/-- C. -/
def State.flagC (s : State) : Bool := s.sr.getLsbD 0

/-- Set all five condition codes; the rest of the SR stays. -/
def State.setXNZVC (s : State) (x n z v c : Bool) : State :=
  { s with sr := s.sr.extractLsb' 5 11 ++ BitVec.ofBool x ++ BitVec.ofBool n ++ BitVec.ofBool z ++
      BitVec.ofBool v ++ BitVec.ofBool c }

/-- Set N, Z, V, C and leave X. -/
def State.setNZVC (s : State) (n z v c : Bool) : State := s.setXNZVC s.flagX n z v c

/-- N and Z from a result, V = C = 0, X not affected: the row of AND, MOVE, CLR, EXT, TST ... of R601. -/
def State.setLogic (s : State) (z : Size) (r : Long) : State := s.setNZVC (z.msb r) (z.isZero r) false false

/-- Set Z only. -/
def State.setZ (s : State) (z : Bool) : State := s.setNZVC s.flagN z s.flagV s.flagC

/-! ### Addition and subtraction (R602) -/

/-- A result with its carry and overflow. -/
structure Sum where
  r : Long
  c : Bool
  v : Bool

/-- `add_n(s, d, x)` of R602. -/
def addN (z : Size) (src dst : Long) (x : Bool) : Sum :=
  let t := (z.trunc src).toNat + (z.trunc dst).toNat + x.toNat
  let r := BitVec.ofNat 32 (t % 2 ^ z.bits)
  ⟨r, decide (2 ^ z.bits ≤ t), z.msb src == z.msb dst && z.msb r != z.msb dst⟩

/-- `sub_n(s, d, x)` of R602: d - s - x. -/
def subN (z : Size) (src dst : Long) (x : Bool) : Sum :=
  let t : Int := ((z.trunc dst).toNat : Int) - ((z.trunc src).toNat : Int) - (x.toNat : Int)
  let r := BitVec.ofNat 32 (t % (2 ^ z.bits : Int)).toNat
  ⟨r, decide (t < 0), z.msb src != z.msb dst && z.msb r != z.msb dst⟩

/-- Flags of ADD, SUB, NEG and the like: X = C, N and Z from the result. -/
def State.setArith (s : State) (z : Size) (t : Sum) : State := s.setXNZVC t.c (z.msb t.r) (z.isZero t.r) t.v t.c

/-- Flags of ADDX, SUBX, NEGX: as `setArith`, Z only ever cleared. -/
def State.setArithX (s : State) (z : Size) (t : Sum) : State :=
  s.setXNZVC t.c (z.msb t.r) (s.flagZ && z.isZero t.r) t.v t.c

/-- Flags of CMP, CMPI, CMPM, CAS, CAS2: as SUB, X not affected. -/
def State.setCompare (s : State) (z : Size) (t : Sum) : State := s.setNZVC (z.msb t.r) (z.isZero t.r) t.v t.c

/-! ### The integer conditions (47_program_control R921) -/

/-- `cond(cccc)`: the integer condition test. -/
def State.cond (s : State) (cc : BitVec 4) : Bool :=
  let n := s.flagN; let z := s.flagZ; let v := s.flagV; let c := s.flagC
  match cc.toNat with
  | 0 => true
  | 1 => false
  | 2 => !c && !z
  | 3 => c || z
  | 4 => !c
  | 5 => c
  | 6 => !z
  | 7 => z
  | 8 => !v
  | 9 => v
  | 10 => !n
  | 11 => n
  | 12 => n == v
  | 13 => n != v
  | 14 => n == v && !z
  | _ => z || n != v

/-! ### Bounds (CMP2, CHK2: R634) -/

/-- Z and C of CMP2 and CHK2, all comparisons unsigned. -/
def boundsZC (r lb ub : Long) : Bool × Bool :=
  (r == lb || r == ub,
   if lb.ule ub then r.ult lb || ub.ult r else ub.ult r && r.ult lb)

end Sys2Proof.Machine
end

