-- ==== Sys2Proof/Machine/Operands.lean ====
section
/-! DEFINITION. Operands: the eighteen addressing modes (30_encoding R453 to R464), reading and writing an operand,
and the shapes instructions are made of. -/

namespace Sys2Proof.Machine

/-! ### Effective addresses -/

/-- Where an operand is. -/
inductive Loc where
  | d (n : BitVec 3)
  | a (n : BitVec 3)
  | mem (addr : Long)
  | imm (v : BitVec 96)
deriving DecidableEq, Repr

/-- The value of a displacement, sign-extended (R457, R459). -/
def dispValue : Disp → Long
  | .null => 0
  | .word d => d.signExtend 32
  | .long d => d

/-- The scaled index (R458). -/
def indexValue (s : State) (x : IndexReg) : Long :=
  let v := if x.da then s.getA x.reg else s.getD x.reg
  (if x.long then v else (v.extractLsb' 0 16).signExtend 32) <<< x.scale.toNat

/-- The address of an indexed or memory-indirect mode with base value `base` (R458 to R460). -/
def indexedEa (s : State) (base : Long) (x : IndexExt) : Res Long :=
  match x with
  | .brief x d8 => .ok (base + d8.signExtend 32 + indexValue s x) s
  | .full x bs is bd ind =>
    let b := (if bs then 0 else base) + dispValue bd
    let i := if is then 0 else indexValue s x
    match ind with
    | .none => .ok (b + i) s
    | .pre od => (s.read (b + i) 4).bind fun p s => .ok (p + dispValue od) s
    | .post od => (s.read b 4).bind fun p s => .ok (p + i + dispValue od) s

/-- The step of (An)+ and -(An) for an operand of `n` bytes: 2 for a byte with A7 (R455, R456). -/
def stepOf (n : Nat) (r : BitVec 3) : Long := if n = 1 ∧ r = 7 then 2 else BitVec.ofNat 32 n

/-- Evaluate an effective address for an operand of `n` bytes; `pcv` is the value of PC for the PC-relative modes
(R461). Register side effects are made in the state. -/
def evalEa (s : State) (e : Ea) (n : Nat) (pcv : Long) : Res Loc :=
  match e with
  | .dn r => .ok (.d r) s
  | .an r => .ok (.a r) s
  | .ind r => .ok (.mem (s.getA r)) s
  | .post r => .ok (.mem (s.getA r)) (s.setA r (s.getA r + stepOf n r))
  | .pre r => .ok (.mem (s.getA r - stepOf n r)) (s.setA r (s.getA r - stepOf n r))
  | .disp r d => .ok (.mem (s.getA r + d.signExtend 32)) s
  | .idx r x => (indexedEa s (s.getA r) x).bind fun a s => .ok (.mem a) s
  | .absW a => .ok (.mem (a.signExtend 32)) s
  | .absL a => .ok (.mem a) s
  | .pcDisp d => .ok (.mem (pcv + d.signExtend 32)) s
  | .pcIdx x => (indexedEa s pcv x).bind fun a s => .ok (.mem a) s
  | .imm v => .ok (.imm v) s

/-- The address of a control mode, for the instructions that only compute one; other modes have none. -/
def Loc.addr : Loc → Long
  | .mem x => x
  | _ => 0

/-- The address an effective address names, without a size (LEA, PEA, JMP, JSR, bit fields in memory). -/
def controlEa (s : State) (e : Ea) (pcv : Long) : Res Long :=
  (evalEa s e 0 pcv).bind fun l s => .ok l.addr s

/-! ### Reading and writing operands -/

/-- The value of an operand at a size, zero-extended. -/
def readLoc (s : State) (z : Size) (l : Loc) : Res Long :=
  match l with
  | .d n => .ok (z.trunc (s.getD n)) s
  | .a n => .ok (z.trunc (s.getA n)) s
  | .mem a => s.read a z.bytes
  | .imm v => .ok (z.trunc (v.truncate 32)) s

/-- Write a data register at a size (R53). -/
def State.setDz (s : State) (z : Size) (n : BitVec 3) (v : Long) : State := s.setD n (z.merge (s.getD n) v)

/-- Put a result where an operand is: a register at once, memory as a write to be made. An address register takes
the whole sign-extended value (R54). -/
def putLoc (s : State) (z : Size) (l : Loc) (v : Long) : State × List Write :=
  match l with
  | .d n => (s.setDz z n v, [])
  | .a n => (s.setA n (z.sext v), [])
  | .mem a => (s, [s.writeOf a z.bytes v])
  | .imm _ => (s, [])

/-- How many words an effective address adds to an instruction. -/
def Ea.words (n : Nat) (e : Ea) : Nat := (e.ext n).length

/-- Evaluate an effective address that `pre` words precede, and read the operand. -/
def readEa (s : State) (z : Size) (e : Ea) (pre : Nat) (pc : Long) : Res (Loc × Long) :=
  (evalEa s e z.bytes (pc + BitVec.ofNat 32 (2 * pre))).bind fun l s =>
    (readLoc s z l).bind fun v s => .ok (l, v) s

/-- The length in words of an instruction whose effective address follows `pre` words. -/
def eaLength (pre : Nat) (z : Size) (e : Ea) : Nat := pre + Ea.words z.immWords e

/-! ### Shapes of instructions

`f` computes from the state after the operands, the source and the destination (both zero-extended): the state with
its flags, and the result. -/

/-- `<ea> op Dn → Dn`. -/
def eaToDn (s0 : State) (z : Size) (e : Ea) (dn : BitVec 3) (f : State → Long → Long → State × Long) : Out :=
  orAbort s0 (readEa s0 z e 1 s0.pc) fun (_, src) s =>
    let (s1, r) := f s src (z.trunc (s.getD dn))
    next s0 (s1.setDz z dn r) (eaLength 1 z e)

/-- `op <ea>`, read and written at one evaluation of the address (R466); the source is given; `pre` words come
before the effective address. -/
def modifyEa (s0 : State) (z : Size) (e : Ea) (pre : Nat) (src : Long) (f : State → Long → Long → State × Long) :
    Out :=
  orAbort s0 (readEa s0 z e pre s0.pc) fun (l, dst) s =>
    let (s1, r) := f s src dst
    let (s2, ws) := putLoc s1 z l r
    nextWith s0 s2 (eaLength pre z e) ws

/-- Read `<ea>` and set flags (and registers) from it: nothing is stored. -/
def testEa (s0 : State) (z : Size) (e : Ea) (pre : Nat) (f : State → Long → State) : Out :=
  orAbort s0 (readEa s0 z e pre s0.pc) fun (_, v) s => next s0 (f s v) (eaLength pre z e)

/-- Write a value to `<ea>` without reading it first (D30). -/
def storeEa (s0 : State) (z : Size) (e : Ea) (pre : Nat) (f : State → State × Long) : Out :=
  orAbort s0 (evalEa s0 e z.bytes (s0.after pre)) fun l s =>
    let (s1, r) := f s
    let (s2, ws) := putLoc s1 z l r
    nextWith s0 s2 (eaLength pre z e) ws

/-- `Ry op Rx → Rx` between data registers, or `-(Ay) op -(Ax) → (Ax)`, source addressed and read first (R466);
`n` words long. -/
def extended (s0 : State) (z : Size) (rx : BitVec 3) (mem : Bool) (ry : BitVec 3) (n : Nat)
    (f : State → Long → Long → State × Long) : Out :=
  if mem then
    orAbort s0 ((readEa s0 z (.pre ry) 1 s0.pc).bind fun (_, src) s =>
        (readEa s z (.pre rx) 1 s0.pc).bind fun (l, dst) s => .ok (l, src, dst) s) fun (l, src, dst) s =>
      let (s1, r) := f s src dst
      let (s2, ws) := putLoc s1 z l r
      nextWith s0 s2 n ws
  else
    let (s1, r) := f s0 (z.trunc (s0.getD ry)) (z.trunc (s0.getD rx))
    next s0 (s1.setDz z rx r) n

end Sys2Proof.Machine
end

