-- ==== Sys2Proof/Machine/Bcd.lean ====
section
/-! DEFINITION. Binary-coded-decimal instructions (46_bcd R900 to R907). -/

namespace Sys2Proof.Machine

/-- Whether both nibbles of a byte are decimal digits (R900). -/
def isBcd (v : Long) : Bool := decide (v.toNat % 16 ≤ 9) && decide (v.toNat / 16 % 16 ≤ 9)

/-- `dec(b)` (R900). -/
def decOf (v : Long) : Nat := 10 * (v.toNat / 16 % 16) + v.toNat % 16

/-- `bcd(v)` (R900). -/
def bcdOf (v : Nat) : Long := BitVec.ofNat 32 (v / 10 * 16 + v % 10)

/-- The flags of ABCD, SBCD, NBCD: X = C, Z only ever cleared, N and V free (R901, 93 U28). -/
def State.setDecimal (s : State) (r : Long) (c : Bool) : State :=
  let p := s.draw 2
  p.2.setXNZVC c (p.1.getLsbD 1) (s.flagZ && Size.isZero .b r) (p.1.getLsbD 0) c

/-- A decimal operation: `t` is the exact decimal result, which is brought into 0 to 99; with an operand that is
not decimal, result and carry are free (R901, 93 U29). X is that free carry: R901 calls both undefined there, and R902 to R904 set
X to C: DEDUCED (log 29). -/
def decimal (s : State) (valid : Bool) (t : Int) : State × Long :=
  if valid then
    if t < 0 then (s.setDecimal (bcdOf (t + 100).toNat) true, bcdOf (t + 100).toNat)
    else if 99 < t then (s.setDecimal (bcdOf (t - 100).toNat) true, bcdOf (t - 100).toNat)
    else (s.setDecimal (bcdOf t.toNat) false, bcdOf t.toNat)
  else
    let p := s.draw 9
    let r : Long := (p.1.extractLsb' 0 8).zeroExtend 32
    (p.2.setDecimal r (p.1.getLsbD 8), r)

/-- Source plus destination plus X (R903). -/
def abcdOp (s : State) (src dst : Long) : State × Long :=
  decimal s (isBcd src && isBcd dst) ((decOf src : Int) + (decOf dst : Int) + (s.flagX.toNat : Int))

/-- Destination minus source minus X (R902). -/
def sbcdOp (s : State) (src dst : Long) : State × Long :=
  decimal s (isBcd src && isBcd dst) ((decOf dst : Int) - (decOf src : Int) - (s.flagX.toNat : Int))

/-- SBCD (R902). -/
def execSbcd (rx : BitVec 3) (mem : Bool) (ry : BitVec 3) (s : State) : Out := extended s .b rx mem ry 1 sbcdOp
/-- ABCD (R903). -/
def execAbcd (rx : BitVec 3) (mem : Bool) (ry : BitVec 3) (s : State) : Out := extended s .b rx mem ry 1 abcdOp
/-- NBCD (R904). -/
def execNbcd (ea : Ea) (s : State) : Out := modifyEa s .b ea 1 0 fun s1 _ d => sbcdOp s1 d 0

/-- The packed byte of an unpacked word plus the adjustment (R905); with a digit above 9 the result is free
(93 U29). -/
def packOp (s : State) (u : Long) (adj : BitVec 16) : State × Long :=
  if u.toNat % 16 ≤ 9 ∧ u.toNat / 256 % 16 ≤ 9 then
    let t := u.extractLsb' 0 16 + adj
    (s, (t.extractLsb' 8 4 ++ t.extractLsb' 0 4).zeroExtend 32)
  else
    let p := s.draw 8
    (p.2, p.1.zeroExtend 32)

/-- The unpacked word of a packed byte plus the adjustment (R906). -/
def unpkOp (p : Long) (adj : BitVec 16) : Long :=
  ((0#4 ++ p.extractLsb' 4 4 ++ 0#4 ++ p.extractLsb' 0 4 : BitVec 16) + adj).zeroExtend 32

/-- PACK and UNPK: a source of size `z`, a destination of size `z'`; no flags (R905 to R907). Each operand in memory is
one transfer (log 54). -/
def packUnpack (z z' : Size) (rx : BitVec 3) (mem : Bool) (ry : BitVec 3) (f : State → Long → State × Long)
    (s : State) : Out :=
  if mem then
    orAbort s (readEa s z (.pre ry) 2 s.pc) fun x s1 =>
      let p := f s1 x.2
      let a := p.1.getA rx - stepOf z'.bytes rx
      nextWith s (p.1.setA rx a) 2 [p.1.writeOf a z'.bytes p.2]
  else
    let p := f s (z.trunc (s.getD ry))
    next s (p.1.setDz z' rx p.2) 2

/-- PACK (R905). -/
def execPack (rx : BitVec 3) (mem : Bool) (ry : BitVec 3) (adj : BitVec 16) (s : State) : Out :=
  packUnpack .w .b rx mem ry (fun s1 u => packOp s1 u adj) s
/-- UNPK (R906). -/
def execUnpk (rx : BitVec 3) (mem : Bool) (ry : BitVec 3) (adj : BitVec 16) (s : State) : Out :=
  packUnpack .b .w rx mem ry (fun s1 p => (s1, unpkOp p adj)) s

end Sys2Proof.Machine
end

