-- ==== Sys2Proof/Machine/Bits.lean ====
section
/-! DEFINITION. Bit manipulation and bit fields (45_bit_and_bitfield R860 to R891). -/

namespace Sys2Proof.Machine

/-! ### Single bits (R861 to R865) -/

/-- The size of a bit operand: 32 bits in a data register, a byte elsewhere (R860). -/
def bitSize : Ea → Size
  | .dn _ => .l
  | _ => .b

/-- The mask of a bit number modulo the operand's length (R861). -/
def bitMask (z : Size) (bit : Nat) : Long := BitVec.twoPow 32 (bit % z.bits)

/-- Z from the bit before the operation, and the operand changed by `f` (R861). -/
def bitOp (f : Long → Long → Long) (z : Size) (bit : Nat) (s : State) (d : Long) : State × Long :=
  (s.setZ (d &&& bitMask z bit == 0), f d (bitMask z bit))

/-- BTST: nothing is written (R862). -/
def bitTest (ea : Ea) (pre bit : Nat) (s : State) : Out :=
  testEa s (bitSize ea) ea pre fun s1 v => (bitOp (fun d _ => d) (bitSize ea) bit s1 v).1

/-- BCHG, BCLR, BSET (R863 to R865). -/
def bitModify (f : Long → Long → Long) (ea : Ea) (pre bit : Nat) (s : State) : Out :=
  modifyEa s (bitSize ea) ea pre 0 fun s1 _ d => bitOp f (bitSize ea) bit s1 d

/-- Complement of a bit. -/
def bitChange (d m : Long) : Long := d ^^^ m
/-- A bit cleared. -/
def bitClear (d m : Long) : Long := d &&& ~~~m
/-- A bit set. -/
def bitSet (d m : Long) : Long := d ||| m

/-- BTST #n,<ea> (R862). -/
def execBtst (bit : BitVec 8) (ea : Ea) (s : State) : Out := bitTest ea 2 bit.toNat s
/-- BTST Dn,<ea> (R862). -/
def execBtstDn (dn : BitVec 3) (ea : Ea) (s : State) : Out := bitTest ea 1 (s.getD dn).toNat s
/-- BCHG #n,<ea> (R863). -/
def execBchg (bit : BitVec 8) (ea : Ea) (s : State) : Out := bitModify bitChange ea 2 bit.toNat s
/-- BCHG Dn,<ea> (R863). -/
def execBchgDn (dn : BitVec 3) (ea : Ea) (s : State) : Out := bitModify bitChange ea 1 (s.getD dn).toNat s
/-- BCLR #n,<ea> (R864). -/
def execBclr (bit : BitVec 8) (ea : Ea) (s : State) : Out := bitModify bitClear ea 2 bit.toNat s
/-- BCLR Dn,<ea> (R864). -/
def execBclrDn (dn : BitVec 3) (ea : Ea) (s : State) : Out := bitModify bitClear ea 1 (s.getD dn).toNat s
/-- BSET #n,<ea> (R865). -/
def execBset (bit : BitVec 8) (ea : Ea) (s : State) : Out := bitModify bitSet ea 2 bit.toNat s
/-- BSET Dn,<ea> (R865). -/
def execBsetDn (dn : BitVec 3) (ea : Ea) (s : State) : Out := bitModify bitSet ea 1 (s.getD dn).toNat s

/-! ### Bit fields (R880 to R891) -/

/-- The offset of a field: signed, from the extension word or a data register (R880). -/
def fieldOffset (s : State) (bf : BfSpec) : Long :=
  if bf.offsetInReg then s.getD (bf.offset.extractLsb' 0 3) else bf.offset.zeroExtend 32

/-- The width of a field, 1 to 32 (R880). -/
def fieldWidth (s : State) (bf : BfSpec) : Nat :=
  let w := if bf.widthInReg then (s.getD (bf.width.extractLsb' 0 3)).toNat % 32 else bf.width.toNat
  if w = 0 then 32 else w

/-- The low `w` bits of a long word. -/
def lowBits (v : Long) (w : Nat) : Long := v &&& (BitVec.allOnes 32 >>> (32 - w))

/-- How the bytes of a field in memory are grouped into accesses. 60_exceptions R1096 gives a long word and then a byte for the
writes of five bytes; R881 leaves the grouping open, and two bytes are a word, three a word and then a byte, four a long word:
DESIGN CHOICE (log 23). -/
def fieldChunks (nb : Nat) : List Nat :=
  if nb ≤ 1 then [1] else if nb = 2 then [2] else if nb = 3 then [2, 1] else if nb = 4 then [4] else [4, 1]

/-- Read chunks of bytes upwards from an address, most significant first. -/
def readChunks (s : State) (a : Long) (acc : BitVec 64) : List Nat → Res (BitVec 64)
  | [] => .ok acc s
  | n :: ns =>
    (s.read a n).bind fun v s => readChunks s (a + BitVec.ofNat 32 n) ((acc <<< (8 * n)) ||| v.zeroExtend 64) ns

/-- The writes that put back the chunks of a value. -/
def writeChunks (s : State) (a : Long) (v : BitVec 64) : List Nat → List Write
  | [] => []
  | n :: ns =>
    s.writeOf a n ((v >>> (8 * ns.sum)).extractLsb' 0 32) :: writeChunks s (a + BitVec.ofNat 32 n) v ns

/-- A field that has been read: its value, and what it takes to put a new value back. -/
structure Located where
  f : Long
  put : Long → State → State × List Write

/-- Locate and read a field (R881): in a register by rotation, in memory from the byte the signed offset selects. -/
def getField (s : State) (ea : Ea) (off : Long) (w : Nat) : Res Located :=
  match ea with
  | .dn r =>
    let o := off.toNat % 32
    let v := (s.getD r).rotateLeft o
    .ok ⟨v >>> (32 - w), fun f s =>
      (s.setD r (((v &&& (BitVec.allOnes 32 >>> w)) ||| (f <<< (32 - w))).rotateRight o), [])⟩ s
  | _ =>
    (controlEa s ea (s.after 2)).bind fun base s =>
      let a := base + off.sshiftRight 3
      let bo := off.toNat % 8
      let nb := (bo + w + 7) / 8
      let sh := 8 * nb - bo - w
      (readChunks s a 0 (fieldChunks nb)).bind fun m s =>
        let mask : BitVec 64 := (BitVec.allOnes 64 >>> (64 - w)) <<< sh
        .ok ⟨lowBits ((m >>> sh).extractLsb' 0 32) w, fun f s =>
          (s, writeChunks s a ((m &&& ~~~mask) ||| (f.zeroExtend 64 <<< sh)) (fieldChunks nb))⟩ s

/-- `bf_cc(F, w)` (R882). -/
def State.setField (s : State) (f : Long) (w : Nat) : State :=
  s.setNZVC (f.getLsbD (w - 1)) (f == 0) false false

/-- BFTST, BFEXTU, BFEXTS, BFFFO: read the field, set the flags, write a register or nothing. -/
def fieldRead (bf : BfSpec) (ea : Ea) (k : State → Long → Nat → State) (s : State) : Out :=
  let w := fieldWidth s bf
  orAbort s (getField s ea (fieldOffset s bf) w) fun g s1 =>
    next s (k (s1.setField g.f w) g.f w) (2 + Ea.words 1 ea)

/-- BFCHG, BFCLR, BFSET, BFINS: read the field, put a new one back; `cc` is the value that sets the flags. -/
def fieldModify (bf : BfSpec) (ea : Ea) (new : Long → Nat → Long) (cc : Long → Nat → Long) (s : State) : Out :=
  let w := fieldWidth s bf
  orAbort s (getField s ea (fieldOffset s bf) w) fun g s1 =>
    let p := g.put (new g.f w) (s1.setField (cc g.f w) w)
    nextWith s p.1 (2 + Ea.words 1 ea) p.2

/-- How many bits from its most significant one precede the first set bit of a field; its width if none is set. -/
def leadingZeros (f : Long) : Nat → Nat
  | 0 => 0
  | w + 1 => if f.getLsbD w then 0 else 1 + leadingZeros f w

/-- BFTST (R883). -/
def execBftst (bf : BfSpec) (ea : Ea) (s : State) : Out := fieldRead bf ea (fun s1 _ _ => s1) s
/-- BFEXTU (R884). -/
def execBfextu (dn : BitVec 3) (bf : BfSpec) (ea : Ea) (s : State) : Out :=
  fieldRead bf ea (fun s1 f _ => s1.setD dn f) s
/-- BFEXTS (R885). -/
def execBfexts (dn : BitVec 3) (bf : BfSpec) (ea : Ea) (s : State) : Out :=
  fieldRead bf ea (fun s1 f w => s1.setD dn ((f <<< (32 - w)).sshiftRight (32 - w))) s
/-- BFFFO (R890): the offset counted from is the full signed one in memory, modulo 32 in a register. -/
def execBfffo (dn : BitVec 3) (bf : BfSpec) (ea : Ea) (s : State) : Out :=
  let off := fieldOffset s bf
  let base := match ea with | .dn _ => off &&& 31 | _ => off
  fieldRead bf ea (fun s1 f w => s1.setD dn (base + BitVec.ofNat 32 (leadingZeros f w))) s
/-- BFCHG (R887). -/
def execBfchg (bf : BfSpec) (ea : Ea) (s : State) : Out :=
  fieldModify bf ea (fun f w => lowBits (~~~f) w) (fun f _ => f) s
/-- BFCLR (R888). -/
def execBfclr (bf : BfSpec) (ea : Ea) (s : State) : Out := fieldModify bf ea (fun _ _ => 0) (fun f _ => f) s
/-- BFSET (R889). -/
def execBfset (bf : BfSpec) (ea : Ea) (s : State) : Out :=
  fieldModify bf ea (fun _ w => lowBits (BitVec.allOnes 32) w) (fun f _ => f) s
/-- BFINS (R886): N and Z describe the value inserted (D27, 90_conflicts C37). -/
def execBfins (dn : BitVec 3) (bf : BfSpec) (ea : Ea) (s : State) : Out :=
  fieldModify bf ea (fun _ w => lowBits (s.getD dn) w) (fun _ w => lowBits (s.getD dn) w) s

end Sys2Proof.Machine
end

