-- ==== Sys2Proof/Machine/Control.lean ====
section
/-! DEFINITION. Program control (47_program_control R920 to R936). -/

namespace Sys2Proof.Machine

/-- The value of a branch displacement, sign-extended (R922). -/
def brValue : BrDisp → Long
  | .byte d => d.signExtend 32
  | .word d => d.signExtend 32
  | .long d => d

/-- How many words a branch has. -/
def brWords : BrDisp → Nat
  | .byte _ => 1 | .word _ => 2 | .long _ => 3

/-- The base of a branch target is `pc + 2` (R922). -/
def branchTarget (s : State) (d : Long) : Long := s.pc + 2 + d

/-- A branch not taken: the next instruction, but an odd target is an address error all the same (R923, D25). -/
def notTaken (s : State) (target : Long) (n : Nat) : Out :=
  if target.getLsbD 0 then .next (addressError s s.pc target) else next s s n

/-- Bcc (R925). -/
def execBcc (cc : BitVec 4) (disp : BrDisp) (s : State) : Out :=
  if s.cond cc then jump s s (branchTarget s (brValue disp)) [] else notTaken s (branchTarget s (brValue disp)) (brWords disp)

/-- BRA (R926). -/
def execBra (disp : BrDisp) (s : State) : Out := jump s s (branchTarget s (brValue disp)) []

/-- Push the address of the instruction after one of `n` words, and go to a target (R927, R931). -/
def callTo (s0 s : State) (target : Long) (n : Nat) : Out :=
  let sp := s.getA 7 - 4
  jump s0 (s.setA 7 sp) target [s.writeOf sp 4 (s0.after n)]

/-- BSR (R927). -/
def execBsr (disp : BrDisp) (s : State) : Out := callTo s s (branchTarget s (brValue disp)) (brWords disp)

/-- DBcc (R928). -/
def execDbcc (cc : BitVec 4) (dn : BitVec 3) (d : BitVec 16) (s : State) : Out :=
  if s.cond cc then next s s 2
  else
    let c := (s.getD dn).extractLsb' 0 16 - 1
    let s1 := s.setDz .w dn (c.zeroExtend 32)
    if c = 0xFFFF then next s s1 2 else jump s s1 (branchTarget s (d.signExtend 32)) []

/-- Scc: the destination is written without being read (R929, D30). -/
def execScc (cc : BitVec 4) (ea : Ea) (s : State) : Out :=
  storeEa s .b ea 1 fun s1 => (s1, if s1.cond cc then 0xFF else 0)

/-- JMP (R930). -/
def execJmp (ea : Ea) (s : State) : Out := orAbort s (controlEa s ea (s.after 1)) fun a s1 => jump s s1 a []

/-- JSR: the target is computed before the push (R931). -/
def execJsr (ea : Ea) (s : State) : Out :=
  orAbort s (controlEa s ea (s.after 1)) fun a s1 => callTo s s1 a (1 + Ea.words 1 ea)

/-- NOP: every write of this processor has already been made, so that nothing but the pc changes (R932); the pipeline is
flushed (10_state R89), and the maintenance of stored instruction words goes on (20_memory R195). -/
def execNop (s : State) : Out := next s { s with mem := s.mem.synchronize } 1

/-- RTD (R933). -/
def execRtd (d : BitVec 16) (s : State) : Out :=
  orAbort s (s.read (s.getA 7) 4) fun t s1 => jump s (s1.setA 7 (s.getA 7 + 4 + d.signExtend 32)) t []

/-- RTR: the low five bits of the word go to the CCR (R934). -/
def execRtr (s : State) : Out :=
  orAbort s ((s.read (s.getA 7) 2).bind fun w s1 =>
      (s1.read (s.getA 7 + 2) 4).bind fun t s2 => .ok (w, t) s2) fun p s2 =>
    jump s ((s2.setA 7 (s.getA 7 + 6)).setCcr (p.1.extractLsb' 0 16)) p.2 []

/-- RTS (R935). -/
def execRts (s : State) : Out :=
  orAbort s (s.read (s.getA 7) 4) fun t s1 => jump s (s1.setA 7 (s.getA 7 + 4)) t []

/-- TST at a size (R936). -/
def tstEa (z : Size) (ea : Ea) (s : State) : Out := testEa s z ea 1 fun s1 v => s1.setLogic z v

/-- TST.B (R936). -/
def execTstB (ea : Ea) (s : State) : Out := tstEa .b ea s
/-- TST.W (R936). -/
def execTstW (ea : Ea) (s : State) : Out := tstEa .w ea s
/-- TST.L (R936). -/
def execTstL (ea : Ea) (s : State) : Out := tstEa .l ea s

end Sys2Proof.Machine
end

