-- ==== Sys2Proof/Machine/DataMove.lean ====
section
/-! DEFINITION. The data movement instructions (40_data_movement R550 to R566). -/

namespace Sys2Proof.Machine

/-! ### MOVE, MOVEA, MOVEQ (R551 to R553) -/

/-- MOVE at a size: source addressed and read, then the destination addressed and written (R551, 30_encoding R466). -/
def moveEa (z : Size) (src dst : Ea) (s : State) : Out :=
  orAbort s
    ((readEa s z src 1 s.pc).bind fun x s1 => (evalEa s1 dst z.bytes s.pc).bind fun l s2 => .ok (l, x.2) s2)
    fun x s2 =>
      let p := putLoc (s2.setLogic z x.2) z x.1 x.2
      nextWith s p.1 (1 + Ea.words z.immWords src + Ea.words z.immWords dst) p.2

/-- MOVE.B (R551). -/
def execMoveB (src dst : Ea) (s : State) : Out := moveEa .b src dst s
/-- MOVE.W (R551). -/
def execMoveW (src dst : Ea) (s : State) : Out := moveEa .w src dst s
/-- MOVE.L (R551). -/
def execMoveL (src dst : Ea) (s : State) : Out := moveEa .l src dst s

/-- MOVEA at a size: the whole register, sign-extended; no flags (R552). -/
def moveaEa (z : Size) (an : BitVec 3) (ea : Ea) (s : State) : Out :=
  orAbort s (readEa s z ea 1 s.pc) fun x s1 => next s (s1.setA an (z.sext x.2)) (eaLength 1 z ea)

/-- MOVEA.W (R552). -/
def execMoveaW (an : BitVec 3) (ea : Ea) (s : State) : Out := moveaEa .w an ea s
/-- MOVEA.L (R552). -/
def execMoveaL (an : BitVec 3) (ea : Ea) (s : State) : Out := moveaEa .l an ea s

/-- MOVEQ (R553). -/
def execMoveq (dn : BitVec 3) (d : BitVec 8) (s : State) : Out :=
  next s ((s.setD dn (d.signExtend 32)).setLogic .l (d.signExtend 32)) 1

/-! ### MOVEM (R554, R555, 60_exceptions R1096, R1104) -/

/-- The base address of a MOVEM, which the frame of a fault shows as the calculated address (60_exceptions R1096). For (An)+
and -(An) it is the register as it is before the instruction, also before any decrement: DESIGN CHOICE (log 28); for the
indexed and PC-relative modes an address restored by RTE is used instead of evaluating again (60_exceptions R1104). -/
def movemBase (s : State) (ea : Ea) : Res Long :=
  match ea with
  | .post r => .ok (s.getA r) s
  | .pre r => .ok (s.getA r) s
  | .idx _ _ => match s.movemEa with | some a => .ok a s | none => controlEa s ea (s.after 2)
  | .pcDisp _ => match s.movemEa with | some a => .ok a s | none => controlEa s ea (s.after 2)
  | .pcIdx _ => match s.movemEa with | some a => .ok a s | none => controlEa s ea (s.after 2)
  | _ => controlEa s ea (s.after 2)

/-- The registers of a list, D0 first. -/
def listRegs (list : BitVec 16) : List (BitVec 4) :=
  ((List.range 16).filter fun i => list.getLsbD i).map fun i => BitVec.ofNat 4 i

/-- The registers of the list of a -(An) store, A7 first: bit 0 is A7 (R554). -/
def listRegsPre (list : BitVec 16) : List (BitVec 4) :=
  ((List.range 16).filter fun i => list.getLsbD i).map fun i => BitVec.ofNat 4 (15 - i)

/-- The access fault of a MOVEM: CM and the calculated address in the frame, no write-backs (60_exceptions R1096). A forced
push names the instruction; a replacement push that waits comes first, unless a serialized page has been read. -/
def movemAbort (s0 s : State) (f : AccessFault) (ea : Long) : Out :=
  if s.mem.givesUp then restart s0 s.mem
  else if f.push.isSome then abort { s with pc := s0.pc } s f
  else .next (accessError { s with pc := s0.pc } f ⟨1, ea, false, []⟩ s0.pc)

/-- The writes of a MOVEM to ascending addresses. -/
def movemWrites (s : State) (z : Size) : Long → List (BitVec 4) → List Write
  | _, [] => []
  | a, r :: rs => s.writeOf a z.bytes (s.getR r) :: movemWrites s z (a + BitVec.ofNat 32 z.bytes) rs

/-- The writes of a MOVEM to -(An): descending addresses; An itself is stored less the operand size (R554). -/
def movemWritesPre (s : State) (z : Size) (an : BitVec 3) : Long → List (BitVec 4) → List Write
  | _, [] => []
  | a, r :: rs =>
    let a := a - BitVec.ofNat 32 z.bytes
    let v := if r = 8 + an.zeroExtend 4 then s.getR r - BitVec.ofNat 32 z.bytes else s.getR r
    s.writeOf a z.bytes v :: movemWritesPre s z an a rs

/-- MOVEM registers to memory at a size (R554). A fault on the pointer of a memory-indirect mode aborts it like any other
instruction, as no effective address has been calculated (log 28). -/
def movemStore (z : Size) (list : BitVec 16) (ea : Ea) (s : State) : Out :=
  orAbort s (movemBase s ea) fun a s1 =>
    let ws := match ea with
      | .pre r => movemWritesPre s1 z r a (listRegsPre list)
      | _ => movemWrites s1 z a (listRegs list)
    match writeAll s1 ws with
    | .fault f _ _ s2 => movemAbort s { s with mem := s2.mem } f a
    | .all s2 =>
      let s3 := match ea with
        | .pre r => s2.setA r (a - BitVec.ofNat 32 (z.bytes * ws.length))
        | _ => s2
      next s s3 (2 + Ea.words 1 ea)

/-- MOVEM.W registers to memory (R554). -/
def execMovemWListEa (list : BitVec 16) (ea : Ea) (s : State) : Out := movemStore .w list ea s
/-- MOVEM.L registers to memory (R554). -/
def execMovemLListEa (list : BitVec 16) (ea : Ea) (s : State) : Out := movemStore .l list ea s

/-- Load registers from ascending addresses; `skip` is the register of an (An)+ mode, which is not loaded (its
loaded value would be overwritten, R555). The answer is the address after the last operand. -/
def movemLoads (s : State) (z : Size) (skip : Option (BitVec 4)) : Long → List (BitVec 4) → Res Long
  | a, [] => .ok a s
  | a, r :: rs =>
    match s.read a z.bytes with
    | .fail f s => .fail f s
    | .ok v s1 =>
      movemLoads (if skip = some r then s1 else s1.setR r (z.sext v)) z skip (a + BitVec.ofNat 32 z.bytes) rs

/-- MOVEM memory to registers at a size (R555). A fault leaves the registers loaded so far changed (60_exceptions R1102;
log 28). -/
def movemLoad (z : Size) (list : BitVec 16) (ea : Ea) (s : State) : Out :=
  orAbort s (movemBase s ea) fun a s1 =>
    let skip := match ea with | .post r => some (8 + r.zeroExtend 4) | _ => none
    match movemLoads s1 z skip a (listRegs list) with
    | .fail f s2 => movemAbort s s2 f a
    | .ok e s2 =>
      let s3 := match ea with | .post r => s2.setA r e | _ => s2
      next s s3 (2 + Ea.words 1 ea)

/-- MOVEM.W memory to registers (R555). -/
def execMovemWEaList (list : BitVec 16) (ea : Ea) (s : State) : Out := movemLoad .w list ea s
/-- MOVEM.L memory to registers (R555). -/
def execMovemLEaList (list : BitVec 16) (ea : Ea) (s : State) : Out := movemLoad .l list ea s

/-! ### MOVEP (R556) -/

/-- Read `n` bytes at every second address, most significant first. -/
def movepRead (s : State) (a acc : Long) : Nat → Res Long
  | 0 => .ok acc s
  | n + 1 => (s.read a 1).bind fun v s => movepRead s (a + 2) ((acc <<< 8) ||| v) n

/-- The byte writes of a MOVEP at every second address, most significant first. -/
def movepWrites (s : State) (a v : Long) : Nat → List Write
  | 0 => []
  | n + 1 => s.writeOf a 1 (v >>> (8 * n)) :: movepWrites s (a + 2) v n

/-- MOVEP memory to register. -/
def movepLoad (z : Size) (dx ay : BitVec 3) (d : BitVec 16) (s : State) : Out :=
  orAbort s (movepRead s (s.getA ay + d.signExtend 32) 0 z.bytes) fun v s1 => next s (s1.setDz z dx v) 2

/-- MOVEP register to memory. -/
def movepWritesOf (z : Size) (dx ay : BitVec 3) (d : BitVec 16) (s : State) : List Write :=
  movepWrites s (s.getA ay + d.signExtend 32) (s.getD dx) z.bytes

/-- MOVEP.W (d16,Ay),Dx (R556). -/
def execMovepWD16AyDx (dx ay : BitVec 3) (d : BitVec 16) (s : State) : Out := movepLoad .w dx ay d s
/-- MOVEP.L (d16,Ay),Dx (R556). -/
def execMovepLD16AyDx (dx ay : BitVec 3) (d : BitVec 16) (s : State) : Out := movepLoad .l dx ay d s
/-- MOVEP.W Dx,(d16,Ay) (R556). -/
def execMovepWDxD16Ay (dx ay : BitVec 3) (d : BitVec 16) (s : State) : Out :=
  nextWith s s 2 (movepWritesOf .w dx ay d s)
/-- MOVEP.L Dx,(d16,Ay) (R556): of its four writes the frame holds three, so that a fault of the first one aborts it
(60_exceptions R1096, log 21). -/
def execMovepLDxD16Ay (dx ay : BitVec 3) (d : BitVec 16) (s : State) : Out :=
  nextWith s s 2 (movepWritesOf .l dx ay d s)

/-! ### LEA, PEA, LINK, UNLK, EXG (R557 to R561) -/

/-- LEA (R557). -/
def execLea (an : BitVec 3) (ea : Ea) (s : State) : Out :=
  orAbort s (controlEa s ea (s.after 1)) fun a s1 => next s (s1.setA an a) (1 + Ea.words 1 ea)

/-- `Push32` of the stack pointer's new value and the write (00_scope R15). -/
def pushLong (s : State) (v : Long) : State × Write :=
  let sp := s.getA 7 - 4
  (s.setA 7 sp, s.writeOf sp 4 v)

/-- PEA: the address is computed before the stack pointer moves (R558). -/
def execPea (ea : Ea) (s : State) : Out :=
  orAbort s (controlEa s ea (s.after 1)) fun a s1 =>
    let p := pushLong s1 a
    nextWith s p.1 (1 + Ea.words 1 ea) [p.2]

/-- LINK: with A7 the value pushed is the decremented one (R559). -/
def linkAn (an : BitVec 3) (d : Long) (n : Nat) (s : State) : Out :=
  let sp := s.getA 7 - 4
  let s1 := s.setA 7 sp
  let w := s1.writeOf sp 4 (s1.getA an)
  let s2 := s1.setA an sp
  nextWith s (s2.setA 7 (s2.getA 7 + d)) n [w]

/-- LINK.W (R559). -/
def execLinkW (an : BitVec 3) (d : BitVec 16) (s : State) : Out := linkAn an (d.signExtend 32) 2 s
/-- LINK.L (R559). -/
def execLinkL (an : BitVec 3) (d : BitVec 32) (s : State) : Out := linkAn an d 3 s

/-- UNLK; for A7 the value left is free (R560, 93 U22). -/
def execUnlk (an : BitVec 3) (s : State) : Out :=
  orAbort s (s.read (s.getA an) 4) fun v s1 =>
    if an = 7 then
      let p := s1.draw 32
      next s (p.2.setA 7 p.1) 1
    else next s ((s1.setA 7 (s.getA an + 4)).setA an v) 1

/-- EXG of two registers numbered 0 to 15 (R561). -/
def exchange (x y : BitVec 4) (s : State) : Out := next s ((s.setR x (s.getR y)).setR y (s.getR x)) 1

/-- EXG Dx,Dy (R561). -/
def execExgDxDy (rx ry : BitVec 3) (s : State) : Out := exchange (rx.zeroExtend 4) (ry.zeroExtend 4) s
/-- EXG Ax,Ay (R561). -/
def execExgAxAy (rx ry : BitVec 3) (s : State) : Out := exchange (8 + rx.zeroExtend 4) (8 + ry.zeroExtend 4) s
/-- EXG Dx,Ay (R561). -/
def execExgDxAy (rx ry : BitVec 3) (s : State) : Out := exchange (rx.zeroExtend 4) (8 + ry.zeroExtend 4) s

/-! ### MOVE16 (R565, R566) -/

/-- The line an operand address points into (R565). -/
def move16Line (a : Long) : Long := a &&& 0xFFFFFFF0

/-- The access of a MOVE16 to the line that an operand address points into: its cycles copy A1 and A0 of that address
(22_caches_bus R365). -/
def State.lineOf (s : State) (a : Long) : Access := s.lineAccess (a.extractLsb' 0 2)

/-- MOVE16 from `src` to `dst`: one line read, one line write; `after` makes the register updates (R566). The addresses of
both accesses have their low four bits cleared, as R566 writes them; that a fault frame shows these addresses, and that the
line is read from its first long word on, is DESIGN CHOICE (log 58). -/
def move16 (src dst : Long) (n : Nat) (after : State → State) (s : State) : Out :=
  orAbort s (s.lift (dataRead s.ctl s.mem (s.lineOf src) (move16Line src) 16)) fun bs s1 =>
    nextWith s (after s1) n [⟨move16Line dst, bs, s.lineOf dst⟩]

/-- MOVE16 (Ax)+,(Ay)+ (R566). With x = y a free value says whether the register ends at +16 or +32 (93 U23). -/
def execMove16AxPlusAyPlus (ax ay : BitVec 3) (s : State) : Out :=
  move16 (s.getA ax) (s.getA ay) 2
    (fun s1 =>
      if ax = ay then
        let p := s1.draw 1
        p.2.setA ax (s.getA ax + if p.1 = 1 then 32 else 16)
      else (s1.setA ax (s.getA ax + 16)).setA ay (s.getA ay + 16)) s
/-- MOVE16 (An)+,xxx.L (R566). -/
def execMove16AnPlusXxxL (an : BitVec 3) (addr : BitVec 32) (s : State) : Out :=
  move16 (s.getA an) addr 3 (fun s1 => s1.setA an (s.getA an + 16)) s
/-- MOVE16 xxx.L,(An)+ (R566). -/
def execMove16XxxLAnPlus (an : BitVec 3) (addr : BitVec 32) (s : State) : Out :=
  move16 addr (s.getA an) 3 (fun s1 => s1.setA an (s.getA an + 16)) s
/-- MOVE16 (An),xxx.L (R566). -/
def execMove16AnXxxL (an : BitVec 3) (addr : BitVec 32) (s : State) : Out := move16 (s.getA an) addr 3 id s
/-- MOVE16 xxx.L,(An) (R566). -/
def execMove16XxxLAn (an : BitVec 3) (addr : BitVec 32) (s : State) : Out := move16 addr (s.getA an) 3 id s

end Sys2Proof.Machine
end

