-- ==== Sys2Proof/Machine/FloatFormat.lean ====
section
/-! DEFINITION. Floating-point data: types and conversions (42_floating_point R682 to R693), rounding and range checks
on the exact result (R704 to R706), the FPSR (R707, R708, 10_state R78 to R81). -/

namespace Sys2Proof.Machine

/-! ### Data types (R686) -/

/-- The types of an extended-precision pattern. -/
inductive FpClass where
  | zero
  | norm
  | denorm
  | unnorm
  | inf
  | qnan
  | snan
deriving DecidableEq, Repr

/-- `class(x)` (R686). -/
def Fpr.cls (x : Fpr) : FpClass :=
  if x.e = 0x7FFF then
    if x.m.extractLsb' 0 63 = 0 then .inf else if x.m.getLsbD 62 then .qnan else .snan
  else if x.m.getLsbD 63 then .norm
  else if x.e = 0 then (if x.m = 0 then .zero else .denorm)
  else .unnorm

/-- A NAN of either kind. -/
def Fpr.isNan (x : Fpr) : Bool := x.cls = .qnan || x.cls = .snan

/-- The tag of an operand in a state frame (61_fp_exceptions R1261). -/
def Fpr.tag (x : Fpr) : BitVec 3 :=
  match x.cls with
  | .norm => 0 | .zero => 1 | .inf => 2 | .qnan => 3 | .snan => 3 | .denorm => 4 | .unnorm => 4

/-- Whether a tag says denormalized or unnormalized: 100 and 101 (R687). -/
def badTag (t : BitVec 3) : Bool := t.getLsbD 2

/-- A signaling NAN made nonsignaling, any other value as it is (R703). -/
def Fpr.quiet (x : Fpr) : Fpr := if x.cls = .snan then { x with m := x.m ||| 0x4000000000000000 } else x

/-- Infinity as the FPU creates it (D17). -/
def Fpr.infinity (s : Bool) : Fpr := ⟨s, 0x7FFF, 0⟩

/-- Zero of a sign. -/
def Fpr.zeroOf (s : Bool) : Fpr := ⟨s, 0, 0⟩

/-- The NAN the FPU creates (R686). -/
def Fpr.defaultNan : Fpr := ⟨false, 0x7FFF, 0xFFFFFFFFFFFFFFFF⟩

/-- The power of two of the least significant mantissa bit (R686). -/
def Fpr.lsbExp (x : Fpr) : Int := x.e.toNat - 16446

/-! ### External operands (R688, R692) -/

/-- Bytes of a format (R692). -/
def fmtBytes : FpFmt → Nat
  | .l => 4 | .s => 4 | .x => 12 | .p => 12 | .w => 2 | .d => 8 | .b => 1

/-- A source operand: its extended value and tag, and the bits of a packed decimal one. -/
structure FpOperand where
  v : Fpr
  tag : BitVec 3
  packed : Option (BitVec 96)
deriving DecidableEq, Repr

/-- An operand the hardware does not accept (R687). -/
def FpOperand.unsupported (x : FpOperand) : Bool := x.packed.isSome || badTag x.tag

/-- An operand that is an extended-precision value. -/
def FpOperand.ofFpr (x : Fpr) : FpOperand := ⟨x, x.tag, none⟩

/-- An integer as an extended-precision value, exact (R688). -/
def intToExt (n : Int) : Fpr :=
  if n = 0 then Fpr.zeroOf false
  else
    let k := Nat.log2 n.natAbs
    ⟨decide (n < 0), BitVec.ofNat 15 (16383 + k), BitVec.ofNat 64 (n.natAbs <<< (63 - k))⟩

/-- A single or double operand (R688): sign, exponent, fraction left-aligned below the integer bit, with the bias and
the maximum exponent of its format. A denormalized one keeps its fraction, with the format's minimum exponent. -/
def realToExt (s : Bool) (e bias top : Nat) (f : BitVec 64) : FpOperand :=
  if e = 0 then
    if f = 0 then .ofFpr (Fpr.zeroOf s) else ⟨⟨s, BitVec.ofNat 15 (16384 - bias), f⟩, 5, none⟩
  else if e = top then
    .ofFpr (if f = 0 then Fpr.infinity s else ⟨s, 0x7FFF, 0x8000000000000000 ||| f⟩)
  else .ofFpr ⟨s, BitVec.ofNat 15 (e + 16383 - bias), 0x8000000000000000 ||| f⟩

/-- `from96` (R727): the register image of twelve bytes. -/
def from96 (b : BitVec 96) : Fpr := ⟨b.getLsbD 95, b.extractLsb' 80 15, b.extractLsb' 0 64⟩

/-- `ext96` (R727). -/
def ext96 (x : Fpr) : BitVec 96 := BitVec.ofBool x.s ++ x.e ++ 0#16 ++ x.m

/-- `to_ext` (R688). -/
def toExt (f : FpFmt) (b : BitVec 96) : FpOperand :=
  match f with
  | .b => .ofFpr (intToExt (b.extractLsb' 0 8).toInt)
  | .w => .ofFpr (intToExt (b.extractLsb' 0 16).toInt)
  | .l => .ofFpr (intToExt (b.extractLsb' 0 32).toInt)
  | .s => realToExt (b.getLsbD 31) (b.extractLsb' 23 8).toNat 127 255 ((b.extractLsb' 0 23).zeroExtend 64 <<< 40)
  | .d => realToExt (b.getLsbD 63) (b.extractLsb' 52 11).toNat 1023 2047 ((b.extractLsb' 0 52).zeroExtend 64 <<< 11)
  | .x => .ofFpr (from96 b)
  | .p => ⟨from96 b, 0, some b⟩

/-! ### Rounding (R704) and range (R705, R706) -/

/-- A precision: where results are rounded and which range they must lie in. -/
inductive Prec where
  | ext
  | single
  | double
deriving DecidableEq, Repr

/-- Mantissa bits. -/
def Prec.bits : Prec → Nat
  | .ext => 64 | .single => 24 | .double => 53

/-- The least exponent that does not underflow (R705). -/
def Prec.minExp : Prec → Int
  | .ext => -16383 | .single => -126 | .double => -1022

/-- The least exponent that overflows (R706). -/
def Prec.maxExp : Prec → Int
  | .ext => 16384 | .single => 128 | .double => 1024

/-- The rounding modes (10_state R76). -/
inductive Rnd where
  | rn
  | rz
  | rm
  | rp
deriving DecidableEq, Repr

/-- FPCR.RND (10_state R76). -/
def rndOf (fpcr : Long) : Rnd :=
  match (fpcr.extractLsb' 4 2).toNat with
  | 0 => .rn | 1 => .rz | 2 => .rm | _ => .rp

/-- Whether the magnitude `q + r / 2^k`, `r < 2^k`, of sign `s` is rounded up to `q + 1` (R704). -/
def roundsUp (rnd : Rnd) (s : Bool) (q r k : Nat) : Bool :=
  match rnd with
  | .rn => decide (2 ^ k < 2 * r) || (decide (2 ^ k = 2 * r) && decide (q % 2 = 1))
  | .rz => false
  | .rm => s && decide (r ≠ 0)
  | .rp => !s && decide (r ≠ 0)

/-- An exact nonzero magnitude `n * 2^e`; a root or a quotient has its discarded tail jammed into the lowest bit of
`n`, which lies below the round bit of every precision (R689). -/
structure Exact where
  n : Nat
  e : Int
deriving DecidableEq, Repr

/-- The unbiased exponent of the normalised value: `floor(log2 v)`. -/
def Exact.exp (v : Exact) : Int := Nat.log2 v.n + v.e

/-- A rounded magnitude: exponent, mantissa with the integer bit on top, and whether bits were lost. -/
structure Rounded where
  exp : Int
  m : BitVec 64
  inexact : Bool
deriving DecidableEq, Repr

/-- `round(s, v, p, rnd)` (R704). -/
def roundTo (p : Nat) (rnd : Rnd) (s : Bool) (v : Exact) : Rounded :=
  let len := Nat.log2 v.n + 1
  if len ≤ p then ⟨v.exp, BitVec.ofNat 64 (v.n <<< (64 - len)), false⟩
  else
    let k := len - p
    let q := v.n >>> k
    let r := v.n % 2 ^ k
    let q' := if roundsUp rnd s q r k then q + 1 else q
    if q' = 2 ^ p then ⟨v.exp + 1, 0x8000000000000000, decide (r ≠ 0)⟩
    else ⟨v.exp, BitVec.ofNat 64 (q' <<< (64 - p)), decide (r ≠ 0)⟩

/-- A biased exponent, modulo its 15 bits. -/
def biased (exp : Int) : BitVec 15 := BitVec.ofInt 15 (exp + 16383)

/-- The top 64 bits of a magnitude, with guard, round and sticky (61_fp_exceptions R1219). -/
def Exact.grs (v : Exact) : BitVec 64 × Bool × Bool × Bool :=
  let w := v.n <<< 66
  let k := Nat.log2 w + 1 - 66
  let top := w >>> k
  (BitVec.ofNat 64 (top >>> 2), top.testBit 1, top.testBit 0, decide (w % 2 ^ k ≠ 0))

/-! ### The exception byte (10_state R80) -/

/-- EXC.SNAN as a mask of the EXC byte. -/
def excSnan : BitVec 8 := 0x40
/-- EXC.OPERR. -/
def excOperr : BitVec 8 := 0x20
/-- EXC.OVFL. -/
def excOvfl : BitVec 8 := 0x10
/-- EXC.UNFL. -/
def excUnfl : BitVec 8 := 0x08
/-- EXC.DZ. -/
def excDz : BitVec 8 := 0x04
/-- EXC.INEX2. -/
def excInex2 : BitVec 8 := 0x02

/-- EXC.INEX2 if a rounding was inexact. -/
def inexBit (b : Bool) : BitVec 8 := if b then excInex2 else 0

/-- The bits an EXC byte adds to the AEXC byte (10_state R81). -/
def aexcOf (x : BitVec 8) : BitVec 8 :=
  BitVec.ofBool (x.getLsbD 6 || x.getLsbD 5) ++ BitVec.ofBool (x.getLsbD 4) ++
    BitVec.ofBool (x.getLsbD 3 && x.getLsbD 1) ++ BitVec.ofBool (x.getLsbD 2) ++
    BitVec.ofBool (x.getLsbD 0 || x.getLsbD 1 || x.getLsbD 4) ++ 0#3

/-- FPCR.ENABLE (10_state R75). -/
def enableOf (fpcr : Long) : BitVec 8 := fpcr.extractLsb' 8 8

/-- The vector of the highest-priority exception in `exc` that is enabled or non-maskable (R710, 61_fp_exceptions
R1210). -/
def reported (exc enable mand : BitVec 8) : Option (BitVec 8) :=
  let t := exc &&& (enable ||| mand)
  if t.getLsbD 6 then some 54
  else if t.getLsbD 5 then some 52
  else if t.getLsbD 4 then some 53
  else if t.getLsbD 3 then some 51
  else if t.getLsbD 2 then some 50
  else if t.getLsbD 1 then some 49
  else none

/-- The exceptions that are always reported: OVFL and UNFL; SNAN and OPERR too for an integer destination (R710). -/
def mandatory (integer : Bool) : BitVec 8 := if integer then 0x78 else 0x18

/-- `cc(x)` (R708): N, Z, I, NAN. -/
def ccOf (x : Fpr) : BitVec 4 :=
  BitVec.ofBool x.s ++ BitVec.ofBool (x.cls = .zero) ++ BitVec.ofBool (x.cls = .inf) ++ BitVec.ofBool x.isNan

/-- Steps 7, 11 and 12 of R701 together: EXC is what this instruction raised, FPCC is set if there is a result, AEXC
accumulates. -/
def updateFpsr (fpsr : Long) (exc : BitVec 8) (cc : Option (BitVec 4)) : Long :=
  fpsr.extractLsb' 28 4 ++ cc.getD (fpsr.extractLsb' 24 4) ++ fpsr.extractLsb' 16 8 ++ exc ++
    (fpsr.extractLsb' 0 8 ||| aexcOf exc)

/-! ### The FPU as part of the state -/

/-- `FP[n]`. -/
def State.getFp (s : State) (n : BitVec 3) : Fpr := s.fpu.fp.get n

/-- `FP[n] <- v`. -/
def State.setFp (s : State) (n : BitVec 3) (v : Fpr) : State := { s with fpu := { s.fpu with fp := s.fpu.fp.set n v } }

/-- FPCR as it is stored (10_state R74, R76): bits 31:16 and 3:0 read as zero. -/
def State.setFpcr (s : State) (v : Long) : State := { s with fpu := { s.fpu with fpcr := v &&& 0x0000FFF0 } }

/-- FPSR as written by the user (10_state R77). -/
def State.setFpsr (s : State) (v : Long) : State := { s with fpu := { s.fpu with fpsr := v } }

/-- FPIAR. -/
def State.setFpiar (s : State) (v : Long) : State := { s with fpu := { s.fpu with fpiar := v } }

/-- The pending-exception check that begins every floating-point instruction but FSAVE and FRESTORE (R701 step 1,
61_fp_exceptions R1202): the exception is taken as a pre-instruction exception and stays pending. Otherwise the FPU
leaves the NULL state (10_state R83); which instructions do so, and that one which an access fault then aborts has done so, is
the model's reading (log 42). -/
def ifNotPending (s : State) (body : State → Out) : Out :=
  match s.fpu.pending with
  | some v => .next (trap0 s v s.pc)
  | none => body (if s.fpu.kind = .null then { s with fpu := { s.fpu with kind := .idle } } else s)

/-- Steps 3 and 4 of R701: FPIAR is loaded, and an FPU that held an unimplemented instruction goes on as idle (log 33). -/
def State.beginFp (s : State) : State :=
  { s with fpu := { s.fpu with fpiar := s.pc, kind := if s.fpu.kind = .unimp then .idle else s.fpu.kind } }

/-! ### Operands in memory (R682): long-word transfers at ascending addresses -/

/-- Read `n` long words. -/
def readLongs : Nat → State → Long → Res (BitVec 96)
  | 0, s, _ => .ok 0 s
  | n + 1, s, a =>
    (s.read a 4).bind fun v s =>
      (readLongs n s (a + 4)).bind fun r s => .ok ((v.zeroExtend 96 <<< (32 * n)) ||| r) s

/-- Read an operand of a format in memory. -/
def readFmt (s : State) (f : FpFmt) (a : Long) : Res (BitVec 96) :=
  match f with
  | .x | .p => readLongs 3 s a
  | .d => readLongs 2 s a
  | f => (s.read a (fmtBytes f)).bind fun v s => .ok (v.zeroExtend 96) s

/-- The writes of the low `n` long words of a value. -/
def longWrites (s : State) : Nat → Long → BitVec 96 → List Write
  | 0, _, _ => []
  | n + 1, a, v => s.writeOf a 4 (v.extractLsb' (32 * n) 32) :: longWrites s n (a + 4) v

/-- The writes that store an operand of a format. -/
def fmtWrites (s : State) (f : FpFmt) (a : Long) (v : BitVec 96) : List Write :=
  match f with
  | .x | .p => longWrites s 3 a v
  | .d => longWrites s 2 a v
  | f => [s.writeOf a (fmtBytes f) (v.extractLsb' 0 32)]

/-- The source operand of an arithmetic instruction (R701 step 5). -/
def readFpSrc (s : State) (src : FpSrc) : Res (FpOperand × Option Long) :=
  match src with
  | .fp m => .ok (.ofFpr (s.getFp m), none) s
  | .ea f e =>
    (evalEa s e (fmtBytes f) (s.after 2)).bind fun l s =>
      match l with
      | .d n => .ok (toExt f ((s.getD n).zeroExtend 96), none) s
      | .a n => .ok (toExt f ((s.getA n).zeroExtend 96), none) s
      | .imm v => .ok (toExt f v, none) s
      | .mem a => (readFmt s f a).bind fun b s => .ok (toExt f b, some a) s

/-- The length in words of an arithmetic instruction (R691). -/
def fpLength (src : FpSrc) : Nat := 2 + src.ext.length

/-- The command word of an arithmetic instruction (R691). -/
def command (src : FpSrc) (dst : BitVec 3) (op : BitVec 7) : Word := src.cmd ++ dst ++ op

end Sys2Proof.Machine
end

