-- ==== Sys2Proof/Machine/FloatArith.lean ====
section
/-! DEFINITION. Floating-point arithmetic (42_floating_point R701 to R746), the frame fields of its exceptions
(61_fp_exceptions R1204, R1216 to R1221), and the instructions left to software (R775). -/

namespace Sys2Proof.Machine

/-- The operations the hardware executes (R700). -/
inductive FpOp where
  | move
  | sqrt
  | abs
  | neg
  | div
  | add
  | mul
  | sub
  | cmp
  | tst
deriving DecidableEq, Repr

/-- The operations with a destination operand (R701 step 5). -/
def FpOp.dyadic : FpOp → Bool
  | .div | .add | .mul | .sub | .cmp => true
  | _ => false

/-- The operations whose OVFL, UNFL and INEX2 are found in the normalization unit: E3 (61_fp_exceptions R1261). -/
def FpOp.nu : FpOp → Bool
  | .div | .add | .mul | .sub | .sqrt => true
  | _ => false

/-! ### The exact result (step 9 of R701) -/

/-- A result before rounding. -/
inductive Raw where
  | value (x : Fpr)
  | finite (s : Bool) (v : Exact)
  | operandError
  | divideByZero (s : Bool)
deriving DecidableEq, Repr

/-- The exact magnitude of a finite value. -/
def Fpr.mag (x : Fpr) : Exact := ⟨x.m.toNat, x.lsbExp⟩

/-- A value with its sign replaced (R720, R730, R732). -/
def rawMove (s : Bool) (x : Fpr) : Raw :=
  match x.cls with
  | .zero => .value (Fpr.zeroOf s)
  | .inf => .value (Fpr.infinity s)
  | _ => .finite s x.mag

/-- The value of a finite operand in units of `2^e`, `e` at most its own exponent. -/
def Fpr.scaled (x : Fpr) (e : Int) : Int :=
  let n : Int := (x.m.toNat <<< (x.lsbExp - e).toNat : Nat)
  if x.s then -n else n

/-- The sum of two operands; `rm` says that the rounding mode is RM (R737). -/
def rawAdd (rm : Bool) (dst src : Fpr) : Raw :=
  if dst.cls = .inf then
    if src.cls = .inf ∧ dst.s ≠ src.s then .operandError else .value (Fpr.infinity dst.s)
  else if src.cls = .inf then .value (Fpr.infinity src.s)
  else
    let e := min dst.lsbExp src.lsbExp
    let v := dst.scaled e + src.scaled e
    if v = 0 then .value (Fpr.zeroOf (if dst.s = src.s then dst.s else rm))
    else .finite (decide (v < 0)) ⟨v.natAbs, e⟩

/-- The product (R741). -/
def rawMul (dst src : Fpr) : Raw :=
  let s := dst.s != src.s
  if dst.cls = .inf ∨ src.cls = .inf then
    if dst.cls = .zero ∨ src.cls = .zero then .operandError else .value (Fpr.infinity s)
  else if dst.cls = .zero ∨ src.cls = .zero then .value (Fpr.zeroOf s)
  else .finite s ⟨dst.m.toNat * src.m.toNat, dst.lsbExp + src.lsbExp⟩

/-- A quotient of nonzero magnitudes to at least 66 bits, the remainder jammed. -/
def quotient (a b : Exact) : Exact :=
  let q := (a.n <<< 130) / b.n
  ⟨2 * q + (if q * b.n = a.n <<< 130 then 0 else 1), a.e - b.e - 131⟩

/-- The quotient destination by source (R743). -/
def rawDiv (dst src : Fpr) : Raw :=
  let s := dst.s != src.s
  if dst.cls = .inf then
    if src.cls = .inf then .operandError else .value (Fpr.infinity s)
  else if src.cls = .inf then .value (Fpr.zeroOf s)
  else if src.cls = .zero then
    if dst.cls = .zero then .operandError else .divideByZero s
  else if dst.cls = .zero then .value (Fpr.zeroOf s)
  else .finite s (quotient dst.mag src.mag)

/-- The integer square root of `n`, by bits `k - 1` down to 0 on top of `r`. -/
def isqrt : Nat → Nat → Nat → Nat
  | 0, _, r => r
  | k + 1, n, r => if (r + 2 ^ k) * (r + 2 ^ k) ≤ n then isqrt k n (r + 2 ^ k) else isqrt k n r

/-- The root of a magnitude of at most 64 bits, to at least 66 bits, the remainder jammed. -/
def root (v : Exact) : Exact :=
  let k : Nat := if (v.e - 132) % 2 = 0 then 132 else 133
  let r := isqrt 99 (v.n <<< k) 0
  ⟨2 * r + (if r * r = v.n <<< k then 0 else 1), (v.e - k) / 2 - 1⟩

/-- The square root (R734). -/
def rawSqrt (src : Fpr) : Raw :=
  if src.cls = .zero then .value (Fpr.zeroOf src.s)
  else if src.s then .operandError
  else if src.cls = .inf then .value (Fpr.infinity false)
  else .finite false (root src.mag)

/-- The exact result of an operation on operands that are no NANs. -/
def rawOf (op : FpOp) (rnd : Rnd) (dst src : Fpr) : Raw :=
  match op with
  | .move => rawMove src.s src
  | .abs => rawMove false src
  | .neg => rawMove (!src.s) src
  | .sqrt => rawSqrt src
  | .add => rawAdd (rnd = .rm) dst src
  | .sub => rawAdd (rnd = .rm) dst { src with s := !src.s }
  | .mul => rawMul dst src
  | .div => rawDiv dst src
  | .cmp => .value src
  | .tst => .value src

/-! ### The outcome of an operation (steps 8 to 11 of R701) -/

/-- The exceptional operand of an overflow or an underflow. -/
inductive Exceptional where
  | none
  | overflow (s : Bool) (r : Rounded)
  | underflow (s : Bool) (v : Exact)
deriving DecidableEq, Repr

/-- What an operation does: the EXC byte, the value written to the destination register if there is one, the
condition codes if they are set. -/
structure FpOutcome where
  exc : BitVec 8
  result : Option Fpr
  cc : Option (BitVec 4)
  exceptional : Exceptional
deriving DecidableEq, Repr

/-- A written result sets the condition codes from its value (R708). -/
def FpOutcome.writes (exc : BitVec 8) (x : Fpr) : FpOutcome := ⟨exc, some x, some (ccOf x), .none⟩

/-- A destination left as it was (D20). -/
def FpOutcome.keeps (exc : BitVec 8) (e : Exceptional) : FpOutcome := ⟨exc, none, none, e⟩

/-- Range checks and rounding of an exact result (R704 to R706), operand error and divide by zero (R736). -/
def finish (p : Prec) (rnd : Rnd) (enable : BitVec 8) (r : Raw) : FpOutcome :=
  match r with
  | .value x => .writes 0 x
  | .operandError => if enable.getLsbD 5 then .keeps excOperr .none else .writes excOperr Fpr.defaultNan
  | .divideByZero s => if enable.getLsbD 2 then .keeps excDz .none else .writes excDz (Fpr.infinity s)
  | .finite s v =>
    if v.exp < p.minExp then .keeps excUnfl (.underflow s v)
    else
      let r := roundTo p.bits rnd s v
      if p.maxExp ≤ r.exp then .keeps (excOvfl ||| inexBit r.inexact) (.overflow s r)
      else .writes (inexBit r.inexact) ⟨s, biased r.exp, r.m⟩

/-- The NAN that an operation with a NAN operand returns (R703). -/
def nanResult (dst : Option Fpr) (src : Fpr) : Fpr :=
  match dst with
  | some d => if d.isNan then d.quiet else src.quiet
  | none => src.quiet

/-- `dst < src` for operands that are no NANs (R745). -/
def fpLess (dst src : Fpr) : Bool :=
  if dst.cls = .inf ∧ src.cls = .inf then dst.s && !src.s
  else if dst.cls = .inf then dst.s
  else if src.cls = .inf then !src.s
  else
    let e := min dst.lsbExp src.lsbExp
    decide (dst.scaled e < src.scaled e)

/-- The condition codes of FCMP on operands that are no NANs (R745). -/
def compareCc (dst src : Fpr) : BitVec 4 :=
  if fpLess dst src then 0b1000
  else if fpLess src dst then 0
  else BitVec.ofBool dst.s ++ 0b100#3

/-- Steps 8 to 11 of R701: `dst` is the destination operand of a dyadic operation. -/
def calculate (op : FpOp) (p : Prec) (rnd : Rnd) (enable : BitVec 8) (dst : Option Fpr) (src : Fpr) : FpOutcome :=
  let signaling := src.cls = .snan || dst.any (·.cls = .snan)
  let nan := src.isNan || dst.any (·.isNan)
  let exc : BitVec 8 := if signaling then excSnan else 0
  match op with
  | .cmp => ⟨exc, none, some (if nan then 1 else compareCc (dst.getD src) src), .none⟩
  | .tst => ⟨exc, none, some (ccOf src), .none⟩
  | op =>
    if nan then
      if signaling && enable.getLsbD 6 then .keeps exc .none else .writes exc (nanResult dst src)
    else finish p rnd enable (rawOf op rnd (dst.getD src) src)

/-! ### Frame fields -/

/-- Frame fields all of whose values are free (93 U33, U34), from bits. -/
def frameOfBits (b : BitVec 380) : FpuFrame :=
  { cmd1 := b.extractLsb' 0 16
    cmd3 := b.extractLsb' 16 16
    cuSavePc := b.extractLsb' 32 32
    e1 := false
    e3 := false
    t := false
    stag := b.extractLsb' 64 3
    dtag := b.extractLsb' 67 3
    etemp := ⟨b.getLsbD 70, b.extractLsb' 71 15, b.extractLsb' 86 64⟩
    fptemp := ⟨b.getLsbD 150, b.extractLsb' 151 15, b.extractLsb' 166 64⟩
    wbts := b.getLsbD 230
    wbte := b.extractLsb' 231 16
    wbtm := b.extractLsb' 247 67
    sbit := b.getLsbD 314
    fpiarcu := b.extractLsb' 315 32
    vector := 0
    toReg := b.getLsbD 347
    dest := b.extractLsb' 348 32 }

/-- Whether a command word is FMOVECR (R691, R775). -/
def fmovecrWord (cmd : Word) : Bool := cmd.extractLsb' 10 6 == 0b010111

/-- Whether a command word is that of FSQRT, operation code $04 (R734). -/
def fsqrtWord (cmd : Word) : Bool :=
  cmd.extractLsb' 0 7 == 0x04 && (cmd.extractLsb' 13 3 == 0 || cmd.extractLsb' 13 3 == 2) && !fmovecrWord cmd

/-- A command word as CMDREG1B shows it: FSQRT's $04 reads $05, all other words map directly (61_fp_exceptions R1261,
R1262). -/
def mappedCommand (cmd : Word) : Word := if fsqrtWord cmd then cmd ||| 1 else cmd

/-- CMDREG3B for a command word as CMDREG1B shows it: FSQRT's $05 maps to $21, the rest of the mapping is open (R1262). That it has
16 bits, of which $21 is in the low six, is DESIGN CHOICE: no rule gives its width (log 16). -/
def cmdreg3bOf (cmd : Word) : Word :=
  if cmd.extractLsb' 0 7 = 0x05 then (Config.cmdreg3b cmd).extractLsb' 6 10 ++ 0x21#6 else Config.cmdreg3b cmd

/-- The fields of an E1 exception that every rule gives: CMDREG1B, FPIARCU, E1, T. -/
def FpuFrame.e1Of (f : FpuFrame) (cmd : Word) (pc : Long) (t : Bool) : FpuFrame :=
  { f with cmd1 := mappedCommand cmd, fpiarcu := pc, e1 := true, t := t }

/-- The operands: ETEMP and STAG, FPTEMP and DTAG. -/
def FpuFrame.operands (f : FpuFrame) (src : FpOperand) (dst : Option Fpr) : FpuFrame :=
  let f :=
    match src.packed with
    | none => { f with etemp := src.v, stag := src.tag }
    | some b =>
      { f with etemp := { f.etemp with m := b.extractLsb' 0 64 }
               fptemp := { f.fptemp with m := f.fptemp.m.extractLsb' 32 32 ++ b.extractLsb' 64 32 } }
  match dst with
  | none => f
  | some d => if src.packed.isSome then { f with dtag := d.tag } else { f with fptemp := d, dtag := d.tag }

/-- An operand with its SNAN bit set (61_fp_exceptions R1216). -/
def FpOperand.quiet (x : FpOperand) : FpOperand := { x with v := x.v.quiet }

/-- The intermediate result of the normalization unit in WBTEMP (61_fp_exceptions R1218, R1219). -/
def FpuFrame.wbtemp (f : FpuFrame) (s : Bool) (e15 : Bool) (exp : Int) (m : BitVec 64) (guard round sticky : Bool) :
    FpuFrame :=
  { f with wbts := s, wbte := BitVec.ofBool e15 ++ biased exp
           wbtm := 0#1 ++ m ++ BitVec.ofBool guard ++ BitVec.ofBool round, sbit := sticky }

/-- The frame fields of a reported arithmetic exception of an opclass 000 or 010 instruction (61_fp_exceptions R1216
to R1221); `f` has every field free. -/
def arithFrame (op : FpOp) (cmd : Word) (pc : Long) (vector : BitVec 8) (o : FpOutcome) (src : FpOperand)
    (dst : Option Fpr) (f : FpuFrame) : FpuFrame :=
  let nu : FpuFrame := { f with cmd3 := cmdreg3bOf (mappedCommand cmd), e3 := true }
  let cu := f.e1Of cmd pc false
  match vector.toNat, o.exceptional with
  | 53, .overflow s r =>
    if op.nu then nu.wbtemp s false r.exp r.m false false false
    else { cu with etemp := ⟨s, biased r.exp, r.m⟩, stag := 0 }
  | 51, .underflow s v =>
    let g := v.grs
    if op.nu then nu.wbtemp s true v.exp g.1 g.2.1 g.2.2.1 g.2.2.2
    else { cu with fptemp := ⟨s, biased v.exp, g.1⟩, stag := 0 }
  | 49, _ => if op.nu then nu else cu
  | _, _ => cu.operands src.quiet (dst.map Fpr.quiet)

/-- A free value for the frame fields that no rule gives. -/
def State.drawFrame (s : State) : FpuFrame × State := (frameOfBits (s.draw 380).1, (s.draw 380).2)

/-- Post an exception: it waits for the next floating-point instruction (61_fp_exceptions R1202). -/
def State.post (s : State) (vector : BitVec 8) (f : FpuFrame) : State :=
  { s with fpu := { s.fpu with
      pending := some vector, kind := .busy, frame := { f with vector := vector.extractLsb' 0 3 } } }

/-! ### Executing an arithmetic instruction -/

/-- The precision of an operation: the one the instruction names (R715), or FPCR.PREC; the reserved code 11 is one of
the three by a free value (93 U2). -/
def State.prec (s : State) (forced : Option Prec) : Prec × State :=
  match forced with
  | some p => (p, s)
  | none =>
    match (s.fpu.fpcr.extractLsb' 6 2).toNat with
    | 0 => (.ext, s)
    | 1 => (.single, s)
    | 2 => (.double, s)
    | _ =>
      let d := s.draw 2
      (if d.1 = 1 then .single else if d.1 = 2 then .double else .ext, d.2)

/-- Steps 7 to 13 of R701 for an instruction with destination register `dn`: `src` and `dst` are the operands. AEXC is
updated also where an enabled exception leaves the register unwritten (R707; log 53). -/
def runFp (op : FpOp) (forced : Option Prec) (cmd : Word) (dn : BitVec 3) (src : FpOperand) (dst : Option Fpr)
    (s : State) : State :=
  let p := s.prec forced
  let s := p.2
  let enable := enableOf s.fpu.fpcr
  let o := calculate op p.1 (rndOf s.fpu.fpcr) enable dst src.v
  let s := { s with fpu := { s.fpu with fpsr := updateFpsr s.fpu.fpsr o.exc o.cc } }
  let s := match o.result with
    | some x => s.setFp dn x
    | none => s
  match reported o.exc enable (mandatory false) with
  | none => s
  | some v =>
    let d := s.drawFrame
    d.2.post v (arithFrame op cmd s.fpu.fpiar v o src dst d.1)

/-- Steps 3 to 13 of R701 for opclass 000 and 010: an operand the hardware does not accept posts vector 55 and
changes nothing else (R687, 61_fp_exceptions R1204). -/
def fpArith (op : FpOp) (forced : Option Prec) (code : BitVec 7) (src : FpSrc) (dn : BitVec 3) (s : State) : Out :=
  ifNotPending s fun s0 =>
    let s0 := s0.beginFp
    orAbort s0 (readFpSrc s0 src) fun x s =>
      let dst := if op.dyadic then some (s.getFp dn) else none
      let cmd := command src dn code
      if x.1.unsupported || dst.any (badTag ·.tag) then
        let d := s.drawFrame
        next s0 (d.2.post 55 ((d.1.e1Of cmd s0.pc false).operands x.1 dst)) (fpLength src)
      else next s0 (runFp op forced cmd dn x.1 dst s) (fpLength src)

/-- FMOVE to FPn (R720). -/
def execFmoveEaFpmFpn (src : FpSrc) (dst : BitVec 3) (s : State) : Out := fpArith .move none 0x00 src dst s
/-- FSMOVE (R721). -/
def execFsmove (src : FpSrc) (dst : BitVec 3) (s : State) : Out := fpArith .move (some .single) 0x40 src dst s
/-- FDMOVE (R721). -/
def execFdmove (src : FpSrc) (dst : BitVec 3) (s : State) : Out := fpArith .move (some .double) 0x44 src dst s
/-- FSQRT (R734). -/
def execFsqrt (src : FpSrc) (dst : BitVec 3) (s : State) : Out := fpArith .sqrt none 0x04 src dst s
/-- FSSQRT (R735). -/
def execFssqrt (src : FpSrc) (dst : BitVec 3) (s : State) : Out := fpArith .sqrt (some .single) 0x41 src dst s
/-- FDSQRT (R735). -/
def execFdsqrt (src : FpSrc) (dst : BitVec 3) (s : State) : Out := fpArith .sqrt (some .double) 0x45 src dst s
/-- FABS (R730). -/
def execFabs (src : FpSrc) (dst : BitVec 3) (s : State) : Out := fpArith .abs none 0x18 src dst s
/-- FSABS (R731). -/
def execFsabs (src : FpSrc) (dst : BitVec 3) (s : State) : Out := fpArith .abs (some .single) 0x58 src dst s
/-- FDABS (R731). -/
def execFdabs (src : FpSrc) (dst : BitVec 3) (s : State) : Out := fpArith .abs (some .double) 0x5C src dst s
/-- FNEG (R732). -/
def execFneg (src : FpSrc) (dst : BitVec 3) (s : State) : Out := fpArith .neg none 0x1A src dst s
/-- FSNEG (R733). -/
def execFsneg (src : FpSrc) (dst : BitVec 3) (s : State) : Out := fpArith .neg (some .single) 0x5A src dst s
/-- FDNEG (R733). -/
def execFdneg (src : FpSrc) (dst : BitVec 3) (s : State) : Out := fpArith .neg (some .double) 0x5E src dst s
/-- FDIV (R743). -/
def execFdiv (src : FpSrc) (dst : BitVec 3) (s : State) : Out := fpArith .div none 0x20 src dst s
/-- FSDIV (R744). -/
def execFsdiv (src : FpSrc) (dst : BitVec 3) (s : State) : Out := fpArith .div (some .single) 0x60 src dst s
/-- FDDIV (R744). -/
def execFddiv (src : FpSrc) (dst : BitVec 3) (s : State) : Out := fpArith .div (some .double) 0x64 src dst s
/-- FADD (R737). -/
def execFadd (src : FpSrc) (dst : BitVec 3) (s : State) : Out := fpArith .add none 0x22 src dst s
/-- FSADD (R738). -/
def execFsadd (src : FpSrc) (dst : BitVec 3) (s : State) : Out := fpArith .add (some .single) 0x62 src dst s
/-- FDADD (R738). -/
def execFdadd (src : FpSrc) (dst : BitVec 3) (s : State) : Out := fpArith .add (some .double) 0x66 src dst s
/-- FMUL (R741). -/
def execFmul (src : FpSrc) (dst : BitVec 3) (s : State) : Out := fpArith .mul none 0x23 src dst s
/-- FSMUL (R742). -/
def execFsmul (src : FpSrc) (dst : BitVec 3) (s : State) : Out := fpArith .mul (some .single) 0x63 src dst s
/-- FDMUL (R742). -/
def execFdmul (src : FpSrc) (dst : BitVec 3) (s : State) : Out := fpArith .mul (some .double) 0x67 src dst s
/-- FSUB (R739). -/
def execFsub (src : FpSrc) (dst : BitVec 3) (s : State) : Out := fpArith .sub none 0x28 src dst s
/-- FSSUB (R740). -/
def execFssub (src : FpSrc) (dst : BitVec 3) (s : State) : Out := fpArith .sub (some .single) 0x68 src dst s
/-- FDSUB (R740). -/
def execFdsub (src : FpSrc) (dst : BitVec 3) (s : State) : Out := fpArith .sub (some .double) 0x6C src dst s
/-- FCMP (R745). -/
def execFcmp (src : FpSrc) (dst : BitVec 3) (s : State) : Out := fpArith .cmp none 0x38 src dst s
/-- FTST (R746). -/
def execFtst (src : FpSrc) (dst : BitVec 3) (s : State) : Out := fpArith .tst none 0x3A src dst s

/-! ### Instructions the hardware does not implement (R775, 61_fp_exceptions R1202 b) -/

/-- The F-line exception of an unimplemented instruction of `n` words, operands latched: vector 11, the next
instruction stacked, ADDRESS the calculated effective address, free if there is no memory operand. A bus-errored push
that waits is reported first, with CU set (60_exceptions R1097; log 20). The frame stands for vector 55 (log 34). -/
def unimplementedTrap (s0 s : State) (f : FpuFrame) (n : Nat) (ea : Option Long) : Out :=
  let s := { s with fpu := { s.fpu with kind := .unimp, frame := { f with vector := 7 } } }
  let p : Long × State := match ea with
    | some a => (a, s)
    | none => s.draw 32
  if !p.2.mem.pushFaults.isEmpty then
    .next { s0.settleTrace p.2 false with pc := s0.after n, fpDue := some (.unimp p.1) }
  else .next (trap2 p.2 11 (s0.after n) p.1)

/-- An unimplemented instruction: the operand is fetched, converted and latched; FP registers, FPSR and FPIAR stay. -/
def unimplemented (code : BitVec 7) (dyadic : Bool) (src : FpSrc) (dn : BitVec 3) (s : State) : Out :=
  ifNotPending s fun s0 =>
    orAbort s0 (readFpSrc s0 src) fun x s =>
      let dst := if dyadic then some (s.getFp dn) else none
      let d := s.drawFrame
      let f := (d.1.e1Of (command src dn code) s0.pc false).operands x.1 dst
      unimplementedTrap s0 d.2 { f with e1 := x.1.unsupported || dst.any (badTag ·.tag) } (fpLength src) x.2

/-- FINT, unimplemented (R775). -/
def execFintUnimplemented (src : FpSrc) (dst : BitVec 3) (s : State) : Out := unimplemented 0x01 false src dst s
/-- FSINH, unimplemented (R775). -/
def execFsinhUnimplemented (src : FpSrc) (dst : BitVec 3) (s : State) : Out := unimplemented 0x02 false src dst s
/-- FINTRZ, unimplemented (R775). -/
def execFintrzUnimplemented (src : FpSrc) (dst : BitVec 3) (s : State) : Out := unimplemented 0x03 false src dst s
/-- FLOGNP1, unimplemented (R775). -/
def execFlognp1Unimplemented (src : FpSrc) (dst : BitVec 3) (s : State) : Out := unimplemented 0x06 false src dst s
/-- FETOXM1, unimplemented (R775). -/
def execFetoxm1Unimplemented (src : FpSrc) (dst : BitVec 3) (s : State) : Out := unimplemented 0x08 false src dst s
/-- FTANH, unimplemented (R775). -/
def execFtanhUnimplemented (src : FpSrc) (dst : BitVec 3) (s : State) : Out := unimplemented 0x09 false src dst s
/-- FATAN, unimplemented (R775). -/
def execFatanUnimplemented (src : FpSrc) (dst : BitVec 3) (s : State) : Out := unimplemented 0x0A false src dst s
/-- FASIN, unimplemented (R775). -/
def execFasinUnimplemented (src : FpSrc) (dst : BitVec 3) (s : State) : Out := unimplemented 0x0C false src dst s
/-- FATANH, unimplemented (R775). -/
def execFatanhUnimplemented (src : FpSrc) (dst : BitVec 3) (s : State) : Out := unimplemented 0x0D false src dst s
/-- FSIN, unimplemented (R775). -/
def execFsinUnimplemented (src : FpSrc) (dst : BitVec 3) (s : State) : Out := unimplemented 0x0E false src dst s
/-- FTAN, unimplemented (R775). -/
def execFtanUnimplemented (src : FpSrc) (dst : BitVec 3) (s : State) : Out := unimplemented 0x0F false src dst s
/-- FETOX, unimplemented (R775). -/
def execFetoxUnimplemented (src : FpSrc) (dst : BitVec 3) (s : State) : Out := unimplemented 0x10 false src dst s
/-- FTWOTOX, unimplemented (R775). -/
def execFtwotoxUnimplemented (src : FpSrc) (dst : BitVec 3) (s : State) : Out := unimplemented 0x11 false src dst s
/-- FTENTOX, unimplemented (R775). -/
def execFtentoxUnimplemented (src : FpSrc) (dst : BitVec 3) (s : State) : Out := unimplemented 0x12 false src dst s
/-- FLOGN, unimplemented (R775). -/
def execFlognUnimplemented (src : FpSrc) (dst : BitVec 3) (s : State) : Out := unimplemented 0x14 false src dst s
/-- FLOG10, unimplemented (R775). -/
def execFlog10Unimplemented (src : FpSrc) (dst : BitVec 3) (s : State) : Out := unimplemented 0x15 false src dst s
/-- FLOG2, unimplemented (R775). -/
def execFlog2Unimplemented (src : FpSrc) (dst : BitVec 3) (s : State) : Out := unimplemented 0x16 false src dst s
/-- FCOSH, unimplemented (R775). -/
def execFcoshUnimplemented (src : FpSrc) (dst : BitVec 3) (s : State) : Out := unimplemented 0x19 false src dst s
/-- FACOS, unimplemented (R775). -/
def execFacosUnimplemented (src : FpSrc) (dst : BitVec 3) (s : State) : Out := unimplemented 0x1C false src dst s
/-- FCOS, unimplemented (R775). -/
def execFcosUnimplemented (src : FpSrc) (dst : BitVec 3) (s : State) : Out := unimplemented 0x1D false src dst s
/-- FGETEXP, unimplemented (R775). -/
def execFgetexpUnimplemented (src : FpSrc) (dst : BitVec 3) (s : State) : Out := unimplemented 0x1E false src dst s
/-- FGETMAN, unimplemented (R775). -/
def execFgetmanUnimplemented (src : FpSrc) (dst : BitVec 3) (s : State) : Out := unimplemented 0x1F false src dst s
/-- FMOD, unimplemented (R775). -/
def execFmodUnimplemented (src : FpSrc) (dst : BitVec 3) (s : State) : Out := unimplemented 0x21 true src dst s
/-- FSGLDIV, unimplemented (R775). -/
def execFsgldivUnimplemented (src : FpSrc) (dst : BitVec 3) (s : State) : Out := unimplemented 0x24 true src dst s
/-- FREM, unimplemented (R775). -/
def execFremUnimplemented (src : FpSrc) (dst : BitVec 3) (s : State) : Out := unimplemented 0x25 true src dst s
/-- FSCALE, unimplemented (R775). -/
def execFscaleUnimplemented (src : FpSrc) (dst : BitVec 3) (s : State) : Out := unimplemented 0x26 true src dst s
/-- FSGLMUL, unimplemented (R775). -/
def execFsglmulUnimplemented (src : FpSrc) (dst : BitVec 3) (s : State) : Out := unimplemented 0x27 true src dst s
/-- FSINCOS, unimplemented (R775): the cosine register is in the operation code. -/
def execFsincosUnimplemented (src : FpSrc) (dst dc : BitVec 3) (s : State) : Out :=
  unimplemented (0b0110#4 ++ dc) false src dst s
/-- FMOVECR, unimplemented (R775): it has no operand to latch. -/
def execFmovecrUnimplemented (dst : BitVec 3) (off : BitVec 7) (s : State) : Out :=
  ifNotPending s fun s0 =>
    let d := s0.drawFrame
    let f := d.1.e1Of (0b010111#6 ++ dst ++ off) s0.pc false
    unimplementedTrap s0 d.2 { f with e1 := false } 2 none

end Sys2Proof.Machine
end

