-- ==== Sys2Proof/Machine/FloatMove.lean ====
section
/-! DEFINITION. FMOVE to memory and Dn (42_floating_point R723 to R725), moves of control registers (R726, R728) and of
several data registers (R727). -/

namespace Sys2Proof.Machine

/-! ### The value stored -/

/-- What a store finds: the EXC byte, the bits stored (`none`: undefined, 93 U27), and the exceptional operand. -/
structure FpStored where
  exc : BitVec 8
  bits : Option (BitVec 96)
  exceptional : Exceptional
  /-- The rounded integer of an integer store (61_fp_exceptions R1217). -/
  integer : Option Int
deriving DecidableEq, Repr

/-- The fields of a single or double operand. -/
def packReal (f : FpFmt) (s : Bool) (e : Int) (m : BitVec 64) : BitVec 96 :=
  if f = .s then ((BitVec.ofBool s ++ BitVec.ofInt 8 (e + 127) ++ m.extractLsb' 40 23 : BitVec 32)).zeroExtend 96
  else ((BitVec.ofBool s ++ BitVec.ofInt 11 (e + 1023) ++ m.extractLsb' 11 52 : BitVec 64)).zeroExtend 96

/-- The precision of a floating-point destination format (R704). -/
def storePrec (f : FpFmt) : Prec := if f = .s then .single else .double

/-- FMOVE.S and FMOVE.D (R723). -/
def storeReal (f : FpFmt) (rnd : Rnd) (x : Fpr) : FpStored :=
  let p := storePrec f
  match x.cls with
  | .zero => ⟨0, some (packReal f x.s (p.minExp - 1) 0), .none, none⟩
  | .inf => ⟨0, some (packReal f x.s p.maxExp 0), .none, none⟩
  | .qnan => ⟨0, some (packReal f x.s p.maxExp x.m), .none, none⟩
  | .snan => ⟨excSnan, some (packReal f x.s p.maxExp x.quiet.m), .none, none⟩
  | _ =>
    if x.mag.exp < p.minExp then ⟨excUnfl, none, .underflow x.s x.mag, none⟩
    else
      let r := roundTo p.bits rnd x.s x.mag
      if p.maxExp ≤ r.exp then ⟨excOvfl ||| inexBit r.inexact, none, .overflow x.s r, none⟩
      else ⟨inexBit r.inexact, some (packReal f x.s r.exp r.m), .none, none⟩

/-- FMOVE.X (R723): a bit copy, but for the SNAN bit. -/
def storeExt (x : Fpr) : FpStored :=
  ⟨if x.cls = .snan then excSnan else 0, some (ext96 x.quiet), .none, none⟩

/-- The magnitude of a value rounded to an integer, and whether bits were lost (R724). -/
def roundInt (rnd : Rnd) (x : Fpr) : Nat × Bool :=
  if 0 ≤ x.lsbExp then (x.m.toNat <<< x.lsbExp.toNat, false)
  else
    let k := (-x.lsbExp).toNat
    let q := x.m.toNat >>> k
    let r := x.m.toNat % 2 ^ k
    (if roundsUp rnd x.s q r k then q + 1 else q, decide (r ≠ 0))

/-- FMOVE.B, .W, .L to an integer of `n` bits (R724). The most negative integer is reported as an operand error: the
hardware erratum. -/
def storeInt (n : Nat) (rnd : Rnd) (x : Fpr) : FpStored :=
  match x.cls with
  | .zero => ⟨0, some 0, .none, none⟩
  | .inf => ⟨excOperr, none, .none, none⟩
  | .qnan => ⟨excOperr, none, .none, none⟩
  | .snan => ⟨excSnan, none, .none, none⟩
  | _ =>
    let r := roundInt rnd x
    let i : Int := if x.s then -(r.1 : Int) else r.1
    if (2 : Int) ^ (n - 1) - 1 < i ∨ i ≤ -(2 : Int) ^ (n - 1) then
      ⟨excOperr ||| inexBit r.2, none, .none, some i⟩
    else ⟨inexBit r.2, some (BitVec.ofInt 96 i), .none, none⟩

/-- The store of each format. P is never converted (R725): `fpMoveOut` and `continueFp` make no store of it, and its bits
stand for no value. -/
def storeOf (f : FpFmt) (rnd : Rnd) (x : Fpr) : FpStored :=
  match f with
  | .b => storeInt 8 rnd x
  | .w => storeInt 16 rnd x
  | .l => storeInt 32 rnd x
  | .s | .d => storeReal f rnd x
  | .x => storeExt x
  | .p => ⟨0, none, .none, none⟩

/-- Whether a destination format is an integer one. -/
def integerFmt (f : FpFmt) : Bool :=
  match f with
  | .b | .w | .l => true
  | _ => false

/-! ### Frame fields of a store (61_fp_exceptions R1216 to R1219) -/

/-- WBTEMP holding a nonzero integer. That it is normalized there, as sign, biased exponent and left-justified mantissa with
WBTE15, guard, round and sticky 0, is the model's choice (log 36). -/
def FpuFrame.integer (f : FpuFrame) (i : Int) : FpuFrame :=
  let g := (Exact.mk i.natAbs 0).grs
  f.wbtemp (decide (i < 0)) false (Nat.log2 i.natAbs) g.1 false false false

/-- The frame fields of a reported exception of a store. -/
def storeFrame (cmd : Word) (pc : Long) (vector : BitVec 8) (o : FpStored) (x : Fpr) (f : FpuFrame) : FpuFrame :=
  let cu := f.e1Of cmd pc true
  match vector.toNat, o.exceptional with
  | 53, .overflow s r => { cu with etemp := ⟨s, biased r.exp, r.m⟩, stag := 0 }
  | 51, .underflow _ _ => { cu with fptemp := x, stag := 0 }
  | 49, _ => cu
  | _, _ =>
    let cu := { cu with etemp := x.quiet, stag := x.tag }
    match o.integer with
    | some i => cu.integer i
    | none => cu

/-! ### Ending a store -/

/-- The effective address a post-instruction frame shows: the destination's, free for Dn (61_fp_exceptions R1203). -/
def State.postEa (s : State) (l : Loc) : Long × State :=
  match l with
  | .mem a => (a, s)
  | _ => s.draw 32

/-- End a store of `n` words: make its writes, then take the post-instruction exception if one is reported
(61_fp_exceptions R1203). An access error is taken first with CP set: that of a write (60_exceptions R1096), or of a
push that waits to be reported (R1097; log 20). -/
def endStore (s0 s : State) (n : Nat) (ws : List Write) (l : Loc) (report : Option (BitVec 8)) : Out :=
  match report with
  | none => nextWith s0 s n ws
  | some v =>
    match writeAll { s with pc := s0.after n } ws with
    | .all s =>
      let p := s.postEa l
      if !p.2.mem.pushFaults.isEmpty then
        .next { s0.settleTrace p.2 false with
          fpDue := some (.post p.1), fpu := { p.2.fpu with postPending := some v } }
      else .next (trap3 p.2 v (s0.after n) p.1)
    | .fault f w rest s =>
      if f.completes rest s.mem then
        let p := s.postEa l
        let s := { p.2 with fpu := { p.2.fpu with postPending := some v } }
        .next (writeFault s f ⟨8, p.1, traced s0.sr s.mem false, w :: rest⟩)
      else abort s0 s f

/-- Put the low bits of a value where the destination is. -/
def putFmt (s : State) (f : FpFmt) (l : Loc) (v : BitVec 96) : State × List Write :=
  match l with
  | .d n => (s.setDz (match f with | .b => .b | .w => .w | _ => .l) n (v.extractLsb' 0 32), [])
  | .mem a => (s, fmtWrites s f a v)
  | _ => (s, [])

/-- The destination of a store in the frame: the address, or the number of the data register (log 35). -/
def FpuFrame.storesTo (f : FpuFrame) (l : Loc) : FpuFrame :=
  match l with
  | .d n => { f with toReg := true, dest := n.zeroExtend 32 }
  | l => { f with toReg := false, dest := l.addr }

/-- The destination that a frame names. -/
def FpuFrame.loc (f : FpuFrame) : Loc := if f.toReg then .d (f.dest.extractLsb' 0 3) else .mem f.dest

/-- A store that reports an exception leaves the FPU BUSY with its frame (61_fp_exceptions R1203). -/
def State.postStore (s : State) (v : BitVec 8) (l : Loc) (f : FpuFrame) : State :=
  { s with fpu := { s.fpu with
      kind := .busy, frame := { f with vector := v.extractLsb' 0 3 }.storesTo l } }

/-- Steps 7 to 13 of R701 for opclass 011, ending the instruction of `n` words that began in `s0`; `cmd` and `pc` are
those of the FMOVE. -/
def runStore (s0 s : State) (f : FpFmt) (cmd : Word) (pc : Long) (x : Fpr) (l : Loc) (n : Nat) : Out :=
  let o := storeOf f (rndOf s.fpu.fpcr) x
  let s := { s with fpu := { s.fpu with fpsr := updateFpsr s.fpu.fpsr o.exc none } }
  let b := match o.bits with
    | some b => (b, s)
    | none => s.draw 96
  let p := putFmt b.2 f l b.1
  match reported o.exc (enableOf s.fpu.fpcr) (mandatory (integerFmt f)) with
  | none => endStore s0 p.1 n p.2 l none
  | some v =>
    let d := p.1.drawFrame
    endStore s0 (d.2.postStore v l (storeFrame cmd pc v o x d.1)) n p.2 l (some v)

/-- FMOVE FPm,<ea> (R723 to R725): a source the hardware does not accept, or format P, is an unimplemented data type;
nothing is written and the FPSR stays (D20, D22); An of (An)+ and -(An) is stepped (log 55). -/
def fpMoveOut (f : FpFmt) (cmd : Word) (src : BitVec 3) (ea : Ea) (s : State) : Out :=
  ifNotPending s fun s0 =>
    let s0 := s0.beginFp
    orAbort s0 (evalEa s0 ea (fmtBytes f) (s0.after 2)) fun l s =>
      let x := s.getFp src
      let n := 2 + Ea.words 1 ea
      if f = .p ∨ badTag x.tag then
        let d := s.drawFrame
        let fr := { d.1.e1Of cmd s0.pc true with etemp := x, stag := x.tag }
        endStore s0 (d.2.postStore 55 l fr) n [] l (some 55)
      else runStore s0 s f cmd s0.pc x l n

/-- The command word of a store (R693); bits that are ignored are zero (log 16). -/
def storeCommand (code src : BitVec 3) (k : BitVec 7) : Word := 0b011#3 ++ code ++ src ++ k

/-- FMOVE.L FPm,<ea> (R724). -/
def execFmoveLFpmEa (src : BitVec 3) (ea : Ea) (s : State) : Out := fpMoveOut .l (storeCommand 0 src 0) src ea s
/-- FMOVE.S FPm,<ea> (R723). -/
def execFmoveSFpmEa (src : BitVec 3) (ea : Ea) (s : State) : Out := fpMoveOut .s (storeCommand 1 src 0) src ea s
/-- FMOVE.X FPm,<ea> (R723). -/
def execFmoveXFpmEa (src : BitVec 3) (ea : Ea) (s : State) : Out := fpMoveOut .x (storeCommand 2 src 0) src ea s
/-- FMOVE.P FPm,<ea>{#k} (R725). -/
def execFmovePKFpmEa (src : BitVec 3) (k : BitVec 7) (ea : Ea) (s : State) : Out :=
  fpMoveOut .p (storeCommand 3 src k) src ea s
/-- FMOVE.W FPm,<ea> (R724). -/
def execFmoveWFpmEa (src : BitVec 3) (ea : Ea) (s : State) : Out := fpMoveOut .w (storeCommand 4 src 0) src ea s
/-- FMOVE.D FPm,<ea> (R723). -/
def execFmoveDFpmEa (src : BitVec 3) (ea : Ea) (s : State) : Out := fpMoveOut .d (storeCommand 5 src 0) src ea s
/-- FMOVE.B FPm,<ea> (R724). -/
def execFmoveBFpmEa (src : BitVec 3) (ea : Ea) (s : State) : Out := fpMoveOut .b (storeCommand 6 src 0) src ea s
/-- FMOVE.P FPm,<ea>{Dn} (R725). -/
def execFmovePDnFpmEa (src dn : BitVec 3) (ea : Ea) (s : State) : Out :=
  fpMoveOut .p (storeCommand 7 src (dn ++ 0#4)) src ea s

/-! ### Control registers (R726, R728) -/

/-- Load one control register from `<ea>`. -/
def loadControl (ea : Ea) (s : State) (f : State → Long → State) : Out :=
  ifNotPending s fun s0 => testEa s0 .l ea 2 f

/-- Store one control register to `<ea>`. -/
def storeControl (ea : Ea) (s : State) (v : State → Long) : Out :=
  ifNotPending s fun s0 => storeEa s0 .l ea 2 fun s1 => (s1, v s1)

/-- FMOVE.L <ea>,FPCR (R726). -/
def execFmoveLEaFpcr (ea : Ea) (s : State) : Out := loadControl ea s State.setFpcr
/-- FMOVE.L <ea>,FPSR (R726). -/
def execFmoveLEaFpsr (ea : Ea) (s : State) : Out := loadControl ea s State.setFpsr
/-- FMOVE.L <ea>,FPIAR (R726). -/
def execFmoveLEaFpiar (ea : Ea) (s : State) : Out := loadControl ea s State.setFpiar
/-- FMOVE.L FPCR,<ea> (R726). -/
def execFmoveLFpcrEa (ea : Ea) (s : State) : Out := storeControl ea s (·.fpu.fpcr)
/-- FMOVE.L FPSR,<ea> (R726). -/
def execFmoveLFpsrEa (ea : Ea) (s : State) : Out := storeControl ea s (·.fpu.fpsr)
/-- FMOVE.L FPIAR,<ea> (R726). -/
def execFmoveLFpiarEa (ea : Ea) (s : State) : Out := storeControl ea s (·.fpu.fpiar)

/-- Write the selected control registers from a value of one long word each, the first one most significant. -/
def setControls (regs : BitVec 3) (v : BitVec 96) (s : State) : State :=
  let fpiar := v.extractLsb' 0 32
  let fpsr := (v >>> (32 * (ctrlCount (regs &&& 1)))).extractLsb' 0 32
  let fpcr := (v >>> (32 * (ctrlCount (regs &&& 3)))).extractLsb' 0 32
  let s := if regs.getLsbD 2 then s.setFpcr fpcr else s
  let s := if regs.getLsbD 1 then s.setFpsr fpsr else s
  if regs.getLsbD 0 then s.setFpiar fpiar else s

/-- The selected control registers as a value of one long word each (R728). -/
def controlsOf (regs : BitVec 3) (s : State) : BitVec 96 :=
  let put (b : Bool) (v : Long) (acc : BitVec 96) : BitVec 96 := if b then (acc <<< 32) ||| v.zeroExtend 96 else acc
  put (regs.getLsbD 0) s.fpu.fpiar (put (regs.getLsbD 1) s.fpu.fpsr (put (regs.getLsbD 2) s.fpu.fpcr 0))

/-- FMOVEM.L <ea>,list (R728); with no register only the effective address is evaluated (D18). -/
def execFmovemLEaCtrlList (regs : BitVec 3) (ea : Ea) (s : State) : Out :=
  ifNotPending s fun s0 =>
    let k := ctrlCount regs
    orAbort s0 ((evalEa s0 ea (4 * k) (s0.after 2)).bind fun l s =>
        match l with
        | .mem a => readLongs k s a
        | .imm v => .ok v s
        | .d n => .ok ((s.getD n).zeroExtend 96) s
        | .a n => .ok ((s.getA n).zeroExtend 96) s) fun v s =>
      next s0 (setControls regs v s) (2 + Ea.words (2 * k) ea)

/-- FMOVEM.L list,<ea> (R728). -/
def execFmovemLCtrlListEa (regs : BitVec 3) (ea : Ea) (s : State) : Out :=
  ifNotPending s fun s0 =>
    let k := ctrlCount regs
    orAbort s0 (evalEa s0 ea (4 * k) (s0.after 2)) fun l s =>
      nextWith s0 s (2 + Ea.words 1 ea) (longWrites s k l.addr (controlsOf regs s))

/-! ### Several data registers (R727) -/

/-- The list of an FMOVEM: in the command word, or in Dn for modes 01 and 11 (R695). -/
def fpMask (s : State) (mode : BitVec 2) (list : BitVec 8) : BitVec 8 :=
  if mode.getLsbD 0 then (s.getD (list.extractLsb' 4 3)).extractLsb' 0 8 else list

/-- The registers a mask names, ascending; `rev` says that bit 0 is FP0 (predecrement). -/
def fpListed (mask : BitVec 8) (rev : Bool) : List (BitVec 3) :=
  [0, 1, 2, 3, 4, 5, 6, 7].filter fun n : BitVec 3 =>
    if rev then mask.getLsbD n.toNat else mask.getLsbD (7 - n.toNat)

/-- Load registers from ascending addresses. -/
def loadFps : List (BitVec 3) → State → Long → Res Unit
  | [], s, _ => .ok () s
  | n :: ns, s, a => (readLongs 3 s a).bind fun b s => loadFps ns (s.setFp n (from96 b)) (a + 12)

/-- The writes that store registers at ascending addresses. -/
def fpWrites (s : State) : List (BitVec 3) → Long → List Write
  | [], _ => []
  | n :: ns, a => longWrites s 3 a (ext96 (s.getFp n)) ++ fpWrites s ns (a + 12)

/-- The writes that store registers below an address, the last register first, each as three ascending long words. -/
def fpWritesDown (s : State) (ns : List (BitVec 3)) (base : Long) : List Write :=
  (ns.zipIdx.reverse).flatMap fun p => longWrites s 3 (base + 12 * BitVec.ofNat 32 p.2) (ext96 (s.getFp p.1))

/-- FMOVEM.X <ea>,list. A fault leaves the registers loaded so far changed (R727), and the address register as it was
(log 41). -/
def execFmovemXEaList (mode : BitVec 2) (list : BitVec 8) (ea : Ea) (s : State) : Out :=
  ifNotPending s fun s0 =>
    let regs := fpListed (fpMask s0 mode list) false
    orAbort s0 (evalEa s0 ea (12 * regs.length) (s0.after 2)) fun l s =>
      match loadFps regs s l.addr with
      | .ok _ s => next s0 s (2 + Ea.words 1 ea)
      | .fail f s => abort { s0 with fpu := s.fpu } s f

/-- FMOVEM.X list,<ea>. A write that faults aborts the instruction (60_exceptions R1096). -/
def execFmovemXListEa (mode : BitVec 2) (list : BitVec 8) (ea : Ea) (s : State) : Out :=
  ifNotPending s fun s0 =>
    let down := match ea with | .pre _ => true | _ => false
    let regs := fpListed (fpMask s0 mode list) down
    orAbort s0 (evalEa s0 ea (12 * regs.length) (s0.after 2)) fun l s =>
      completeOrAbort s0 { s with pc := s0.after (2 + Ea.words 1 ea) }
        (if down then fpWritesDown s regs l.addr else fpWrites s regs l.addr) false

end Sys2Proof.Machine
end

