-- ==== Sys2Proof/Machine/FloatCtl.lean ====
section
/-! DEFINITION. Floating-point conditionals (42_floating_point R760 to R765), FSAVE and FRESTORE (R770, R771,
61_fp_exceptions R1260 to R1263). -/

namespace Sys2Proof.Machine

/-! ### Conditionals -/

/-- FPSR.NAN (10_state R78). -/
def fpNan (fpsr : Long) : Bool := fpsr.getLsbD 24

/-- The truth value of a predicate: it depends on bits 3:0 only (the table of R760). -/
def fpTruth (pred : BitVec 5) (fpsr : Long) : Bool :=
  let n := fpsr.getLsbD 27
  let z := fpsr.getLsbD 26
  let nan := fpNan fpsr
  match (pred.extractLsb' 0 4).toNat with
  | 0 => false
  | 1 => z
  | 2 => !(nan || z || n)
  | 3 => z || !(nan || n)
  | 4 => n && !(nan || z)
  | 5 => z || (n && !nan)
  | 6 => !(nan || z)
  | 7 => !nan
  | 8 => nan
  | 9 => nan || z
  | 10 => nan || !(n || z)
  | 11 => nan || z || !n
  | 12 => nan || (n && !z)
  | 13 => nan || z || n
  | 14 => !z
  | _ => true

/-- Set EXC.BSUN. -/
def State.setBsun (s : State) : State := s.setFpsr (s.fpu.fpsr ||| 0x8000)

/-- The BSUN exception of the instruction at pc (61_fp_exceptions R1215): FPIAR stays, no field of the frame is
defined but E3, which stands for OVFL, UNFL and INEX2 of arithmetic only (R1261; log 38). -/
def takeBsun (s : State) : State :=
  let d := s.drawFrame
  let e := d.2.draw 2
  let f := { d.1 with e1 := e.1.getLsbD 0, e3 := false, t := e.1.getLsbD 1, vector := 0 }
  trap0 { e.2 with fpu := { e.2.fpu with kind := .busy, frame := f } } 48 s.pc

/-- `fcond` (R760): the pending check, then BSUN for a signaling predicate on an unordered condition, then the truth
value, given to the instruction with the state before it and the state with EXC.BSUN set if it was. -/
def fpConditional (pred : BitVec 5) (s : State) (k : Bool → State → State → Out) : Out :=
  ifNotPending s fun s0 =>
    let t := fpTruth pred s0.fpu.fpsr
    if pred.getLsbD 4 && fpNan s0.fpu.fpsr then
      if s0.fpu.fpcr.getLsbD 15 then .next (takeBsun s0.setBsun) else k t s0 s0.setBsun
    else k t s0 s0

/-- FScc (R763). -/
def execFscc (pred : BitVec 5) (ea : Ea) (s : State) : Out :=
  fpConditional pred s fun t s0 s1 =>
    orAbort s0 (evalEa s1 ea 1 (s0.after 2)) fun l s2 =>
      let p := putLoc s2 .b l (if t then 0xFF else 0)
      nextWith s0 p.1 (2 + Ea.words 1 ea) p.2

/-- FDBcc: the displacement is relative to its own address (R762). -/
def execFdbcc (pred : BitVec 5) (dn : BitVec 3) (d : BitVec 16) (s : State) : Out :=
  fpConditional pred s fun t s0 s1 =>
    if t then next s0 s1 3
    else
      let c := (s1.getD dn).extractLsb' 0 16 - 1
      let s2 := s1.setDz .w dn (c.zeroExtend 32)
      if c = 0xFFFF then next s0 s2 3 else jump s0 s2 (s0.pc + 4 + d.signExtend 32) []

/-- FTRAPcc of `n` words (R764); a traced one takes its trap only (60_exceptions R1125 d; log 17). -/
def fpTrapIf (pred : BitVec 5) (n : Nat) (s : State) : Out :=
  fpConditional pred s fun t s0 s1 =>
    if t then ownTrap s0 s1 fun s => trap2 s 7 (s0.after n) s0.pc else next s0 s1 n

/-- FTRAPcc.W (R764). -/
def execFtrapccW (pred : BitVec 5) (_imm : BitVec 16) (s : State) : Out := fpTrapIf pred 3 s
/-- FTRAPcc.L (R764). -/
def execFtrapccL (pred : BitVec 5) (_imm : BitVec 32) (s : State) : Out := fpTrapIf pred 4 s
/-- FTRAPcc (R764). -/
def execFtrapcc (pred : BitVec 5) (s : State) : Out := fpTrapIf pred 2 s

/-- FNOP: nothing but the pending check (R765). -/
def execFnop (s : State) : Out := ifNotPending s fun s0 => next s0 s0 2

/-- FBcc with displacement `d`, `n` words long; an odd target is an address error, taken or not (R761, D25). -/
def fpBranch (pred : BitVec 5) (d : Long) (n : Nat) (s : State) : Out :=
  fpConditional pred s fun t s0 s1 =>
    if t then jump s0 s1 (branchTarget s0 d) []
    else if (branchTarget s0 d).getLsbD 0 then .next (addressError s1 s0.pc (branchTarget s0 d))
    else next s0 s1 n

/-- FBcc.W (R761). -/
def execFbccW (pred : BitVec 5) (d : BitVec 16) (s : State) : Out := fpBranch pred (d.signExtend 32) 2 s
/-- FBcc.L (R761). -/
def execFbccL (pred : BitVec 5) (d : BitVec 32) (s : State) : Out := fpBranch pred d 3 s

/-! ### State frames (61_fp_exceptions R1260, R1261) -/

/-- The widths of the fields of a frame: 0 CMDREG1B, 1 CMDREG3B, 2 CU_SAVEPC, 3 E1, 4 E3, 5 T, 6 STAG, 7 DTAG, 8 to 10
ETEMP, 11 to 13 FPTEMP, 14 to 17 WBTEMP, 18 FPIARCU (R1261), 19 to 21 the model's own `vector`, `toReg`, `dest`. -/
def fieldWidths : List Nat := [16, 16, 32, 1, 1, 1, 3, 3, 1, 15, 64, 1, 15, 64, 1, 16, 67, 1, 32, 3, 1, 32]

/-- The bits from `o` of field `i` of a frame of `n` bits; none if the frame has no room for it there. -/
def fieldRange (n : Nat) (offset : Nat → Nat) (i : Nat) : Option (Nat × Nat) :=
  let w := fieldWidths.getD i 0
  if offset i + w ≤ n then some (offset i, offset i + w) else none

/-- Whether offsets are a layout of a frame of `n` bits: every field of `need` has a place, and no two fields share a bit. -/
def isLayout (n : Nat) (need : List Nat) (offset : Nat → Nat) : Bool :=
  need.all (fun i => (fieldRange n offset i).isSome) &&
    decide (((List.range 22).filterMap (fieldRange n offset)).Pairwise fun p q => p.2 ≤ q.1 ∨ q.2 ≤ p.1)

/-- The offset of a field in a frame that holds the fields of `need` in their order, one after another, and no other. -/
def plainOffset (n : Nat) (need : List Nat) (i : Nat) : Nat :=
  if need.contains i then ((need.takeWhile (· ≠ i)).map fun j => fieldWidths.getD j 0).sum else n + 1

/-- The fields that both frames hold: CMDREG1B, E1, E3, T, STAG, DTAG, ETEMP, FPTEMP, FPIARCU, and the vector the frame
stands for. All fields of R1261 have no room in the 40 bytes of the unimplemented-instruction frame. -/
def unimpFields : List Nat := [0, 3, 4, 5, 6, 7, 8, 9, 10, 11, 12, 13, 18, 19]

/-- FSAVE_LAYOUT, busy frame: the offset of each field, all of them in the frame (92_eei_decisions, OPEN; log 16). -/
def busyOffset : Nat → Nat :=
  if isLayout 768 (List.range 22) Config.busyChoice then Config.busyChoice else plainOffset 768 (List.range 22)

/-- FSAVE_LAYOUT, unimplemented-instruction frame: the offset of each field that it holds (log 16). -/
def unimpOffset : Nat → Nat :=
  if isLayout 320 unimpFields Config.unimpChoice then Config.unimpChoice else plainOffset 320 unimpFields

/-- The fields of a frame, numbered from 0, each with its width. -/
def frameFields (f : FpuFrame) : List (Nat × Nat) := [
  (16, f.cmd1.toNat), (16, f.cmd3.toNat), (32, f.cuSavePc.toNat),
  (1, f.e1.toNat), (1, f.e3.toNat), (1, f.t.toNat), (3, f.stag.toNat), (3, f.dtag.toNat),
  (1, f.etemp.s.toNat), (15, f.etemp.e.toNat), (64, f.etemp.m.toNat),
  (1, f.fptemp.s.toNat), (15, f.fptemp.e.toNat), (64, f.fptemp.m.toNat),
  (1, f.wbts.toNat), (16, f.wbte.toNat), (67, f.wbtm.toNat), (1, f.sbit.toNat),
  (32, f.fpiarcu.toNat), (3, f.vector.toNat), (1, f.toReg.toNat), (32, f.dest.toNat)]

/-- Place fields in the image of a frame of `n` bits, the first one having number `i`. -/
def placeFields (n : Nat) (offset : Nat → Nat) : Nat → List (Nat × Nat) → BitVec 768 → BitVec 768
  | _, [], img => img
  | i, (w, v) :: r, img =>
    let o := offset i
    let img' :=
      if o + w ≤ n then (img &&& ~~~(BitVec.ofNat 768 (2 ^ w - 1) <<< o)) ||| (BitVec.ofNat 768 v <<< o) else img
    placeFields n offset (i + 1) r img'

/-- Field number `i`, of `w` bits, from the image of a frame of `n` bits; `old` if the frame does not hold it. -/
def takeField (n : Nat) (offset : Nat → Nat) (img : BitVec 768) (i w : Nat) (old : BitVec w) : BitVec w :=
  if offset i + w ≤ n then img.extractLsb' (offset i) w else old

/-- The fields loaded from the image of a frame. -/
def loadFrame (n : Nat) (offset : Nat → Nat) (img : BitVec 768) (f : FpuFrame) : FpuFrame :=
  let flag (i : Nat) (old : Bool) : Bool := (takeField n offset img i 1 (BitVec.ofBool old)).getLsbD 0
  { cmd1 := takeField n offset img 0 16 f.cmd1
    cmd3 := takeField n offset img 1 16 f.cmd3
    cuSavePc := takeField n offset img 2 32 f.cuSavePc
    e1 := flag 3 f.e1
    e3 := flag 4 f.e3
    t := flag 5 f.t
    stag := takeField n offset img 6 3 f.stag
    dtag := takeField n offset img 7 3 f.dtag
    etemp := ⟨flag 8 f.etemp.s, takeField n offset img 9 15 f.etemp.e, takeField n offset img 10 64 f.etemp.m⟩
    fptemp := ⟨flag 11 f.fptemp.s, takeField n offset img 12 15 f.fptemp.e, takeField n offset img 13 64 f.fptemp.m⟩
    wbts := flag 14 f.wbts
    wbte := takeField n offset img 15 16 f.wbte
    wbtm := takeField n offset img 16 67 f.wbtm
    sbit := flag 17 f.sbit
    fpiarcu := takeField n offset img 18 32 f.fpiarcu
    vector := takeField n offset img 19 3 f.vector
    toReg := flag 20 f.toReg
    dest := takeField n offset img 21 32 f.dest }

/-- Long words after the first of the frame for a condition of the FPU (R1260). -/
def frameLongs : FpuKind → Nat
  | .unimp => 10 | .busy => 24 | _ => 0

/-- The first long word of a frame (R1260); its reserved bits are free but for the null frame. -/
def frameFirst (k : FpuKind) (free : BitVec 16) : Long :=
  if k = .null then 0 else Config.fpuVersion ++ BitVec.ofNat 8 (4 * frameLongs k) ++ free

/-- The long words after the first; bits that hold no field are free (93 U34). -/
def frameImage (k : FpuKind) (f : FpuFrame) (free : BitVec 768) : BitVec 768 :=
  match k with
  | .unimp => placeFields 320 unimpOffset 0 (frameFields f) free
  | _ => placeFields 768 busyOffset 0 (frameFields f) free

/-- The writes of the low `n` long words of an image at ascending addresses. -/
def imageWrites (s : State) : Nat → Long → BitVec 768 → List Write
  | 0, _, _ => []
  | n + 1, a, v => s.writeOf a 4 (v.extractLsb' (32 * n) 32) :: imageWrites s n (a + 4) v

/-- Read `n` long words of an image. -/
def readImage : Nat → State → Long → Res (BitVec 768)
  | 0, s, _ => .ok 0 s
  | n + 1, s, a =>
    (s.read a 4).bind fun v s =>
      (readImage n s (a + 4)).bind fun r s => .ok ((v.zeroExtend 768 <<< (32 * n)) ||| r) s

/-- FSAVE (R770): the frame for the FPU's condition is written, nothing stays pending, and the FPU is idle, or still
null (D26). The vector that the CP bit of an access error frame stands for (10_state R90, 60_exceptions R1104) is in no frame
of FSAVE and stays as it is: DESIGN CHOICE (log 60). -/
def execFsave (ea : Ea) (s : State) : Out :=
  ifSupervisor s
    (let k := s.fpu.kind
    let n := frameLongs k
    orAbort s (evalEa s ea (4 + 4 * n) (s.after 1)) fun l s1 =>
      let a := s1.draw 16
      let b := a.2.draw 768
      let s2 := b.2
      let s3 := { s2 with
        pc := s.after (1 + Ea.words 1 ea)
        fpu := { s2.fpu with pending := none, kind := if k = .null then .null else .idle } }
      completeOrAbort s s3
        (s2.writeOf l.addr 4 (frameFirst k a.1) :: imageWrites s2 n (l.addr + 4) (frameImage k s.fpu.frame b.1)) false)

/-! ### FRESTORE (R771) -/

/-- The operation and precision of an operation code; FSQRT's $04 reads $05 in a frame (R700, 61_fp_exceptions
R1262). -/
def fpOpOf (code : BitVec 7) : Option (FpOp × Option Prec) :=
  match code.toNat with
  | 0x00 => some (.move, none) | 0x40 => some (.move, some .single) | 0x44 => some (.move, some .double)
  | 0x05 => some (.sqrt, none) | 0x41 => some (.sqrt, some .single) | 0x45 => some (.sqrt, some .double)
  | 0x04 => some (.sqrt, none)
  | 0x18 => some (.abs, none) | 0x58 => some (.abs, some .single) | 0x5C => some (.abs, some .double)
  | 0x1A => some (.neg, none) | 0x5A => some (.neg, some .single) | 0x5E => some (.neg, some .double)
  | 0x20 => some (.div, none) | 0x60 => some (.div, some .single) | 0x64 => some (.div, some .double)
  | 0x22 => some (.add, none) | 0x62 => some (.add, some .single) | 0x66 => some (.add, some .double)
  | 0x23 => some (.mul, none) | 0x63 => some (.mul, some .single) | 0x67 => some (.mul, some .double)
  | 0x28 => some (.sub, none) | 0x68 => some (.sub, some .single) | 0x6C => some (.sub, some .double)
  | 0x38 => some (.cmp, none)
  | 0x3A => some (.tst, none)
  | _ => none

/-- A frame operand as the operation reads it: an unnormalized zero is zero (R709). -/
def canonical (x : Fpr) : Fpr := if x.e ≠ 0x7FFF ∧ x.m = 0 then Fpr.zeroOf x.s else x

/-- The vector that a frame stands for, one of 48 to 55 (60_exceptions R1071). -/
def FpuFrame.vectorOf (f : FpuFrame) : BitVec 8 := 0b00110#5 ++ f.vector

/-- The end of the FRESTORE of `n` words by which an interrupted instruction is completed (61_fp_exceptions R1204):
steps 7 to 13 of R701 for the command word in CMDREG1B with the operands in ETEMP and FPTEMP. A store goes to the
destination that the frame names (log 35). The hardware never stores a packed decimal operand (20_memory R156, 42_floating_point
R725, D22): its handler has written it, and such a frame leaves the FPU idle, as does a command word that no rule lets the
hardware complete. -/
def continueFp (s0 s : State) (f : FpuFrame) (n : Nat) : Out :=
  let s1 := s.setFpiar f.fpiarcu
  let pc := s0.after n
  match (f.cmd1.extractLsb' 13 3).toNat, fpOpOf (f.cmd1.extractLsb' 0 7) with
  | 3, _ =>
    let fmt := FpFmt.ofCode (f.cmd1.extractLsb' 10 3)
    if fmt = .p then complete s0 { s with pc := pc } [] false
    else runStore s0 s1 fmt f.cmd1 f.fpiarcu (canonical f.etemp) f.loc n
  | 0, some (op, p) | 2, some (op, p) =>
    if fmovecrWord f.cmd1 then complete s0 { s with pc := pc } [] false
    else
      let s2 := runFp op p f.cmd1 (f.cmd1.extractLsb' 7 3) (.ofFpr (canonical f.etemp))
        (if op.dyadic then some (canonical f.fptemp) else none) s1
      complete s0 { s2 with pc := pc } [] false
  | _, _ => complete s0 { s with pc := pc } [] false

/-- The FPU with the fields of an unimplemented-instruction or busy frame: an exception whose E1 or E3 is still set is
pending again (D26), else the FPU is idle. The vector behind a CP bit stays as it is: DESIGN CHOICE (log 60). -/
def restoreFrame (s : State) (f : FpuFrame) : State :=
  if f.e1 || f.e3 then { s with fpu := { s.fpu with pending := some f.vectorOf, kind := .busy, frame := f } }
  else { s with fpu := { s.fpu with pending := none, kind := .idle, frame := f } }

/-- Whether FRESTORE of a busy frame completes the interrupted instruction (61_fp_exceptions R1204). -/
def FpuFrame.continues (f : FpuFrame) : Bool := !f.e1 && !f.e3 && f.cuSavePc == Config.cuSavePcContinue

/-- The frame that a first long word announces (R1260): how many long words follow, and which kind it is. -/
def frameKind (first : Long) : Option FpuKind :=
  if first.extractLsb' 24 8 = 0 then some .null
  else if first.extractLsb' 24 8 ≠ Config.fpuVersion then none
  else
    match (first.extractLsb' 16 8).toNat with
    | 0x00 => some .idle
    | 0x28 => some .unimp
    | 0x60 => some .busy
    | _ => none

/-- Add the size of the frame to the register of (An)+ (R771). -/
def postAdd (s : State) (ea : Ea) (n : Nat) : State :=
  match ea with
  | .post r => s.setA r (s.getA r + BitVec.ofNat 32 n)
  | _ => s

/-- FRESTORE (R771). A frame of another version or size is a format error; a fault while the frame is read leaves the
FPU as it was. A null frame drops the vector behind a CP bit, the others keep it: DESIGN CHOICE (log 60). -/
def execFrestore (ea : Ea) (s : State) : Out :=
  ifSupervisor s
    (orAbort s ((evalEa s ea 0 (s.after 1)).bind fun l s1 =>
        (s1.read l.addr 4).bind fun first s2 => .ok (l.addr, first) s2) fun p s2 =>
      match frameKind p.2 with
      | none => ownTrap s s2 fun t => trap0 { s with mem := t.mem } 14 s.pc
      | some k =>
        orAbort s (readImage (frameLongs k) s2 (p.1 + 4)) fun img s3 =>
          let s4 := postAdd s3 ea (4 + 4 * frameLongs k)
          let n := 1 + Ea.words 1 ea
          match k with
          | .null => next s { s4 with fpu := Fpu.reset } n
          | .idle => next s { s4 with fpu := { s4.fpu with pending := none, kind := .idle } } n
          | .unimp => next s (restoreFrame s4 (loadFrame 320 unimpOffset img s4.fpu.frame)) n
          | .busy =>
            let f := loadFrame 768 busyOffset img s4.fpu.frame
            if f.continues then continueFp s (restoreFrame s4 f) f n else next s (restoreFrame s4 f) n)

end Sys2Proof.Machine
end

