-- ==== Sys2Proof/Machine/IntArith.lean ====
section
/-! DEFINITION. The integer arithmetic instructions (41_integer_arithmetic R600 to R660). -/

namespace Sys2Proof.Machine

/-! ### Addition and subtraction (R610 to R624) -/

/-- Source plus destination: the state with its flags, and the result (R610). -/
def addOp (z : Size) (s : State) (src dst : Long) : State × Long :=
  (s.setArith z (addN z src dst false), (addN z src dst false).r)

/-- Destination minus source (R620). -/
def subOp (z : Size) (s : State) (src dst : Long) : State × Long :=
  (s.setArith z (subN z src dst false), (subN z src dst false).r)

/-- Source plus destination plus X (R614). -/
def addxOp (z : Size) (s : State) (src dst : Long) : State × Long :=
  (s.setArithX z (addN z src dst s.flagX), (addN z src dst s.flagX).r)

/-- Destination minus source minus X (R624). -/
def subxOp (z : Size) (s : State) (src dst : Long) : State × Long :=
  (s.setArithX z (subN z src dst s.flagX), (subN z src dst s.flagX).r)

/-- An address register plus or minus a sign-extended source; no flags (R611, R621). The register is read before
the source's own update of it (D14, log 22). -/
def addressOp (z : Size) (an : BitVec 3) (ea : Ea) (f : Long → Long → Long) (s : State) : Out :=
  orAbort s (readEa s z ea 1 s.pc) fun x s1 => next s (s1.setA an (f (s.getA an) (z.sext x.2))) (eaLength 1 z ea)

/-- The data of ADDQ and SUBQ: 0 stands for 8 (R613). -/
def quickData (d : BitVec 3) : Long := if d = 0 then 8 else d.zeroExtend 32

/-- ADDQ and SUBQ: an address register changes as a whole and sets no flags (R613, R623). -/
def quickOp (z : Size) (data : BitVec 3) (ea : Ea) (fa : Long → Long → Long)
    (f : State → Long → Long → State × Long) (s : State) : Out :=
  match ea with
  | .an r => next s (s.setA r (fa (s.getA r) (quickData data))) 1
  | _ => modifyEa s z ea 1 (quickData data) f

/-- ADD.B <ea>,Dn (R610). -/
def execAddBEaDn (dn : BitVec 3) (ea : Ea) (s : State) : Out := eaToDn s .b ea dn (addOp .b)
/-- ADD.B Dn,<ea> (R610). -/
def execAddBDnEa (dn : BitVec 3) (ea : Ea) (s : State) : Out := modifyEa s .b ea 1 (s.getD dn) (addOp .b)
/-- ADD.W <ea>,Dn (R610). -/
def execAddWEaDn (dn : BitVec 3) (ea : Ea) (s : State) : Out := eaToDn s .w ea dn (addOp .w)
/-- ADD.W Dn,<ea> (R610). -/
def execAddWDnEa (dn : BitVec 3) (ea : Ea) (s : State) : Out := modifyEa s .w ea 1 (s.getD dn) (addOp .w)
/-- ADD.L <ea>,Dn (R610). -/
def execAddLEaDn (dn : BitVec 3) (ea : Ea) (s : State) : Out := eaToDn s .l ea dn (addOp .l)
/-- ADD.L Dn,<ea> (R610). -/
def execAddLDnEa (dn : BitVec 3) (ea : Ea) (s : State) : Out := modifyEa s .l ea 1 (s.getD dn) (addOp .l)
/-- SUB.B <ea>,Dn (R620). -/
def execSubBEaDn (dn : BitVec 3) (ea : Ea) (s : State) : Out := eaToDn s .b ea dn (subOp .b)
/-- SUB.B Dn,<ea> (R620). -/
def execSubBDnEa (dn : BitVec 3) (ea : Ea) (s : State) : Out := modifyEa s .b ea 1 (s.getD dn) (subOp .b)
/-- SUB.W <ea>,Dn (R620). -/
def execSubWEaDn (dn : BitVec 3) (ea : Ea) (s : State) : Out := eaToDn s .w ea dn (subOp .w)
/-- SUB.W Dn,<ea> (R620). -/
def execSubWDnEa (dn : BitVec 3) (ea : Ea) (s : State) : Out := modifyEa s .w ea 1 (s.getD dn) (subOp .w)
/-- SUB.L <ea>,Dn (R620). -/
def execSubLEaDn (dn : BitVec 3) (ea : Ea) (s : State) : Out := eaToDn s .l ea dn (subOp .l)
/-- SUB.L Dn,<ea> (R620). -/
def execSubLDnEa (dn : BitVec 3) (ea : Ea) (s : State) : Out := modifyEa s .l ea 1 (s.getD dn) (subOp .l)
/-- ADDA.W (R611). -/
def execAddaW (an : BitVec 3) (ea : Ea) (s : State) : Out := addressOp .w an ea (fun a v => a + v) s
/-- ADDA.L (R611). -/
def execAddaL (an : BitVec 3) (ea : Ea) (s : State) : Out := addressOp .l an ea (fun a v => a + v) s
/-- SUBA.W (R621). -/
def execSubaW (an : BitVec 3) (ea : Ea) (s : State) : Out := addressOp .w an ea (fun a v => a - v) s
/-- SUBA.L (R621). -/
def execSubaL (an : BitVec 3) (ea : Ea) (s : State) : Out := addressOp .l an ea (fun a v => a - v) s
/-- ADDI.B (R612). -/
def execAddiB (imm : BitVec 8) (ea : Ea) (s : State) : Out :=
  modifyEa s .b ea 2 (imm.zeroExtend 32) (addOp .b)
/-- ADDI.W (R612). -/
def execAddiW (imm : BitVec 16) (ea : Ea) (s : State) : Out :=
  modifyEa s .w ea 2 (imm.zeroExtend 32) (addOp .w)
/-- ADDI.L (R612). -/
def execAddiL (imm : BitVec 32) (ea : Ea) (s : State) : Out :=
  modifyEa s .l ea 3 imm (addOp .l)
/-- SUBI.B (R622). -/
def execSubiB (imm : BitVec 8) (ea : Ea) (s : State) : Out :=
  modifyEa s .b ea 2 (imm.zeroExtend 32) (subOp .b)
/-- SUBI.W (R622). -/
def execSubiW (imm : BitVec 16) (ea : Ea) (s : State) : Out :=
  modifyEa s .w ea 2 (imm.zeroExtend 32) (subOp .w)
/-- SUBI.L (R622). -/
def execSubiL (imm : BitVec 32) (ea : Ea) (s : State) : Out :=
  modifyEa s .l ea 3 imm (subOp .l)
/-- ADDQ.B (R613). -/
def execAddqB (data : BitVec 3) (ea : Ea) (s : State) : Out :=
  quickOp .b data ea (fun a v => a + v) (addOp .b) s
/-- ADDQ.W (R613). -/
def execAddqW (data : BitVec 3) (ea : Ea) (s : State) : Out :=
  quickOp .w data ea (fun a v => a + v) (addOp .w) s
/-- ADDQ.L (R613). -/
def execAddqL (data : BitVec 3) (ea : Ea) (s : State) : Out :=
  quickOp .l data ea (fun a v => a + v) (addOp .l) s
/-- SUBQ.B (R623). -/
def execSubqB (data : BitVec 3) (ea : Ea) (s : State) : Out :=
  quickOp .b data ea (fun a v => a - v) (subOp .b) s
/-- SUBQ.W (R623). -/
def execSubqW (data : BitVec 3) (ea : Ea) (s : State) : Out :=
  quickOp .w data ea (fun a v => a - v) (subOp .w) s
/-- SUBQ.L (R623). -/
def execSubqL (data : BitVec 3) (ea : Ea) (s : State) : Out :=
  quickOp .l data ea (fun a v => a - v) (subOp .l) s
/-- ADDX.B (R614). -/
def execAddxB (rx : BitVec 3) (mem : Bool) (ry : BitVec 3) (s : State) : Out := extended s .b rx mem ry 1 (addxOp .b)
/-- ADDX.W (R614). -/
def execAddxW (rx : BitVec 3) (mem : Bool) (ry : BitVec 3) (s : State) : Out := extended s .w rx mem ry 1 (addxOp .w)
/-- ADDX.L (R614). -/
def execAddxL (rx : BitVec 3) (mem : Bool) (ry : BitVec 3) (s : State) : Out := extended s .l rx mem ry 1 (addxOp .l)
/-- SUBX.B (R624). -/
def execSubxB (rx : BitVec 3) (mem : Bool) (ry : BitVec 3) (s : State) : Out := extended s .b rx mem ry 1 (subxOp .b)
/-- SUBX.W (R624). -/
def execSubxW (rx : BitVec 3) (mem : Bool) (ry : BitVec 3) (s : State) : Out := extended s .w rx mem ry 1 (subxOp .w)
/-- SUBX.L (R624). -/
def execSubxL (rx : BitVec 3) (mem : Bool) (ry : BitVec 3) (s : State) : Out := extended s .l rx mem ry 1 (subxOp .l)

/-! ### Comparison (R630 to R634) -/

/-- CMP and CMPI: the flags of destination minus source. -/
def compareOp (z : Size) (s : State) (src dst : Long) : State := s.setCompare z (subN z src dst false)

/-- CMPA: a word source is sign-extended and 32 bits are compared (R631); the register is read before the source's
own update of it (log 22). -/
def compareAddress (z : Size) (an : BitVec 3) (ea : Ea) (s : State) : Out :=
  testEa s z ea 1 fun s1 v => compareOp .l s1 (z.sext v) (s.getA an)

/-- CMPM (R633). -/
def compareMem (z : Size) (ax ay : BitVec 3) (s : State) : Out :=
  orAbort s ((readEa s z (.post ay) 1 s.pc).bind fun x s1 =>
      (readEa s1 z (.post ax) 1 s.pc).bind fun y s2 => .ok (x.2, y.2) s2) fun p s2 =>
    next s (compareOp z s2 p.1 p.2) 1

/-- CMP.B (R630). -/
def execCmpBEaDn (dn : BitVec 3) (ea : Ea) (s : State) : Out :=
  testEa s .b ea 1 fun s1 v => compareOp .b s1 v (s1.getD dn)
/-- CMPI.B (R632). -/
def execCmpiB (imm : BitVec 8) (ea : Ea) (s : State) : Out :=
  testEa s .b ea 2 fun s1 v => compareOp .b s1 (imm.zeroExtend 32) v
/-- CMPM.B (R633). -/
def execCmpmB (ax ay : BitVec 3) (s : State) : Out := compareMem .b ax ay s
/-- CMP.W (R630). -/
def execCmpWEaDn (dn : BitVec 3) (ea : Ea) (s : State) : Out :=
  testEa s .w ea 1 fun s1 v => compareOp .w s1 v (s1.getD dn)
/-- CMPI.W (R632). -/
def execCmpiW (imm : BitVec 16) (ea : Ea) (s : State) : Out :=
  testEa s .w ea 2 fun s1 v => compareOp .w s1 (imm.zeroExtend 32) v
/-- CMPM.W (R633). -/
def execCmpmW (ax ay : BitVec 3) (s : State) : Out := compareMem .w ax ay s
/-- CMP.L (R630). -/
def execCmpLEaDn (dn : BitVec 3) (ea : Ea) (s : State) : Out :=
  testEa s .l ea 1 fun s1 v => compareOp .l s1 v (s1.getD dn)
/-- CMPI.L (R632). -/
def execCmpiL (imm : BitVec 32) (ea : Ea) (s : State) : Out :=
  testEa s .l ea 3 fun s1 v => compareOp .l s1 imm v
/-- CMPM.L (R633). -/
def execCmpmL (ax ay : BitVec 3) (s : State) : Out := compareMem .l ax ay s
/-- CMPA.W (R631). -/
def execCmpaW (an : BitVec 3) (ea : Ea) (s : State) : Out := compareAddress .w an ea s
/-- CMPA.L (R631). -/
def execCmpaL (an : BitVec 3) (ea : Ea) (s : State) : Out := compareAddress .l an ea s

/-- The flags of CMP2 and CHK2: Z and C by the bounds, N and V free, X kept (R634, R601). -/
def setBounds (s : State) (r lb ub : Long) : State :=
  let p := s.draw 2
  let f := boundsZC r lb ub
  p.2.setNZVC (p.1.getLsbD 1) f.1 (p.1.getLsbD 0) f.2

/-- Read the two bounds and compare a register with them: on the operand size for Dn, on 32 bits for An (R634). -/
def compareBounds (z : Size) (rn : BitVec 4) (ea : Ea) (s : State) (k : State → Out) : Out :=
  orAbort s ((controlEa s ea (s.after 2)).bind fun a s1 =>
      (s1.read a z.bytes).bind fun lb s2 =>
        (s2.read (a + BitVec.ofNat 32 z.bytes) z.bytes).bind fun ub s3 => .ok (lb, ub) s3) fun b s3 =>
    let r := s.getR rn
    k (if rn.getLsbD 3 then setBounds s3 r (z.sext b.1) (z.sext b.2) else setBounds s3 (z.trunc r) b.1 b.2)

/-- CMP2 at a size (R634). -/
def compare2 (z : Size) (rn : BitVec 4) (ea : Ea) (s : State) : Out :=
  compareBounds z rn ea s fun s1 => next s s1 (2 + Ea.words 1 ea)

/-- CMP2.B (R634). -/
def execCmp2B (rn : BitVec 4) (ea : Ea) (s : State) : Out := compare2 .b rn ea s
/-- CMP2.W (R634). -/
def execCmp2W (rn : BitVec 4) (ea : Ea) (s : State) : Out := compare2 .w rn ea s
/-- CMP2.L (R634). -/
def execCmp2L (rn : BitVec 4) (ea : Ea) (s : State) : Out := compare2 .l rn ea s

/-! ### CLR, NEG, NEGX, EXT, EXTB (R640 to R644) -/

/-- CLR: written without being read (R640). -/
def clearEa (z : Size) (ea : Ea) (s : State) : Out := storeEa s z ea 1 fun s1 => (s1.setLogic z 0, 0)

/-- Zero minus the operand (R641). -/
def negOp (z : Size) (s : State) (_ dst : Long) : State × Long := subOp z s dst 0

/-- Zero minus the operand minus X (R642). -/
def negxOp (z : Size) (s : State) (_ dst : Long) : State × Long := subxOp z s dst 0

/-- CLR.B (R640). -/
def execClrB (ea : Ea) (s : State) : Out := clearEa .b ea s
/-- NEG.B (R641). -/
def execNegB (ea : Ea) (s : State) : Out := modifyEa s .b ea 1 0 (negOp .b)
/-- NEGX.B (R642). -/
def execNegxB (ea : Ea) (s : State) : Out := modifyEa s .b ea 1 0 (negxOp .b)
/-- CLR.W (R640). -/
def execClrW (ea : Ea) (s : State) : Out := clearEa .w ea s
/-- NEG.W (R641). -/
def execNegW (ea : Ea) (s : State) : Out := modifyEa s .w ea 1 0 (negOp .w)
/-- NEGX.W (R642). -/
def execNegxW (ea : Ea) (s : State) : Out := modifyEa s .w ea 1 0 (negxOp .w)
/-- CLR.L (R640). -/
def execClrL (ea : Ea) (s : State) : Out := clearEa .l ea s
/-- NEG.L (R641). -/
def execNegL (ea : Ea) (s : State) : Out := modifyEa s .l ea 1 0 (negOp .l)
/-- NEGX.L (R642). -/
def execNegxL (ea : Ea) (s : State) : Out := modifyEa s .l ea 1 0 (negxOp .l)

/-- Write Dn at a size with the flags of a logical result. -/
def setDnLogic (z : Size) (dn : BitVec 3) (v : Long) (s : State) : Out := next s ((s.setDz z dn v).setLogic z v) 1

/-- EXT.W (R643). -/
def execExtW (dn : BitVec 3) (s : State) : Out := setDnLogic .w dn (Size.sext .b (s.getD dn)) s
/-- EXT.L (R643). -/
def execExtL (dn : BitVec 3) (s : State) : Out := setDnLogic .l dn (Size.sext .w (s.getD dn)) s
/-- EXTB.L (R644). -/
def execExtbL (dn : BitVec 3) (s : State) : Out := setDnLogic .l dn (Size.sext .b (s.getD dn)) s

/-! ### Multiplication (R650 to R652) -/

/-- The value of an operand as the exact integer that a signed or unsigned instruction means by it. -/
def intOf (signed : Bool) (z : Size) (v : Long) : Int :=
  if signed then (z.sext v).toInt else ((z.trunc v).toNat : Int)

/-- MULU.W and MULS.W (R650). -/
def mulWord (signed : Bool) (dn : BitVec 3) (ea : Ea) (s : State) : Out :=
  orAbort s (readEa s .w ea 1 s.pc) fun x s1 =>
    let p := BitVec.ofInt 32 (intOf signed .w x.2 * intOf signed .w (s1.getD dn))
    next s ((s1.setD dn p).setLogic .l p) (eaLength 1 .w ea)

/-- MULU.W (R650). -/
def execMuluW (dn : BitVec 3) (ea : Ea) (s : State) : Out := mulWord false dn ea s
/-- MULS.W (R650). -/
def execMulsW (dn : BitVec 3) (ea : Ea) (s : State) : Out := mulWord true dn ea s

/-- Whether an integer is a 32-bit value of the signedness. -/
def fitsLong (signed : Bool) (v : Int) : Bool :=
  if signed then decide (-(2 ^ 31) ≤ v) && decide (v < 2 ^ 31) else decide (0 ≤ v) && decide (v < 2 ^ 32)

/-- MULU.L and MULS.L with a 32-bit product (R651). -/
def mulLong32 (signed : Bool) (dl : BitVec 3) (ea : Ea) (s : State) : Out :=
  orAbort s (readEa s .l ea 2 s.pc) fun x s1 =>
    let p := intOf signed .l x.2 * intOf signed .l (s1.getD dl)
    let r := BitVec.ofInt 32 p
    next s ((s1.setD dl r).setNZVC (Size.msb .l r) (Size.isZero .l r) (!fitsLong signed p) false) (eaLength 2 .l ea)

/-- Put a pair of results in two data registers; if they are one register it gets a free value (93 U26). -/
def setPair (s : State) (hi lo : BitVec 3) (vhi vlo : Long) : State :=
  if hi = lo then
    let p := s.draw 32
    p.2.setD lo p.1
  else (s.setD hi vhi).setD lo vlo

/-- MULU.L and MULS.L with a 64-bit product (R652). -/
def mulLong64 (signed : Bool) (dh dl : BitVec 3) (ea : Ea) (s : State) : Out :=
  orAbort s (readEa s .l ea 2 s.pc) fun x s1 =>
    let p := BitVec.ofInt 64 (intOf signed .l x.2 * intOf signed .l (s1.getD dl))
    next s ((setPair s1 dh dl (p.extractLsb' 32 32) (p.extractLsb' 0 32)).setNZVC p.msb (p == 0) false false)
      (eaLength 2 .l ea)

/-- MULU.L <ea>,Dl (R651). -/
def execMuluLEaDl (dl : BitVec 3) (ea : Ea) (s : State) : Out := mulLong32 false dl ea s
/-- MULS.L <ea>,Dl (R651). -/
def execMulsLEaDl (dl : BitVec 3) (ea : Ea) (s : State) : Out := mulLong32 true dl ea s
/-- MULU.L <ea>,Dh:Dl (R652). -/
def execMuluLEaDhDl (dh dl : BitVec 3) (ea : Ea) (s : State) : Out := mulLong64 false dh dl ea s
/-- MULS.L <ea>,Dh:Dl (R652). -/
def execMulsLEaDhDl (dh dl : BitVec 3) (ea : Ea) (s : State) : Out := mulLong64 true dh dl ea s

/-! ### Division (R655 to R660) -/

/-- Zero divide: N, Z, V free, C cleared, X kept; vector 5 with the next instruction stacked (R660, 93 U25). -/
def zeroDivide (s0 s : State) (n : Nat) : Out :=
  let p := s.draw 3
  trapNext s0 (p.2.setNZVC (p.1.getLsbD 2) (p.1.getLsbD 1) (p.1.getLsbD 0) false) 5 n

/-- Division overflow: V set, C cleared, N and Z free, operands unchanged (R655, 93 U25). -/
def divideOverflow (s0 s : State) (n : Nat) : Out :=
  let p := s.draw 2
  next s0 (p.2.setNZVC (p.1.getLsbD 1) (p.1.getLsbD 0) true false) n

/-- Flags of a completed division whose quotient is `q` at a size. -/
def State.setQuotient (s : State) (z : Size) (q : Long) : State := s.setNZVC (z.msb q) (z.isZero q) false false

/-- DIVU.W and DIVS.W (R655): the remainder goes to the high word, the quotient to the low word. -/
def divWord (signed : Bool) (dn : BitVec 3) (ea : Ea) (s : State) : Out :=
  orAbort s (readEa s .w ea 1 s.pc) fun x s1 =>
    let n := eaLength 1 .w ea
    let b := intOf signed .w x.2
    let a := intOf signed .l (s1.getD dn)
    if b = 0 then zeroDivide s s1 n
    else
      let q := a.tdiv b
      let fits := if signed then decide (-32768 ≤ q) && decide (q ≤ 32767) else decide (q ≤ 0xFFFF)
      if fits then
        let qw := BitVec.ofInt 16 q
        next s ((s1.setD dn (BitVec.ofInt 16 (a.tmod b) ++ qw)).setQuotient .w (qw.zeroExtend 32)) n
      else divideOverflow s s1 n

/-- DIVU.W (R655). -/
def execDivuW (dn : BitVec 3) (ea : Ea) (s : State) : Out := divWord false dn ea s
/-- DIVS.W (R655). -/
def execDivsW (dn : BitVec 3) (ea : Ea) (s : State) : Out := divWord true dn ea s

/-- A long division: `dividend` from the state after the source was read, `put` stores remainder and quotient. -/
def divLong32 (signed : Bool) (ea : Ea) (s : State) (dividend : State → Int)
    (put : State → Long → Long → State) : Out :=
  orAbort s (readEa s .l ea 2 s.pc) fun x s1 =>
    let n := eaLength 2 .l ea
    let b := intOf signed .l x.2
    let a := dividend s1
    if b = 0 then zeroDivide s s1 n
    else
      let q := a.tdiv b
      if fitsLong signed q then
        let ql := BitVec.ofInt 32 q
        next s ((put s1 (BitVec.ofInt 32 (a.tmod b)) ql).setQuotient .l ql) n
      else divideOverflow s s1 n

/-- The 64-bit dividend Dr:Dq (R657). -/
def quadOf (signed : Bool) (s : State) (dr dq : BitVec 3) : Int :=
  let v : BitVec 64 := s.getD dr ++ s.getD dq
  if signed then v.toInt else (v.toNat : Int)

/-- 32/32 with the remainder discarded (R656). -/
def divQuotient (signed : Bool) (dq : BitVec 3) (ea : Ea) (s : State) : Out :=
  divLong32 signed ea s (fun s1 => intOf signed .l (s1.getD dq)) fun s1 _ q => s1.setD dq q

/-- 32/32 with the remainder in Dr (R658). -/
def divRemainder (signed : Bool) (dr dq : BitVec 3) (ea : Ea) (s : State) : Out :=
  divLong32 signed ea s (fun s1 => intOf signed .l (s1.getD dq)) fun s1 r q => (s1.setD dr r).setD dq q

/-- 64/32 (R657). -/
def divQuad (signed : Bool) (dr dq : BitVec 3) (ea : Ea) (s : State) : Out :=
  divLong32 signed ea s (fun s1 => quadOf signed s1 dr dq) fun s1 r q => setPair s1 dr dq r q

/-- DIVU.L <ea>,Dq (R656). -/
def execDivuLEaDq (dq : BitVec 3) (ea : Ea) (s : State) : Out := divQuotient false dq ea s
/-- DIVS.L <ea>,Dq (R656). -/
def execDivsLEaDq (dq : BitVec 3) (ea : Ea) (s : State) : Out := divQuotient true dq ea s
/-- DIVUL.L <ea>,Dr:Dq (R658). -/
def execDivulLEaDrDq (dr dq : BitVec 3) (ea : Ea) (s : State) : Out := divRemainder false dr dq ea s
/-- DIVSL.L <ea>,Dr:Dq (R658). -/
def execDivslLEaDrDq (dr dq : BitVec 3) (ea : Ea) (s : State) : Out := divRemainder true dr dq ea s
/-- DIVU.L <ea>,Dr:Dq (R657). -/
def execDivuLEaDrDq (dr dq : BitVec 3) (ea : Ea) (s : State) : Out := divQuad false dr dq ea s
/-- DIVS.L <ea>,Dr:Dq (R657). -/
def execDivsLEaDrDq (dr dq : BitVec 3) (ea : Ea) (s : State) : Out := divQuad true dr dq ea s

end Sys2Proof.Machine
end

