-- ==== Sys2Proof/Machine/Logic.lean ====
section
/-! DEFINITION. The logical instructions (43_logical R800 to R809). -/

namespace Sys2Proof.Machine

/-- A bitwise operation with the flags of `logic_cc` (R801). -/
def logicOp (f : Long → Long → Long) (z : Size) (s : State) (src dst : Long) : State × Long :=
  let r := z.trunc (f src dst)
  (s.setLogic z r, r)

/-- AND (R803). -/
def andOp (z : Size) (s : State) (src dst : Long) : State × Long := logicOp (fun a b => a &&& b) z s src dst
/-- OR (R808). -/
def orOp (z : Size) (s : State) (src dst : Long) : State × Long := logicOp (fun a b => a ||| b) z s src dst
/-- EOR (R805). -/
def eorOp (z : Size) (s : State) (src dst : Long) : State × Long := logicOp (fun a b => a ^^^ b) z s src dst
/-- NOT (R807). -/
def notOp (z : Size) (s : State) (src dst : Long) : State × Long := logicOp (fun _ b => ~~~b) z s src dst

/-- AND.B <ea>,Dn (R803). -/
def execAndBEaDn (dn : BitVec 3) (ea : Ea) (s : State) : Out := eaToDn s .b ea dn (andOp .b)
/-- AND.B Dn,<ea> (R803). -/
def execAndBDnEa (dn : BitVec 3) (ea : Ea) (s : State) : Out := modifyEa s .b ea 1 (s.getD dn) (andOp .b)
/-- AND.W <ea>,Dn (R803). -/
def execAndWEaDn (dn : BitVec 3) (ea : Ea) (s : State) : Out := eaToDn s .w ea dn (andOp .w)
/-- AND.W Dn,<ea> (R803). -/
def execAndWDnEa (dn : BitVec 3) (ea : Ea) (s : State) : Out := modifyEa s .w ea 1 (s.getD dn) (andOp .w)
/-- AND.L <ea>,Dn (R803). -/
def execAndLEaDn (dn : BitVec 3) (ea : Ea) (s : State) : Out := eaToDn s .l ea dn (andOp .l)
/-- AND.L Dn,<ea> (R803). -/
def execAndLDnEa (dn : BitVec 3) (ea : Ea) (s : State) : Out := modifyEa s .l ea 1 (s.getD dn) (andOp .l)
/-- OR.B <ea>,Dn (R808). -/
def execOrBEaDn (dn : BitVec 3) (ea : Ea) (s : State) : Out := eaToDn s .b ea dn (orOp .b)
/-- OR.B Dn,<ea> (R808). -/
def execOrBDnEa (dn : BitVec 3) (ea : Ea) (s : State) : Out := modifyEa s .b ea 1 (s.getD dn) (orOp .b)
/-- OR.W <ea>,Dn (R808). -/
def execOrWEaDn (dn : BitVec 3) (ea : Ea) (s : State) : Out := eaToDn s .w ea dn (orOp .w)
/-- OR.W Dn,<ea> (R808). -/
def execOrWDnEa (dn : BitVec 3) (ea : Ea) (s : State) : Out := modifyEa s .w ea 1 (s.getD dn) (orOp .w)
/-- OR.L <ea>,Dn (R808). -/
def execOrLEaDn (dn : BitVec 3) (ea : Ea) (s : State) : Out := eaToDn s .l ea dn (orOp .l)
/-- OR.L Dn,<ea> (R808). -/
def execOrLDnEa (dn : BitVec 3) (ea : Ea) (s : State) : Out := modifyEa s .l ea 1 (s.getD dn) (orOp .l)
/-- EOR.B (R805). -/
def execEorB (dn : BitVec 3) (ea : Ea) (s : State) : Out := modifyEa s .b ea 1 (s.getD dn) (eorOp .b)
/-- NOT.B (R807). -/
def execNotB (ea : Ea) (s : State) : Out := modifyEa s .b ea 1 0 (notOp .b)
/-- EOR.W (R805). -/
def execEorW (dn : BitVec 3) (ea : Ea) (s : State) : Out := modifyEa s .w ea 1 (s.getD dn) (eorOp .w)
/-- NOT.W (R807). -/
def execNotW (ea : Ea) (s : State) : Out := modifyEa s .w ea 1 0 (notOp .w)
/-- EOR.L (R805). -/
def execEorL (dn : BitVec 3) (ea : Ea) (s : State) : Out := modifyEa s .l ea 1 (s.getD dn) (eorOp .l)
/-- NOT.L (R807). -/
def execNotL (ea : Ea) (s : State) : Out := modifyEa s .l ea 1 0 (notOp .l)
/-- ORI.B (R809). -/
def execOriB (imm : BitVec 8) (ea : Ea) (s : State) : Out :=
  modifyEa s .b ea 2 (imm.zeroExtend 32) (orOp .b)
/-- ORI.W (R809). -/
def execOriW (imm : BitVec 16) (ea : Ea) (s : State) : Out :=
  modifyEa s .w ea 2 (imm.zeroExtend 32) (orOp .w)
/-- ORI.L (R809). -/
def execOriL (imm : BitVec 32) (ea : Ea) (s : State) : Out :=
  modifyEa s .l ea 3 imm (orOp .l)
/-- ANDI.B (R804). -/
def execAndiB (imm : BitVec 8) (ea : Ea) (s : State) : Out :=
  modifyEa s .b ea 2 (imm.zeroExtend 32) (andOp .b)
/-- ANDI.W (R804). -/
def execAndiW (imm : BitVec 16) (ea : Ea) (s : State) : Out :=
  modifyEa s .w ea 2 (imm.zeroExtend 32) (andOp .w)
/-- ANDI.L (R804). -/
def execAndiL (imm : BitVec 32) (ea : Ea) (s : State) : Out :=
  modifyEa s .l ea 3 imm (andOp .l)
/-- EORI.B (R806). -/
def execEoriB (imm : BitVec 8) (ea : Ea) (s : State) : Out :=
  modifyEa s .b ea 2 (imm.zeroExtend 32) (eorOp .b)
/-- EORI.W (R806). -/
def execEoriW (imm : BitVec 16) (ea : Ea) (s : State) : Out :=
  modifyEa s .w ea 2 (imm.zeroExtend 32) (eorOp .w)
/-- EORI.L (R806). -/
def execEoriL (imm : BitVec 32) (ea : Ea) (s : State) : Out :=
  modifyEa s .l ea 3 imm (eorOp .l)

end Sys2Proof.Machine
end

