-- ==== Sys2Proof/Machine/MmuCache.lean ====
section
/-! DEFINITION. MMU, cache and multiprocessor instructions (49_mmu_cache_multiprocessor R1030 to R1053). -/

namespace Sys2Proof.Machine

/-! ### PFLUSH and PTEST (R1030 to R1037) -/

/-- A privileged instruction of one word that changes the memory system only. -/
def memOnly (s : State) (m : MemSys) : Out := ifSupervisor s (next s { s with mem := m } 1)

/-- PFLUSH (An) (R1032). -/
def execPflushAn (an : BitVec 3) (s : State) : Out :=
  memOnly s (flushAddr s.ctl s.mem (s.getA an) (s.ctl.dfc.getLsbD 2) false)
/-- PFLUSHN (An) (R1033). -/
def execPflushnAn (an : BitVec 3) (s : State) : Out :=
  memOnly s (flushAddr s.ctl s.mem (s.getA an) (s.ctl.dfc.getLsbD 2) true)
/-- PFLUSHA (R1034). -/
def execPflusha (s : State) : Out := memOnly s (flushAll s.mem false)
/-- PFLUSHAN (R1035). -/
def execPflushan (s : State) : Out := memOnly s (flushAll s.mem true)

/-- PTESTR and PTESTW (R1036, R1037). The bus error of a push that the search forced aborts the instruction
(60_exceptions R1096). -/
def ptestAn (wr : Bool) (an : BitVec 3) (s : State) : Out :=
  ifSupervisor s
    (match ptest s.ctl s.mem (s.getA an) wr with
    | .ok v m => next s { s with mem := m, ctl := { s.ctl with mmusr := v } } 1
    | .err (.push p) m => abort s { s with mem := m } p.fault
    | .err .bus m => next s { s with mem := m } 1)

/-- PTESTR (An) (R1036). -/
def execPtestrAn (an : BitVec 3) (s : State) : Out := ptestAn false an s
/-- PTESTW (An) (R1037). -/
def execPtestwAn (an : BitVec 3) (s : State) : Out := ptestAn true an s

/-! ### CINV and CPUSH (R1039 to R1045) -/

/-- Invalidate the selected lines of the selected caches: bit 0 of `caches` is the data cache, bit 1 the instruction
cache (R1039); the maintenance of stored words in the instruction-cache lines begins (20_memory R195). -/
def cinv (m : MemSys) (caches : BitVec 2) (sc : Scope) : MemSys :=
  let m := { m with dcache := if caches.getLsbD 0 then invalidate sc m.dcache else m.dcache }
  if caches.getLsbD 1 then { m with icache := invalidate sc m.icache }.maintain sc.covers else m

/-- CPUSH: the selected lines of the data cache are pushed and invalidated, then those of the instruction cache
invalidated; a bus error of a push aborts the instruction (R1043, 60_exceptions R1096). -/
def cpush (caches : BitVec 2) (sc : Scope) (s : State) : Out :=
  ifSupervisor s
    (match if caches.getLsbD 0 then pushSelected sc (s.mem.dcache.map (·.1)) s.mem else .ok () s.mem with
    | .err (.push p) m => abort s { s with mem := m } p.fault
    | .err .bus m => next s { s with mem := m } 1
    | .ok _ m => next s { s with mem := cinv m caches sc } 1)

/-- The page scope of a physical address (22_caches_bus R343). -/
def pageScope (s : State) (an : BitVec 3) : Scope := .page (s.getA an) s.ctl.eightK

/-- CINVL (R1040). -/
def execCinvl (caches : BitVec 2) (an : BitVec 3) (s : State) : Out := memOnly s (cinv s.mem caches (.line (s.getA an)))
/-- CINVP (R1041). -/
def execCinvp (caches : BitVec 2) (an : BitVec 3) (s : State) : Out := memOnly s (cinv s.mem caches (pageScope s an))
/-- CINVA (R1042). -/
def execCinva (caches : BitVec 2) (s : State) : Out := memOnly s (cinv s.mem caches .all)
/-- CPUSHL (R1043). -/
def execCpushl (caches : BitVec 2) (an : BitVec 3) (s : State) : Out := cpush caches (.line (s.getA an)) s
/-- CPUSHP (R1044). -/
def execCpushp (caches : BitVec 2) (an : BitVec 3) (s : State) : Out := cpush caches (pageScope s an) s
/-- CPUSHA (R1045). -/
def execCpusha (caches : BitVec 2) (s : State) : Out := cpush caches .all s

/-! ### TAS, CAS, CAS2 (R1050 to R1053) -/

/-- A locked write of the low `n` bytes of a value. -/
def State.lockedWrite (s : State) (a : Long) (n : Nat) (v : Long) : Write := ⟨a, toBytes v n, s.lockedAccess⟩

/-- TAS: the flags of the byte read, then bit 7 set; in memory the accesses are locked (R1051). -/
def execTas (ea : Ea) (s : State) : Out :=
  orAbort s (evalEa s ea 1 (s.after 1)) fun l s1 =>
    match l with
    | .d n => next s ((s1.setDz .b n (s1.getD n ||| 0x80)).setLogic .b (s1.getD n)) 1
    | _ =>
      orAbort s ((s1.beginLocked [(l.addr, 1)]).bind fun _ s2 => s2.readLocked l.addr 1) fun v s2 =>
        nextWith s (s2.setLogic .b v) (1 + Ea.words 1 ea) [s2.lockedWrite l.addr 1 (v ||| 0x80)]

/-- CAS at a size (R1052): a write is always made, of Du or of the value read. -/
def compareSwap (z : Size) (du dc : BitVec 3) (ea : Ea) (s : State) : Out :=
  orAbort s ((evalEa s ea z.bytes (s.after 2)).bind fun l s1 =>
      (s1.beginLocked [(l.addr, z.bytes)]).bind fun _ s2 =>
        (s2.readLocked l.addr z.bytes).bind fun d s3 => .ok (l.addr, d) s3) fun p s3 =>
    let t := subN z (s3.getD dc) p.2 false
    let s4 := s3.setCompare z t
    if z.isZero t.r then nextWith s s4 (2 + Ea.words 1 ea) [s4.lockedWrite p.1 z.bytes (s3.getD du)]
    else nextWith s (s4.setDz z dc p.2) (2 + Ea.words 1 ea) [s4.lockedWrite p.1 z.bytes p.2]

/-- CAS.B (R1052). -/
def execCasB (du dc : BitVec 3) (ea : Ea) (s : State) : Out := compareSwap .b du dc ea s
/-- CAS.W (R1052). -/
def execCasW (du dc : BitVec 3) (ea : Ea) (s : State) : Out := compareSwap .w du dc ea s
/-- CAS.L (R1052). -/
def execCasL (du dc : BitVec 3) (ea : Ea) (s : State) : Out := compareSwap .l du dc ea s

/-- CAS2 at a size (R1053): both operands are checked as written, the dirty lines they hit are pushed, both are read, then
both are written, or the second is written back and the compare registers are loaded, the second before the first. Each page is
translated at its check and anew at each locked access; where a check has replaced the ATC entry of another page of the
operands, a table search comes between two locked accesses, with cycles that are not locked: DESIGN CHOICE (log 68). -/
def compareSwap2 (z : Size) (rn1 : BitVec 4) (du1 dc1 : BitVec 3) (rn2 : BitVec 4) (du2 dc2 : BitVec 3)
    (s : State) : Out :=
  let a1 := s.getR rn1
  let a2 := s.getR rn2
  orAbort s ((s.beginLocked [(a1, z.bytes), (a2, z.bytes)]).bind fun _ s2 =>
      (s2.readLocked a1 z.bytes).bind fun d1 s3 =>
        (s3.readLocked a2 z.bytes).bind fun d2 s4 => .ok (d1, d2) s4) fun p s4 =>
    let t1 := subN z (s4.getD dc1) p.1 false
    let t2 := subN z (s4.getD dc2) p.2 false
    if z.isZero t1.r then
      let s5 := s4.setCompare z t2
      if z.isZero t2.r then
        nextWith s s5 3 [s5.lockedWrite a1 z.bytes (s4.getD du1), s5.lockedWrite a2 z.bytes (s4.getD du2)]
      else
        nextWith s ((s5.setDz z dc2 p.2).setDz z dc1 p.1) 3 [s5.lockedWrite a2 z.bytes p.2]
    else
      let s5 := s4.setCompare z t1
      nextWith s ((s5.setDz z dc2 p.2).setDz z dc1 p.1) 3 [s5.lockedWrite a2 z.bytes p.2]

/-- CAS2.W (R1053). -/
def execCas2W (rn1 : BitVec 4) (du1 dc1 : BitVec 3) (rn2 : BitVec 4) (du2 dc2 : BitVec 3) (s : State) : Out :=
  compareSwap2 .w rn1 du1 dc1 rn2 du2 dc2 s
/-- CAS2.L (R1053). -/
def execCas2L (rn1 : BitVec 4) (du1 dc1 : BitVec 3) (rn2 : BitVec 4) (du2 dc2 : BitVec 3) (s : State) : Out :=
  compareSwap2 .l rn1 du1 dc1 rn2 du2 dc2 s

end Sys2Proof.Machine
end

