-- ==== Sys2Proof/Machine/Shift.lean ====
section
/-! DEFINITION. Shifts, rotates and SWAP (44_shift_rotate R830 to R842). The operand is the natural number `d` of
`n` bits, `m` is n - 1, `r` the count. -/

namespace Sys2Proof.Machine

/-- What a shift gives: result, X if it changes, V, C (R832). -/
structure Shifted where
  r : Nat
  x : Option Bool
  v : Bool
  c : Bool

/-- An unshifted operand (r = 0, R832). -/
def unshifted (d : Nat) : Shifted := ⟨d, none, false, false⟩

/-- ASL (R833): V when the bits that pass through the sign position are not all equal. -/
def aslOp (n d r : Nat) (_ : Bool) : Shifted :=
  if r = 0 then unshifted d
  else
    let c := decide (r ≤ n) && d.testBit (n - r)
    let top := d >>> (n - 1 - r)
    ⟨d <<< r % 2 ^ n, some c, if n - 1 < r then d != 0 else top != 0 && top != 2 ^ (r + 1) - 1, c⟩

/-- ASR (R834). -/
def asrOp (n d r : Nat) (_ : Bool) : Shifted :=
  if r = 0 then unshifted d
  else
    let sign := d.testBit (n - 1)
    let c := if r ≤ n then d.testBit (r - 1) else sign
    let fill := if sign then 2 ^ n - 2 ^ (n - min r n) else 0
    ⟨d >>> r + fill, some c, false, c⟩

/-- LSL (R835). -/
def lslOp (n d r : Nat) (_ : Bool) : Shifted :=
  if r = 0 then unshifted d
  else
    let c := decide (r ≤ n) && d.testBit (n - r)
    ⟨d <<< r % 2 ^ n, some c, false, c⟩

/-- LSR (R836). -/
def lsrOp (n d r : Nat) (_ : Bool) : Shifted :=
  if r = 0 then unshifted d
  else
    let c := decide (r ≤ n) && d.testBit (r - 1)
    ⟨d >>> r, some c, false, c⟩

/-- `d`, of `n` bits, rotated left by `k` below `n`. -/
def rotl (n d k : Nat) : Nat := (d <<< k % 2 ^ n) ||| d >>> (n - k)

/-- ROL (R837): X is not involved. -/
def rolOp (n d r : Nat) (_ : Bool) : Shifted :=
  if r = 0 then unshifted d
  else
    let res := rotl n d (r % n)
    ⟨res, none, false, res.testBit 0⟩

/-- ROR (R838). -/
def rorOp (n d r : Nat) (_ : Bool) : Shifted :=
  if r = 0 then unshifted d
  else
    let res := rotl n d ((n - r % n) % n)
    ⟨res, none, false, res.testBit (n - 1)⟩

/-- ROXL (R839): a rotation of n + 1 bits with X above the operand. -/
def roxlOp (n d r : Nat) (x : Bool) : Shifted :=
  if r = 0 then ⟨d, none, false, x⟩
  else
    let w := rotl (n + 1) (d + x.toNat * 2 ^ n) (r % (n + 1))
    ⟨w % 2 ^ n, some (w.testBit n), false, w.testBit n⟩

/-- ROXR (R840): a rotation of n + 1 bits with X below the operand. -/
def roxrOp (n d r : Nat) (x : Bool) : Shifted :=
  if r = 0 then ⟨d, none, false, x⟩
  else
    let w := rotl (n + 1) (2 * d + x.toNat) ((n + 1 - r % (n + 1)) % (n + 1))
    ⟨w / 2, some (w.testBit 0), false, w.testBit 0⟩

/-- The flags of a shift (R832) and its result as a long word. -/
def applyShift (z : Size) (f : Nat → Nat → Nat → Bool → Shifted) (r : Nat) (s : State) (d : Long) : State × Long :=
  let t := f z.bits (z.trunc d).toNat r s.flagX
  let v := BitVec.ofNat 32 t.r
  (s.setXNZVC (t.x.getD s.flagX) (z.msb v) (z.isZero v) t.v t.c, v)

/-- The count of a register shift: immediate 1 to 8, or Dx modulo 64 (R831). -/
def shiftCount (s : State) (cnt : BitVec 3) (ir : Bool) : Nat :=
  if ir then (s.getD cnt).toNat % 64 else if cnt = 0 then 8 else cnt.toNat

/-- A register shift (R831). -/
def shiftReg (z : Size) (f : Nat → Nat → Nat → Bool → Shifted) (cnt : BitVec 3) (ir : Bool) (dy : BitVec 3)
    (s : State) : Out :=
  let p := applyShift z f (shiftCount s cnt ir) s (s.getD dy)
  next s (p.1.setDz z dy p.2) 1

/-- A memory shift: one word, one place (R841). -/
def shiftMem (f : Nat → Nat → Nat → Bool → Shifted) (ea : Ea) (s : State) : Out :=
  modifyEa s .w ea 1 0 fun s1 _ d => applyShift .w f 1 s1 d

/-- ASR.B of a data register (R834). -/
def execAsrBDxDy (cnt : BitVec 3) (ir : Bool) (dy : BitVec 3) (s : State) : Out :=
  shiftReg .b asrOp cnt ir dy s
/-- ASR.W of a data register (R834). -/
def execAsrWDxDy (cnt : BitVec 3) (ir : Bool) (dy : BitVec 3) (s : State) : Out :=
  shiftReg .w asrOp cnt ir dy s
/-- ASR.L of a data register (R834). -/
def execAsrLDxDy (cnt : BitVec 3) (ir : Bool) (dy : BitVec 3) (s : State) : Out :=
  shiftReg .l asrOp cnt ir dy s
/-- ASR <ea> (R841). -/
def execAsrEa (ea : Ea) (s : State) : Out := shiftMem asrOp ea s
/-- ASL.B of a data register (R833). -/
def execAslBDxDy (cnt : BitVec 3) (ir : Bool) (dy : BitVec 3) (s : State) : Out :=
  shiftReg .b aslOp cnt ir dy s
/-- ASL.W of a data register (R833). -/
def execAslWDxDy (cnt : BitVec 3) (ir : Bool) (dy : BitVec 3) (s : State) : Out :=
  shiftReg .w aslOp cnt ir dy s
/-- ASL.L of a data register (R833). -/
def execAslLDxDy (cnt : BitVec 3) (ir : Bool) (dy : BitVec 3) (s : State) : Out :=
  shiftReg .l aslOp cnt ir dy s
/-- ASL <ea> (R841). -/
def execAslEa (ea : Ea) (s : State) : Out := shiftMem aslOp ea s
/-- LSR.B of a data register (R836). -/
def execLsrBDxDy (cnt : BitVec 3) (ir : Bool) (dy : BitVec 3) (s : State) : Out :=
  shiftReg .b lsrOp cnt ir dy s
/-- LSR.W of a data register (R836). -/
def execLsrWDxDy (cnt : BitVec 3) (ir : Bool) (dy : BitVec 3) (s : State) : Out :=
  shiftReg .w lsrOp cnt ir dy s
/-- LSR.L of a data register (R836). -/
def execLsrLDxDy (cnt : BitVec 3) (ir : Bool) (dy : BitVec 3) (s : State) : Out :=
  shiftReg .l lsrOp cnt ir dy s
/-- LSR <ea> (R841). -/
def execLsrEa (ea : Ea) (s : State) : Out := shiftMem lsrOp ea s
/-- LSL.B of a data register (R835). -/
def execLslBDxDy (cnt : BitVec 3) (ir : Bool) (dy : BitVec 3) (s : State) : Out :=
  shiftReg .b lslOp cnt ir dy s
/-- LSL.W of a data register (R835). -/
def execLslWDxDy (cnt : BitVec 3) (ir : Bool) (dy : BitVec 3) (s : State) : Out :=
  shiftReg .w lslOp cnt ir dy s
/-- LSL.L of a data register (R835). -/
def execLslLDxDy (cnt : BitVec 3) (ir : Bool) (dy : BitVec 3) (s : State) : Out :=
  shiftReg .l lslOp cnt ir dy s
/-- LSL <ea> (R841). -/
def execLslEa (ea : Ea) (s : State) : Out := shiftMem lslOp ea s
/-- ROXR.B of a data register (R840). -/
def execRoxrBDxDy (cnt : BitVec 3) (ir : Bool) (dy : BitVec 3) (s : State) : Out :=
  shiftReg .b roxrOp cnt ir dy s
/-- ROXR.W of a data register (R840). -/
def execRoxrWDxDy (cnt : BitVec 3) (ir : Bool) (dy : BitVec 3) (s : State) : Out :=
  shiftReg .w roxrOp cnt ir dy s
/-- ROXR.L of a data register (R840). -/
def execRoxrLDxDy (cnt : BitVec 3) (ir : Bool) (dy : BitVec 3) (s : State) : Out :=
  shiftReg .l roxrOp cnt ir dy s
/-- ROXR <ea> (R841). -/
def execRoxrEa (ea : Ea) (s : State) : Out := shiftMem roxrOp ea s
/-- ROXL.B of a data register (R839). -/
def execRoxlBDxDy (cnt : BitVec 3) (ir : Bool) (dy : BitVec 3) (s : State) : Out :=
  shiftReg .b roxlOp cnt ir dy s
/-- ROXL.W of a data register (R839). -/
def execRoxlWDxDy (cnt : BitVec 3) (ir : Bool) (dy : BitVec 3) (s : State) : Out :=
  shiftReg .w roxlOp cnt ir dy s
/-- ROXL.L of a data register (R839). -/
def execRoxlLDxDy (cnt : BitVec 3) (ir : Bool) (dy : BitVec 3) (s : State) : Out :=
  shiftReg .l roxlOp cnt ir dy s
/-- ROXL <ea> (R841). -/
def execRoxlEa (ea : Ea) (s : State) : Out := shiftMem roxlOp ea s
/-- ROR.B of a data register (R838). -/
def execRorBDxDy (cnt : BitVec 3) (ir : Bool) (dy : BitVec 3) (s : State) : Out :=
  shiftReg .b rorOp cnt ir dy s
/-- ROR.W of a data register (R838). -/
def execRorWDxDy (cnt : BitVec 3) (ir : Bool) (dy : BitVec 3) (s : State) : Out :=
  shiftReg .w rorOp cnt ir dy s
/-- ROR.L of a data register (R838). -/
def execRorLDxDy (cnt : BitVec 3) (ir : Bool) (dy : BitVec 3) (s : State) : Out :=
  shiftReg .l rorOp cnt ir dy s
/-- ROR <ea> (R841). -/
def execRorEa (ea : Ea) (s : State) : Out := shiftMem rorOp ea s
/-- ROL.B of a data register (R837). -/
def execRolBDxDy (cnt : BitVec 3) (ir : Bool) (dy : BitVec 3) (s : State) : Out :=
  shiftReg .b rolOp cnt ir dy s
/-- ROL.W of a data register (R837). -/
def execRolWDxDy (cnt : BitVec 3) (ir : Bool) (dy : BitVec 3) (s : State) : Out :=
  shiftReg .w rolOp cnt ir dy s
/-- ROL.L of a data register (R837). -/
def execRolLDxDy (cnt : BitVec 3) (ir : Bool) (dy : BitVec 3) (s : State) : Out :=
  shiftReg .l rolOp cnt ir dy s
/-- ROL <ea> (R841). -/
def execRolEa (ea : Ea) (s : State) : Out := shiftMem rolOp ea s

/-- SWAP (R842). -/
def execSwap (dn : BitVec 3) (s : State) : Out :=
  let v := s.getD dn
  let r := v.extractLsb' 0 16 ++ v.extractLsb' 16 16
  next s ((s.setD dn r).setLogic .l r) 1

end Sys2Proof.Machine
end

