-- ==== Sys2Proof/Machine/System.lean ====
section
/-! DEFINITION. System control: the status register, control registers, MOVES, RESET, RTE, STOP, and the trap
instructions (48_system_control R960 to R997, 60_exceptions R1104, R1145). -/

namespace Sys2Proof.Machine

/-! ### The condition code register (R962 to R964, R970, R971) -/

/-- ANDI to CCR (R962). -/
def execAndiToCcr (imm : BitVec 16) (s : State) : Out := next s (s.setCcr (s.sr &&& imm)) 2
/-- EORI to CCR (R963). -/
def execEoriToCcr (imm : BitVec 16) (s : State) : Out := next s (s.setCcr (s.sr ^^^ imm)) 2
/-- ORI to CCR (R964). -/
def execOriToCcr (imm : BitVec 16) (s : State) : Out := next s (s.setCcr (s.sr ||| imm)) 2
/-- MOVE from CCR: a word with a zero high byte (R970). -/
def execMoveFromCcr (ea : Ea) (s : State) : Out :=
  storeEa s .w ea 1 fun s1 => (s1, (s1.sr.extractLsb' 0 5).zeroExtend 32)
/-- MOVE to CCR (R971). -/
def execMoveToCcr (ea : Ea) (s : State) : Out :=
  testEa s .w ea 1 fun s1 v => s1.setCcr (v.extractLsb' 0 16)

/-! ### The status register and USP (R965 to R969, R972, R973) -/

/-- Load the SR at the end of an instruction of `n` words; it counts as a change of flow (R973). -/
def loadSr (s0 s : State) (v : Word) (n : Nat) : Out := complete s0 { s.setSr v with pc := s0.after n } [] true

/-- ANDI to SR (R965). -/
def execAndiToSr (imm : BitVec 16) (s : State) : Out := ifSupervisor s (loadSr s s (s.sr &&& imm) 2)
/-- EORI to SR (R966). -/
def execEoriToSr (imm : BitVec 16) (s : State) : Out := ifSupervisor s (loadSr s s (s.sr ^^^ imm) 2)
/-- ORI to SR (R967). -/
def execOriToSr (imm : BitVec 16) (s : State) : Out := ifSupervisor s (loadSr s s (s.sr ||| imm) 2)
/-- MOVE from SR (R968). -/
def execMoveFromSr (ea : Ea) (s : State) : Out :=
  ifSupervisor s (storeEa s .w ea 1 fun s1 => (s1, s1.sr.zeroExtend 32))
/-- MOVE to SR: the operand is read with the old SR (R969). -/
def execMoveToSr (ea : Ea) (s : State) : Out :=
  ifSupervisor s (orAbort s (readEa s .w ea 1 s.pc) fun x s1 =>
    loadSr s s1 (x.2.extractLsb' 0 16) (eaLength 1 .w ea))
/-- MOVE An,USP (R972). -/
def execMoveAnUsp (an : BitVec 3) (s : State) : Out :=
  ifSupervisor s (next s { s with a := { s.a with usp := s.getA an } } 1)
/-- MOVE USP,An (R972). -/
def execMoveUspAn (an : BitVec 3) (s : State) : Out := ifSupervisor s (next s (s.setA an s.a.usp) 1)

/-! ### MOVEC (R975, R976) -/

/-- The control registers that MOVEC names (10_state R72). -/
inductive ControlReg where
  | sfc | dfc | cacr | tc | itt0 | itt1 | dtt0 | dtt1 | usp | vbr | msp | isp | mmusr | urp | srp
deriving DecidableEq, Repr

/-- The register a code names (10_state R72). -/
def controlReg (code : BitVec 12) : Option ControlReg :=
  match code.toNat with
  | 0x000 => some .sfc | 0x001 => some .dfc | 0x002 => some .cacr | 0x003 => some .tc
  | 0x004 => some .itt0 | 0x005 => some .itt1 | 0x006 => some .dtt0 | 0x007 => some .dtt1
  | 0x800 => some .usp | 0x801 => some .vbr | 0x803 => some .msp | 0x804 => some .isp
  | 0x805 => some .mmusr | 0x806 => some .urp | 0x807 => some .srp
  | _ => none

/-- `read_cr` (R976): unimplemented bits read as zero. -/
def readCr (s : State) : ControlReg → Long
  | .sfc => s.ctl.sfc.zeroExtend 32
  | .dfc => s.ctl.dfc.zeroExtend 32
  | .cacr => s.ctl.cacr
  | .tc => s.ctl.tc.zeroExtend 32
  | .itt0 => s.ctl.itt0
  | .itt1 => s.ctl.itt1
  | .dtt0 => s.ctl.dtt0
  | .dtt1 => s.ctl.dtt1
  | .usp => s.a.usp
  | .vbr => s.ctl.vbr
  | .msp => s.a.msp
  | .isp => s.a.isp
  | .mmusr => s.ctl.mmusr
  | .urp => s.ctl.urp
  | .srp => s.ctl.srp

/-- The implemented bits of a transparent translation register (10_state R70). -/
def ttrMask : Long := 0xFFFFE364

/-- `write_cr` (R976): only implemented bits are stored. -/
def writeCr (s : State) (r : ControlReg) (v : Long) : State :=
  match r with
  | .sfc => { s with ctl := { s.ctl with sfc := v.extractLsb' 0 3 } }
  | .dfc => { s with ctl := { s.ctl with dfc := v.extractLsb' 0 3 } }
  | .cacr => { s with ctl := { s.ctl with cacr := v &&& 0x80008000 } }
  | .tc => { s with ctl := { s.ctl with tc := v.extractLsb' 0 16 &&& 0xC000 } }
  | .itt0 => { s with ctl := { s.ctl with itt0 := v &&& ttrMask } }
  | .itt1 => { s with ctl := { s.ctl with itt1 := v &&& ttrMask } }
  | .dtt0 => { s with ctl := { s.ctl with dtt0 := v &&& ttrMask } }
  | .dtt1 => { s with ctl := { s.ctl with dtt1 := v &&& ttrMask } }
  | .usp => { s with a := { s.a with usp := v } }
  | .vbr => { s with ctl := { s.ctl with vbr := v } }
  | .msp => { s with a := { s.a with msp := v } }
  | .isp => { s with a := { s.a with isp := v } }
  | .mmusr => { s with ctl := { s.ctl with mmusr := v &&& 0xFFFFFFF7 } }
  | .urp => { s with ctl := { s.ctl with urp := v &&& 0xFFFFFE00 } }
  | .srp => { s with ctl := { s.ctl with srp := v &&& 0xFFFFFE00 } }

/-- MOVEC Rc,Rn; an undefined register code is an illegal instruction (R975). -/
def execMovecRcRn (rn : BitVec 4) (code : BitVec 12) (s : State) : Out :=
  ifSupervisor s
    (match controlReg code with
    | none => .next (illegalInstruction s)
    | some r => next s (s.setR rn (readCr s r)) 2)

/-- MOVEC Rn,Rc (R975). The write governs the fetch of the next instruction, so that no word stays prefetched
(92_eei_decisions D37). -/
def execMovecRnRc (rn : BitVec 4) (code : BitVec 12) (s : State) : Out :=
  ifSupervisor s
    (match controlReg code with
    | none => .next (illegalInstruction s)
    | some r =>
      let s1 := writeCr s r (s.getR rn)
      next s { s1 with mem := s1.mem.flushPipe } 2)

/-! ### MOVES (R978) -/

/-- The value MOVES stores: where the address mode changed the register, a free value says whether it is the old or
the new one (93 U21). -/
def movesValue (s0 s : State) (rn : BitVec 4) : Long × State :=
  if s0.getR rn = s.getR rn then (s.getR rn, s)
  else
    let p := s.draw 1
    (if p.1 = 1 then s.getR rn else s0.getR rn, p.2)

/-- The register result of a MOVES load: An takes the sign-extended value (R978). -/
def State.setMoves (s : State) (z : Size) (rn : BitVec 4) (v : Long) : State :=
  if rn.getLsbD 3 then s.setA (rn.extractLsb' 0 3) (z.sext v) else s.setDz z (rn.extractLsb' 0 3) v

/-- MOVES at a size (R978): the access uses DFC or SFC; the address calculation does not. -/
def moves (z : Size) (rn : BitVec 4) (toMem : Bool) (ea : Ea) (s : State) : Out :=
  ifSupervisor s (orAbort s (evalEa s ea z.bytes (s.after 2)) fun l s1 =>
    if toMem then
      let p := movesValue s s1 rn
      nextWith s p.2 (2 + Ea.words 1 ea) [⟨l.addr, toBytes p.1 z.bytes, movesAccess s.ctl.dfc⟩]
    else
      orAbort s (s1.readVia (movesAccess s.ctl.sfc) l.addr z.bytes) fun v s2 =>
        next s (s2.setMoves z rn v) (2 + Ea.words 1 ea))

/-- MOVES.B (R978). -/
def execMovesB (rn : BitVec 4) (toMem : Bool) (ea : Ea) (s : State) : Out := moves .b rn toMem ea s
/-- MOVES.W (R978). -/
def execMovesW (rn : BitVec 4) (toMem : Bool) (ea : Ea) (s : State) : Out := moves .w rn toMem ea s
/-- MOVES.L (R978). -/
def execMovesL (rn : BitVec 4) (toMem : Bool) (ea : Ea) (s : State) : Out := moves .l rn toMem ea s

/-! ### RESET and STOP (R980, R982) -/

/-- RESET: RSTO is driven; nothing inside the processor changes (R980). The other masters may act meanwhile, and RSTI
may be asserted (70_reset_and_hazards R1350). -/
def execReset (s : State) : Out :=
  ifSupervisor s (next s { s with rsto := s.rsto + 1, mem := s.mem.tick false } 1)

/-- STOP: the SR is loaded and the processor stops, unless the instruction is traced (R982). -/
def execStop (imm : BitVec 16) (s : State) : Out :=
  ifSupervisor s
    (loadSr s { s with run := if traced s.sr s.mem true then .normal else .stopped } imm 2)

/-! ### RTE (R981, 60_exceptions R1104, R1145) -/

/-- The words of a frame that RTE validates: SR, PC, format word. -/
structure FrameHead where
  sr : Word
  pc : Long
  fw : Word

/-- Read the first four words of the frame on the active stack. -/
def readHead (s : State) : Res FrameHead :=
  (s.readVia frameAccess (s.getA 7) 2).bind fun sr s =>
    (s.readVia frameAccess (s.getA 7 + 2) 4).bind fun pc s =>
      (s.readVia frameAccess (s.getA 7 + 6) 2).bind fun fw s =>
        .ok ⟨sr.extractLsb' 0 16, pc, fw.extractLsb' 0 16⟩ s

/-- Read EA and SSW of a format $7 frame. -/
def readContinuation (s : State) : Res (Long × Word) :=
  (s.readVia frameAccess (s.getA 7 + 8) 4).bind fun ea s =>
    (s.readVia frameAccess (s.getA 7 + 12) 2).bind fun ssw s => .ok (ea, ssw.extractLsb' 0 16) s

/-- Leave a frame of `n` bytes: the stack pointer first, then SR and pc (R981). -/
def leaveFrame (s : State) (h : FrameHead) (n : Long) : State :=
  { (s.setA 7 (s.getA 7 + n)).setSr h.sr with pc := h.pc }

/-- `continue_as(v, f)` (60_exceptions R1104): the access error frame is turned into the frame of the pending
exception, which is then entered. A fault halts the processor, as in any exception processing (D32). -/
def continueAs (s : State) (h : FrameHead) (ea : Long) (vector : BitVec 8) (format : BitVec 4) : State :=
  let base := s.getA 7 + 0x30
  match writeFields s.started base (frameHead h.sr h.pc format vector ++ [⟨8, 4, ea⟩]) with
  | .fail _ s => s.halt
  | .ok _ s => enterVector { s.setA 7 base with sr := enterSupervisor (h.sr &&& srMask) } vector

/-- The pending floating-point post-instruction vector that CP stands for; if there is none, any of the vectors 48 to
55 (60_exceptions R1071; log 24). -/
def postVector (s : State) : BitVec 8 × State :=
  match s.fpu.postPending with
  | some v => (v, { s with fpu := { s.fpu with postPending := none } })
  | none => (0b00110#5 ++ (s.draw 3).1, (s.draw 3).2)

/-- RTE from a format $7 frame (60_exceptions R1104). Two or more continuation bits: undefined (93 U30). -/
def rteAccess (s0 s : State) (h : FrameHead) : Out :=
  match readContinuation s with
  | .fail _ s => .next { s0 with mem := s.mem }.halt
  | .ok (ea, ssw) s =>
    match (ssw.extractLsb' 12 4).toNat with
    | 0 => .next (endInstrEa s0 (leaveFrame s h 60) true none)
    | 1 => .next (endInstrEa s0 (leaveFrame s h 60) true (some ea))
    | 2 => ownTrap s0 s fun s => continueAs s h ea 9 2
    | 4 => ownTrap s0 s fun s => continueAs s h ea 11 2
    | 8 => ownTrap s0 s fun s => continueAs (postVector s).2 h ea (postVector s).1 3
    | _ => .refused .rteContinuation

/-- RTE: one frame after another while they are throwaway frames (R981). A fault on the reads of a frame's head
aborts the instruction (D33); an unknown format is a format error with SR and A7 as before (60_exceptions R1128).
The first argument bounds the number of frames; reaching the bound means that they never end, and the processor stays
at the RTE for ever. -/
def rteFrames : Nat → State → State → Out
  | 0, s0, _ => .next s0
  | k + 1, s0, s =>
    match readHead s with
    | .fail f s => abort s0 s f
    | .ok h s =>
      match (h.fw.extractLsb' 12 4).toNat with
      | 0 => .next (endInstr s0 (leaveFrame s h 8) true)
      | 1 => rteFrames k s0 ((s.setA 7 (s.getA 7 + 8)).setSr h.sr)
      | 2 => .next (endInstr s0 (leaveFrame s h 12) true)
      | 3 => .next (endInstr s0 (leaveFrame s h 12) true)
      | 7 => rteAccess s0 s h
      | _ => ownTrap s0 s fun s => trap0 { s0 with mem := s.mem } 14 s0.pc

/-- More frames than any finite chain of throwaway frames has: three stacks of 2^29 places each. -/
def rteBound : Nat := 2 ^ 90

/-- RTE (R981). -/
def execRte (s : State) : Out := ifSupervisor s (rteFrames rteBound s s)

/-! ### Trap-generating instructions (R990 to R996) -/

/-- BKPT: after the breakpoint acknowledge cycle, however it ends, an illegal instruction exception (R990, 60_exceptions
R1118, 22_caches_bus R372). -/
def execBkpt (_n : BitVec 3) (s : State) : Out := .next (illegalInstruction { s with mem := (s.mem.acknowledge 0 0).2 })

/-- ILLEGAL (R993). -/
def execIllegal (s : State) : Out := .next (illegalInstruction s)

/-- TRAP #n: format $0, the next instruction stacked (R994). -/
def execTrap (n : BitVec 4) (s : State) : Out :=
  tracedTrap s s fun t => trap0 t (32 + n.zeroExtend 8) (s.after 1)

/-- Trap through vector 7 if a condition holds (R995, R996). -/
def trapIf (c : Bool) (n : Nat) (s : State) : Out := if c then trapNext s s 7 n else next s s n

/-- TRAPcc (R995). -/
def execTrapcc (cc : BitVec 4) (s : State) : Out := trapIf (s.cond cc) 1 s
/-- TRAPcc.W (R995). -/
def execTrapccW (cc : BitVec 4) (_imm : BitVec 16) (s : State) : Out := trapIf (s.cond cc) 2 s
/-- TRAPcc.L (R995). -/
def execTrapccL (cc : BitVec 4) (_imm : BitVec 32) (s : State) : Out := trapIf (s.cond cc) 3 s
/-- TRAPV (R996). -/
def execTrapv (s : State) : Out := trapIf s.flagV 1 s

/-- The flags of CHK: N as given or free, Z, V, C free (R991, 93 U28). -/
def State.setCheck (s : State) (n : Option Bool) : State :=
  let p := s.draw 4
  p.2.setNZVC (n.getD (p.1.getLsbD 3)) (p.1.getLsbD 2) (p.1.getLsbD 1) (p.1.getLsbD 0)

/-- CHK at a size (R991). -/
def checkBound (z : Size) (dn : BitVec 3) (ea : Ea) (s : State) : Out :=
  orAbort s (readEa s z ea 1 s.pc) fun x s1 =>
    let n := eaLength 1 z ea
    let b := (z.sext x.2).toInt
    let v := (z.sext (s1.getD dn)).toInt
    if v < 0 then trapNext s (s1.setCheck (some true)) 6 n
    else if b < v then trapNext s (s1.setCheck (some false)) 6 n
    else next s (s1.setCheck none) n

/-- CHK.W (R991). -/
def execChkW (dn : BitVec 3) (ea : Ea) (s : State) : Out := checkBound .w dn ea s
/-- CHK.L (R991). -/
def execChkL (dn : BitVec 3) (ea : Ea) (s : State) : Out := checkBound .l dn ea s

/-- CHK2 at a size: the comparison of CMP2, then a trap if C is set (R992). -/
def check2 (z : Size) (rn : BitVec 4) (ea : Ea) (s : State) : Out :=
  compareBounds z rn ea s fun s1 =>
    if s1.flagC then trapNext s s1 6 (2 + Ea.words 1 ea) else next s s1 (2 + Ea.words 1 ea)

/-- CHK2.B (R992). -/
def execChk2B (rn : BitVec 4) (ea : Ea) (s : State) : Out := check2 .b rn ea s
/-- CHK2.W (R992). -/
def execChk2W (rn : BitVec 4) (ea : Ea) (s : State) : Out := check2 .w rn ea s
/-- CHK2.L (R992). -/
def execChk2L (rn : BitVec 4) (ea : Ea) (s : State) : Out := check2 .l rn ea s

end Sys2Proof.Machine
end

