-- ==== Sys2Proof/Machine/Dispatch.lean ====
section
/-! DEFINITION. The meaning of each instruction: one arm per constructor of Instr. -/

namespace Sys2Proof.Machine

def exec (i : Instr) (s : State) : Host.Outcome State Fault Refusal :=
  match i with
  | .oriToCcr imm => Sys2Proof.Machine.execOriToCcr imm s
  | .oriToSr imm => Sys2Proof.Machine.execOriToSr imm s
  | .andiToCcr imm => Sys2Proof.Machine.execAndiToCcr imm s
  | .andiToSr imm => Sys2Proof.Machine.execAndiToSr imm s
  | .eoriToCcr imm => Sys2Proof.Machine.execEoriToCcr imm s
  | .eoriToSr imm => Sys2Proof.Machine.execEoriToSr imm s
  | .oriB imm ea => Sys2Proof.Machine.execOriB imm ea s
  | .oriW imm ea => Sys2Proof.Machine.execOriW imm ea s
  | .oriL imm ea => Sys2Proof.Machine.execOriL imm ea s
  | .andiB imm ea => Sys2Proof.Machine.execAndiB imm ea s
  | .andiW imm ea => Sys2Proof.Machine.execAndiW imm ea s
  | .andiL imm ea => Sys2Proof.Machine.execAndiL imm ea s
  | .subiB imm ea => Sys2Proof.Machine.execSubiB imm ea s
  | .subiW imm ea => Sys2Proof.Machine.execSubiW imm ea s
  | .subiL imm ea => Sys2Proof.Machine.execSubiL imm ea s
  | .addiB imm ea => Sys2Proof.Machine.execAddiB imm ea s
  | .addiW imm ea => Sys2Proof.Machine.execAddiW imm ea s
  | .addiL imm ea => Sys2Proof.Machine.execAddiL imm ea s
  | .eoriB imm ea => Sys2Proof.Machine.execEoriB imm ea s
  | .eoriW imm ea => Sys2Proof.Machine.execEoriW imm ea s
  | .eoriL imm ea => Sys2Proof.Machine.execEoriL imm ea s
  | .cmpiB imm ea => Sys2Proof.Machine.execCmpiB imm ea s
  | .cmpiW imm ea => Sys2Proof.Machine.execCmpiW imm ea s
  | .cmpiL imm ea => Sys2Proof.Machine.execCmpiL imm ea s
  | .btst bit ea => Sys2Proof.Machine.execBtst bit ea s
  | .btstDn dn ea => Sys2Proof.Machine.execBtstDn dn ea s
  | .bchg bit ea => Sys2Proof.Machine.execBchg bit ea s
  | .bchgDn dn ea => Sys2Proof.Machine.execBchgDn dn ea s
  | .bclr bit ea => Sys2Proof.Machine.execBclr bit ea s
  | .bclrDn dn ea => Sys2Proof.Machine.execBclrDn dn ea s
  | .bset bit ea => Sys2Proof.Machine.execBset bit ea s
  | .bsetDn dn ea => Sys2Proof.Machine.execBsetDn dn ea s
  | .movepWD16AyDx dx ay d => Sys2Proof.Machine.execMovepWD16AyDx dx ay d s
  | .movepLD16AyDx dx ay d => Sys2Proof.Machine.execMovepLD16AyDx dx ay d s
  | .movepWDxD16Ay dx ay d => Sys2Proof.Machine.execMovepWDxD16Ay dx ay d s
  | .movepLDxD16Ay dx ay d => Sys2Proof.Machine.execMovepLDxD16Ay dx ay d s
  | .cmp2B rn ea => Sys2Proof.Machine.execCmp2B rn ea s
  | .chk2B rn ea => Sys2Proof.Machine.execChk2B rn ea s
  | .cmp2W rn ea => Sys2Proof.Machine.execCmp2W rn ea s
  | .chk2W rn ea => Sys2Proof.Machine.execChk2W rn ea s
  | .cmp2L rn ea => Sys2Proof.Machine.execCmp2L rn ea s
  | .chk2L rn ea => Sys2Proof.Machine.execChk2L rn ea s
  | .movesB rn toMem ea => Sys2Proof.Machine.execMovesB rn toMem ea s
  | .movesW rn toMem ea => Sys2Proof.Machine.execMovesW rn toMem ea s
  | .movesL rn toMem ea => Sys2Proof.Machine.execMovesL rn toMem ea s
  | .casB du dc ea => Sys2Proof.Machine.execCasB du dc ea s
  | .casW du dc ea => Sys2Proof.Machine.execCasW du dc ea s
  | .casL du dc ea => Sys2Proof.Machine.execCasL du dc ea s
  | .cas2W rn1 du1 dc1 rn2 du2 dc2 => Sys2Proof.Machine.execCas2W rn1 du1 dc1 rn2 du2 dc2 s
  | .cas2L rn1 du1 dc1 rn2 du2 dc2 => Sys2Proof.Machine.execCas2L rn1 du1 dc1 rn2 du2 dc2 s
  | .moveB src dst => Sys2Proof.Machine.execMoveB src dst s
  | .moveL src dst => Sys2Proof.Machine.execMoveL src dst s
  | .moveW src dst => Sys2Proof.Machine.execMoveW src dst s
  | .moveaL an ea => Sys2Proof.Machine.execMoveaL an ea s
  | .moveaW an ea => Sys2Proof.Machine.execMoveaW an ea s
  | .negxB ea => Sys2Proof.Machine.execNegxB ea s
  | .negxW ea => Sys2Proof.Machine.execNegxW ea s
  | .negxL ea => Sys2Proof.Machine.execNegxL ea s
  | .clrB ea => Sys2Proof.Machine.execClrB ea s
  | .clrW ea => Sys2Proof.Machine.execClrW ea s
  | .clrL ea => Sys2Proof.Machine.execClrL ea s
  | .negB ea => Sys2Proof.Machine.execNegB ea s
  | .negW ea => Sys2Proof.Machine.execNegW ea s
  | .negL ea => Sys2Proof.Machine.execNegL ea s
  | .notB ea => Sys2Proof.Machine.execNotB ea s
  | .notW ea => Sys2Proof.Machine.execNotW ea s
  | .notL ea => Sys2Proof.Machine.execNotL ea s
  | .moveFromSr ea => Sys2Proof.Machine.execMoveFromSr ea s
  | .moveFromCcr ea => Sys2Proof.Machine.execMoveFromCcr ea s
  | .moveToCcr ea => Sys2Proof.Machine.execMoveToCcr ea s
  | .moveToSr ea => Sys2Proof.Machine.execMoveToSr ea s
  | .nbcd ea => Sys2Proof.Machine.execNbcd ea s
  | .linkL an d => Sys2Proof.Machine.execLinkL an d s
  | .swap dn => Sys2Proof.Machine.execSwap dn s
  | .bkpt n => Sys2Proof.Machine.execBkpt n s
  | .pea ea => Sys2Proof.Machine.execPea ea s
  | .extW dn => Sys2Proof.Machine.execExtW dn s
  | .extL dn => Sys2Proof.Machine.execExtL dn s
  | .extbL dn => Sys2Proof.Machine.execExtbL dn s
  | .movemWListEa list ea => Sys2Proof.Machine.execMovemWListEa list ea s
  | .movemWEaList list ea => Sys2Proof.Machine.execMovemWEaList list ea s
  | .movemLListEa list ea => Sys2Proof.Machine.execMovemLListEa list ea s
  | .movemLEaList list ea => Sys2Proof.Machine.execMovemLEaList list ea s
  | .tstB ea => Sys2Proof.Machine.execTstB ea s
  | .tstW ea => Sys2Proof.Machine.execTstW ea s
  | .tstL ea => Sys2Proof.Machine.execTstL ea s
  | .tas ea => Sys2Proof.Machine.execTas ea s
  | .illegal => Sys2Proof.Machine.execIllegal s
  | .muluLEaDl dl ea => Sys2Proof.Machine.execMuluLEaDl dl ea s
  | .muluLEaDhDl dh dl ea => Sys2Proof.Machine.execMuluLEaDhDl dh dl ea s
  | .mulsLEaDl dl ea => Sys2Proof.Machine.execMulsLEaDl dl ea s
  | .mulsLEaDhDl dh dl ea => Sys2Proof.Machine.execMulsLEaDhDl dh dl ea s
  | .divuLEaDq dq ea => Sys2Proof.Machine.execDivuLEaDq dq ea s
  | .divulLEaDrDq dr dq ea => Sys2Proof.Machine.execDivulLEaDrDq dr dq ea s
  | .divuLEaDrDq dr dq ea => Sys2Proof.Machine.execDivuLEaDrDq dr dq ea s
  | .divsLEaDq dq ea => Sys2Proof.Machine.execDivsLEaDq dq ea s
  | .divslLEaDrDq dr dq ea => Sys2Proof.Machine.execDivslLEaDrDq dr dq ea s
  | .divsLEaDrDq dr dq ea => Sys2Proof.Machine.execDivsLEaDrDq dr dq ea s
  | .trap n => Sys2Proof.Machine.execTrap n s
  | .linkW an d => Sys2Proof.Machine.execLinkW an d s
  | .unlk an => Sys2Proof.Machine.execUnlk an s
  | .moveAnUsp an => Sys2Proof.Machine.execMoveAnUsp an s
  | .moveUspAn an => Sys2Proof.Machine.execMoveUspAn an s
  | .reset => Sys2Proof.Machine.execReset s
  | .nop => Sys2Proof.Machine.execNop s
  | .stop imm => Sys2Proof.Machine.execStop imm s
  | .rte => Sys2Proof.Machine.execRte s
  | .rtd d => Sys2Proof.Machine.execRtd d s
  | .rts => Sys2Proof.Machine.execRts s
  | .trapv => Sys2Proof.Machine.execTrapv s
  | .rtr => Sys2Proof.Machine.execRtr s
  | .movecRcRn rn code => Sys2Proof.Machine.execMovecRcRn rn code s
  | .movecRnRc rn code => Sys2Proof.Machine.execMovecRnRc rn code s
  | .jsr ea => Sys2Proof.Machine.execJsr ea s
  | .jmp ea => Sys2Proof.Machine.execJmp ea s
  | .chkL dn ea => Sys2Proof.Machine.execChkL dn ea s
  | .chkW dn ea => Sys2Proof.Machine.execChkW dn ea s
  | .lea an ea => Sys2Proof.Machine.execLea an ea s
  | .addqB data ea => Sys2Proof.Machine.execAddqB data ea s
  | .subqB data ea => Sys2Proof.Machine.execSubqB data ea s
  | .addqW data ea => Sys2Proof.Machine.execAddqW data ea s
  | .subqW data ea => Sys2Proof.Machine.execSubqW data ea s
  | .addqL data ea => Sys2Proof.Machine.execAddqL data ea s
  | .subqL data ea => Sys2Proof.Machine.execSubqL data ea s
  | .scc cc ea => Sys2Proof.Machine.execScc cc ea s
  | .dbcc cc dn d => Sys2Proof.Machine.execDbcc cc dn d s
  | .trapccW cc imm => Sys2Proof.Machine.execTrapccW cc imm s
  | .trapccL cc imm => Sys2Proof.Machine.execTrapccL cc imm s
  | .trapcc cc => Sys2Proof.Machine.execTrapcc cc s
  | .bra disp => Sys2Proof.Machine.execBra disp s
  | .bsr disp => Sys2Proof.Machine.execBsr disp s
  | .bcc cc disp => Sys2Proof.Machine.execBcc cc disp s
  | .moveq dn d => Sys2Proof.Machine.execMoveq dn d s
  | .orBEaDn dn ea => Sys2Proof.Machine.execOrBEaDn dn ea s
  | .orBDnEa dn ea => Sys2Proof.Machine.execOrBDnEa dn ea s
  | .orWEaDn dn ea => Sys2Proof.Machine.execOrWEaDn dn ea s
  | .orWDnEa dn ea => Sys2Proof.Machine.execOrWDnEa dn ea s
  | .orLEaDn dn ea => Sys2Proof.Machine.execOrLEaDn dn ea s
  | .orLDnEa dn ea => Sys2Proof.Machine.execOrLDnEa dn ea s
  | .divuW dn ea => Sys2Proof.Machine.execDivuW dn ea s
  | .divsW dn ea => Sys2Proof.Machine.execDivsW dn ea s
  | .sbcd rx mem ry => Sys2Proof.Machine.execSbcd rx mem ry s
  | .pack rx mem ry adj => Sys2Proof.Machine.execPack rx mem ry adj s
  | .unpk rx mem ry adj => Sys2Proof.Machine.execUnpk rx mem ry adj s
  | .subBEaDn dn ea => Sys2Proof.Machine.execSubBEaDn dn ea s
  | .subBDnEa dn ea => Sys2Proof.Machine.execSubBDnEa dn ea s
  | .subWEaDn dn ea => Sys2Proof.Machine.execSubWEaDn dn ea s
  | .subWDnEa dn ea => Sys2Proof.Machine.execSubWDnEa dn ea s
  | .subLEaDn dn ea => Sys2Proof.Machine.execSubLEaDn dn ea s
  | .subLDnEa dn ea => Sys2Proof.Machine.execSubLDnEa dn ea s
  | .subaW an ea => Sys2Proof.Machine.execSubaW an ea s
  | .subaL an ea => Sys2Proof.Machine.execSubaL an ea s
  | .subxB rx mem ry => Sys2Proof.Machine.execSubxB rx mem ry s
  | .subxW rx mem ry => Sys2Proof.Machine.execSubxW rx mem ry s
  | .subxL rx mem ry => Sys2Proof.Machine.execSubxL rx mem ry s
  | .cmpBEaDn dn ea => Sys2Proof.Machine.execCmpBEaDn dn ea s
  | .cmpWEaDn dn ea => Sys2Proof.Machine.execCmpWEaDn dn ea s
  | .cmpLEaDn dn ea => Sys2Proof.Machine.execCmpLEaDn dn ea s
  | .cmpaW an ea => Sys2Proof.Machine.execCmpaW an ea s
  | .cmpaL an ea => Sys2Proof.Machine.execCmpaL an ea s
  | .eorB dn ea => Sys2Proof.Machine.execEorB dn ea s
  | .cmpmB ax ay => Sys2Proof.Machine.execCmpmB ax ay s
  | .eorW dn ea => Sys2Proof.Machine.execEorW dn ea s
  | .cmpmW ax ay => Sys2Proof.Machine.execCmpmW ax ay s
  | .eorL dn ea => Sys2Proof.Machine.execEorL dn ea s
  | .cmpmL ax ay => Sys2Proof.Machine.execCmpmL ax ay s
  | .andBEaDn dn ea => Sys2Proof.Machine.execAndBEaDn dn ea s
  | .andBDnEa dn ea => Sys2Proof.Machine.execAndBDnEa dn ea s
  | .andWEaDn dn ea => Sys2Proof.Machine.execAndWEaDn dn ea s
  | .andWDnEa dn ea => Sys2Proof.Machine.execAndWDnEa dn ea s
  | .andLEaDn dn ea => Sys2Proof.Machine.execAndLEaDn dn ea s
  | .andLDnEa dn ea => Sys2Proof.Machine.execAndLDnEa dn ea s
  | .muluW dn ea => Sys2Proof.Machine.execMuluW dn ea s
  | .mulsW dn ea => Sys2Proof.Machine.execMulsW dn ea s
  | .abcd rx mem ry => Sys2Proof.Machine.execAbcd rx mem ry s
  | .exgDxDy rx ry => Sys2Proof.Machine.execExgDxDy rx ry s
  | .exgAxAy rx ry => Sys2Proof.Machine.execExgAxAy rx ry s
  | .exgDxAy rx ry => Sys2Proof.Machine.execExgDxAy rx ry s
  | .addBEaDn dn ea => Sys2Proof.Machine.execAddBEaDn dn ea s
  | .addBDnEa dn ea => Sys2Proof.Machine.execAddBDnEa dn ea s
  | .addWEaDn dn ea => Sys2Proof.Machine.execAddWEaDn dn ea s
  | .addWDnEa dn ea => Sys2Proof.Machine.execAddWDnEa dn ea s
  | .addLEaDn dn ea => Sys2Proof.Machine.execAddLEaDn dn ea s
  | .addLDnEa dn ea => Sys2Proof.Machine.execAddLDnEa dn ea s
  | .addaW an ea => Sys2Proof.Machine.execAddaW an ea s
  | .addaL an ea => Sys2Proof.Machine.execAddaL an ea s
  | .addxB rx mem ry => Sys2Proof.Machine.execAddxB rx mem ry s
  | .addxW rx mem ry => Sys2Proof.Machine.execAddxW rx mem ry s
  | .addxL rx mem ry => Sys2Proof.Machine.execAddxL rx mem ry s
  | .asrBDxDy cnt ir dy => Sys2Proof.Machine.execAsrBDxDy cnt ir dy s
  | .asrWDxDy cnt ir dy => Sys2Proof.Machine.execAsrWDxDy cnt ir dy s
  | .asrLDxDy cnt ir dy => Sys2Proof.Machine.execAsrLDxDy cnt ir dy s
  | .asrEa ea => Sys2Proof.Machine.execAsrEa ea s
  | .aslBDxDy cnt ir dy => Sys2Proof.Machine.execAslBDxDy cnt ir dy s
  | .aslWDxDy cnt ir dy => Sys2Proof.Machine.execAslWDxDy cnt ir dy s
  | .aslLDxDy cnt ir dy => Sys2Proof.Machine.execAslLDxDy cnt ir dy s
  | .aslEa ea => Sys2Proof.Machine.execAslEa ea s
  | .lsrBDxDy cnt ir dy => Sys2Proof.Machine.execLsrBDxDy cnt ir dy s
  | .lsrWDxDy cnt ir dy => Sys2Proof.Machine.execLsrWDxDy cnt ir dy s
  | .lsrLDxDy cnt ir dy => Sys2Proof.Machine.execLsrLDxDy cnt ir dy s
  | .lsrEa ea => Sys2Proof.Machine.execLsrEa ea s
  | .lslBDxDy cnt ir dy => Sys2Proof.Machine.execLslBDxDy cnt ir dy s
  | .lslWDxDy cnt ir dy => Sys2Proof.Machine.execLslWDxDy cnt ir dy s
  | .lslLDxDy cnt ir dy => Sys2Proof.Machine.execLslLDxDy cnt ir dy s
  | .lslEa ea => Sys2Proof.Machine.execLslEa ea s
  | .roxrBDxDy cnt ir dy => Sys2Proof.Machine.execRoxrBDxDy cnt ir dy s
  | .roxrWDxDy cnt ir dy => Sys2Proof.Machine.execRoxrWDxDy cnt ir dy s
  | .roxrLDxDy cnt ir dy => Sys2Proof.Machine.execRoxrLDxDy cnt ir dy s
  | .roxrEa ea => Sys2Proof.Machine.execRoxrEa ea s
  | .roxlBDxDy cnt ir dy => Sys2Proof.Machine.execRoxlBDxDy cnt ir dy s
  | .roxlWDxDy cnt ir dy => Sys2Proof.Machine.execRoxlWDxDy cnt ir dy s
  | .roxlLDxDy cnt ir dy => Sys2Proof.Machine.execRoxlLDxDy cnt ir dy s
  | .roxlEa ea => Sys2Proof.Machine.execRoxlEa ea s
  | .rorBDxDy cnt ir dy => Sys2Proof.Machine.execRorBDxDy cnt ir dy s
  | .rorWDxDy cnt ir dy => Sys2Proof.Machine.execRorWDxDy cnt ir dy s
  | .rorLDxDy cnt ir dy => Sys2Proof.Machine.execRorLDxDy cnt ir dy s
  | .rorEa ea => Sys2Proof.Machine.execRorEa ea s
  | .rolBDxDy cnt ir dy => Sys2Proof.Machine.execRolBDxDy cnt ir dy s
  | .rolWDxDy cnt ir dy => Sys2Proof.Machine.execRolWDxDy cnt ir dy s
  | .rolLDxDy cnt ir dy => Sys2Proof.Machine.execRolLDxDy cnt ir dy s
  | .rolEa ea => Sys2Proof.Machine.execRolEa ea s
  | .bftst bf ea => Sys2Proof.Machine.execBftst bf ea s
  | .bfextu dn bf ea => Sys2Proof.Machine.execBfextu dn bf ea s
  | .bfchg bf ea => Sys2Proof.Machine.execBfchg bf ea s
  | .bfexts dn bf ea => Sys2Proof.Machine.execBfexts dn bf ea s
  | .bfclr bf ea => Sys2Proof.Machine.execBfclr bf ea s
  | .bfffo dn bf ea => Sys2Proof.Machine.execBfffo dn bf ea s
  | .bfset bf ea => Sys2Proof.Machine.execBfset bf ea s
  | .bfins dn bf ea => Sys2Proof.Machine.execBfins dn bf ea s
  | .fmoveEaFpmFpn src dst => Sys2Proof.Machine.execFmoveEaFpmFpn src dst s
  | .fsmove src dst => Sys2Proof.Machine.execFsmove src dst s
  | .fdmove src dst => Sys2Proof.Machine.execFdmove src dst s
  | .fsqrt src dst => Sys2Proof.Machine.execFsqrt src dst s
  | .fssqrt src dst => Sys2Proof.Machine.execFssqrt src dst s
  | .fdsqrt src dst => Sys2Proof.Machine.execFdsqrt src dst s
  | .fabs src dst => Sys2Proof.Machine.execFabs src dst s
  | .fsabs src dst => Sys2Proof.Machine.execFsabs src dst s
  | .fdabs src dst => Sys2Proof.Machine.execFdabs src dst s
  | .fneg src dst => Sys2Proof.Machine.execFneg src dst s
  | .fsneg src dst => Sys2Proof.Machine.execFsneg src dst s
  | .fdneg src dst => Sys2Proof.Machine.execFdneg src dst s
  | .fdiv src dst => Sys2Proof.Machine.execFdiv src dst s
  | .fsdiv src dst => Sys2Proof.Machine.execFsdiv src dst s
  | .fddiv src dst => Sys2Proof.Machine.execFddiv src dst s
  | .fadd src dst => Sys2Proof.Machine.execFadd src dst s
  | .fsadd src dst => Sys2Proof.Machine.execFsadd src dst s
  | .fdadd src dst => Sys2Proof.Machine.execFdadd src dst s
  | .fmul src dst => Sys2Proof.Machine.execFmul src dst s
  | .fsmul src dst => Sys2Proof.Machine.execFsmul src dst s
  | .fdmul src dst => Sys2Proof.Machine.execFdmul src dst s
  | .fsub src dst => Sys2Proof.Machine.execFsub src dst s
  | .fssub src dst => Sys2Proof.Machine.execFssub src dst s
  | .fdsub src dst => Sys2Proof.Machine.execFdsub src dst s
  | .fcmp src dst => Sys2Proof.Machine.execFcmp src dst s
  | .ftst src dst => Sys2Proof.Machine.execFtst src dst s
  | .fintUnimplemented src dst => Sys2Proof.Machine.execFintUnimplemented src dst s
  | .fsinhUnimplemented src dst => Sys2Proof.Machine.execFsinhUnimplemented src dst s
  | .fintrzUnimplemented src dst => Sys2Proof.Machine.execFintrzUnimplemented src dst s
  | .flognp1Unimplemented src dst => Sys2Proof.Machine.execFlognp1Unimplemented src dst s
  | .fetoxm1Unimplemented src dst => Sys2Proof.Machine.execFetoxm1Unimplemented src dst s
  | .ftanhUnimplemented src dst => Sys2Proof.Machine.execFtanhUnimplemented src dst s
  | .fatanUnimplemented src dst => Sys2Proof.Machine.execFatanUnimplemented src dst s
  | .fasinUnimplemented src dst => Sys2Proof.Machine.execFasinUnimplemented src dst s
  | .fatanhUnimplemented src dst => Sys2Proof.Machine.execFatanhUnimplemented src dst s
  | .fsinUnimplemented src dst => Sys2Proof.Machine.execFsinUnimplemented src dst s
  | .ftanUnimplemented src dst => Sys2Proof.Machine.execFtanUnimplemented src dst s
  | .fetoxUnimplemented src dst => Sys2Proof.Machine.execFetoxUnimplemented src dst s
  | .ftwotoxUnimplemented src dst => Sys2Proof.Machine.execFtwotoxUnimplemented src dst s
  | .ftentoxUnimplemented src dst => Sys2Proof.Machine.execFtentoxUnimplemented src dst s
  | .flognUnimplemented src dst => Sys2Proof.Machine.execFlognUnimplemented src dst s
  | .flog10Unimplemented src dst => Sys2Proof.Machine.execFlog10Unimplemented src dst s
  | .flog2Unimplemented src dst => Sys2Proof.Machine.execFlog2Unimplemented src dst s
  | .fcoshUnimplemented src dst => Sys2Proof.Machine.execFcoshUnimplemented src dst s
  | .facosUnimplemented src dst => Sys2Proof.Machine.execFacosUnimplemented src dst s
  | .fcosUnimplemented src dst => Sys2Proof.Machine.execFcosUnimplemented src dst s
  | .fgetexpUnimplemented src dst => Sys2Proof.Machine.execFgetexpUnimplemented src dst s
  | .fgetmanUnimplemented src dst => Sys2Proof.Machine.execFgetmanUnimplemented src dst s
  | .fmodUnimplemented src dst => Sys2Proof.Machine.execFmodUnimplemented src dst s
  | .fsgldivUnimplemented src dst => Sys2Proof.Machine.execFsgldivUnimplemented src dst s
  | .fremUnimplemented src dst => Sys2Proof.Machine.execFremUnimplemented src dst s
  | .fscaleUnimplemented src dst => Sys2Proof.Machine.execFscaleUnimplemented src dst s
  | .fsglmulUnimplemented src dst => Sys2Proof.Machine.execFsglmulUnimplemented src dst s
  | .fsincosUnimplemented src dst dc => Sys2Proof.Machine.execFsincosUnimplemented src dst dc s
  | .fmovecrUnimplemented dst off => Sys2Proof.Machine.execFmovecrUnimplemented dst off s
  | .fmoveLFpmEa src ea => Sys2Proof.Machine.execFmoveLFpmEa src ea s
  | .fmoveSFpmEa src ea => Sys2Proof.Machine.execFmoveSFpmEa src ea s
  | .fmoveXFpmEa src ea => Sys2Proof.Machine.execFmoveXFpmEa src ea s
  | .fmovePKFpmEa src k ea => Sys2Proof.Machine.execFmovePKFpmEa src k ea s
  | .fmoveWFpmEa src ea => Sys2Proof.Machine.execFmoveWFpmEa src ea s
  | .fmoveDFpmEa src ea => Sys2Proof.Machine.execFmoveDFpmEa src ea s
  | .fmoveBFpmEa src ea => Sys2Proof.Machine.execFmoveBFpmEa src ea s
  | .fmovePDnFpmEa src dn ea => Sys2Proof.Machine.execFmovePDnFpmEa src dn ea s
  | .fmoveLEaFpcr ea => Sys2Proof.Machine.execFmoveLEaFpcr ea s
  | .fmoveLEaFpsr ea => Sys2Proof.Machine.execFmoveLEaFpsr ea s
  | .fmoveLEaFpiar ea => Sys2Proof.Machine.execFmoveLEaFpiar ea s
  | .fmovemLEaCtrlList regs ea => Sys2Proof.Machine.execFmovemLEaCtrlList regs ea s
  | .fmoveLFpcrEa ea => Sys2Proof.Machine.execFmoveLFpcrEa ea s
  | .fmoveLFpsrEa ea => Sys2Proof.Machine.execFmoveLFpsrEa ea s
  | .fmoveLFpiarEa ea => Sys2Proof.Machine.execFmoveLFpiarEa ea s
  | .fmovemLCtrlListEa regs ea => Sys2Proof.Machine.execFmovemLCtrlListEa regs ea s
  | .fmovemXEaList mode list ea => Sys2Proof.Machine.execFmovemXEaList mode list ea s
  | .fmovemXListEa mode list ea => Sys2Proof.Machine.execFmovemXListEa mode list ea s
  | .fscc pred ea => Sys2Proof.Machine.execFscc pred ea s
  | .fdbcc pred dn d => Sys2Proof.Machine.execFdbcc pred dn d s
  | .ftrapccW pred imm => Sys2Proof.Machine.execFtrapccW pred imm s
  | .ftrapccL pred imm => Sys2Proof.Machine.execFtrapccL pred imm s
  | .ftrapcc pred => Sys2Proof.Machine.execFtrapcc pred s
  | .fnop => Sys2Proof.Machine.execFnop s
  | .fbccW pred d => Sys2Proof.Machine.execFbccW pred d s
  | .fbccL pred d => Sys2Proof.Machine.execFbccL pred d s
  | .fsave ea => Sys2Proof.Machine.execFsave ea s
  | .frestore ea => Sys2Proof.Machine.execFrestore ea s
  | .cinvl caches an => Sys2Proof.Machine.execCinvl caches an s
  | .cinvp caches an => Sys2Proof.Machine.execCinvp caches an s
  | .cinva caches => Sys2Proof.Machine.execCinva caches s
  | .cpushl caches an => Sys2Proof.Machine.execCpushl caches an s
  | .cpushp caches an => Sys2Proof.Machine.execCpushp caches an s
  | .cpusha caches => Sys2Proof.Machine.execCpusha caches s
  | .pflushnAn an => Sys2Proof.Machine.execPflushnAn an s
  | .pflushAn an => Sys2Proof.Machine.execPflushAn an s
  | .pflushan => Sys2Proof.Machine.execPflushan s
  | .pflusha => Sys2Proof.Machine.execPflusha s
  | .ptestwAn an => Sys2Proof.Machine.execPtestwAn an s
  | .ptestrAn an => Sys2Proof.Machine.execPtestrAn an s
  | .move16AxPlusAyPlus ax ay => Sys2Proof.Machine.execMove16AxPlusAyPlus ax ay s
  | .move16AnPlusXxxL an addr => Sys2Proof.Machine.execMove16AnPlusXxxL an addr s
  | .move16XxxLAnPlus an addr => Sys2Proof.Machine.execMove16XxxLAnPlus an addr s
  | .move16AnXxxL an addr => Sys2Proof.Machine.execMove16AnXxxL an addr s
  | .move16XxxLAn an addr => Sys2Proof.Machine.execMove16XxxLAn an addr s

end Sys2Proof.Machine
end

