-- ==== Sys2Proof/Machine/Events.lean ====
section
/-! DEFINITION. What the outside does to the machine: reset (70_reset_and_hazards R1301), also inside an instruction
(R1302), the interrupt level (60_exceptions R1131), pins, and an alternate master's transfers (22_caches_bus R345); and the
moments at which the processor prefetches (10_state R89). -/

namespace Sys2Proof.Machine

/-- Transparent translation register with E cleared (R1301 step 6). -/
def disableTtr (r : Long) : Long := r &&& 0xFFFF7FFF

/-- Steps 1 to 6 and (a) to (c) of R1301: everything reset changes before it reads its vector. The CCR and the
registers reset does not name keep their values (10_state R91; log 2). A level 7 request that is present is seen as a
transition from level 0 (R1305, D35). -/
def resetRegisters (s : State) (modes : BitVec 5) : State :=
  { s with
    sr := 0x2700 ||| (s.sr &&& 0x001F)
    ctl := { s.ctl with
      vbr := 0, cacr := 0, tc := 0x4000
      itt0 := disableTtr s.ctl.itt0, itt1 := disableTtr s.ctl.itt1
      dtt0 := disableTtr s.ctl.dtt0, dtt1 := disableTtr s.ctl.dtt1 }
    fpu := Fpu.reset
    mem := { s.mem with
      pushBuffer := none, fillBuffer := FillBuffer.empty, pipe := [], pushFaults := [], lock := false, struck := none }
    run := .normal
    trace := none
    movemEa := none
    fpDue := none
    nmiLatch := s.ipl == 7
    modePins := modes }

/-- The access to the reset vectors, physical: supervisor program (20_memory R156, R160 and R166, 92_eei_decisions
RESET_VECTOR_CONTENT); R1301 and R1350 name supervisor data (log 51). -/
def resetAccess : Access := ⟨0, 6, false, false, none⟩

/-- One reset exception (R1301): ISP and pc come from the long words at 0 and 4, and the first four long words at the pc are
prefetched (R1304); a bus error on the vector, or an odd pc, halts the processor (60_exceptions R1090). -/
def resetOnce (s : State) (modes : BitVec 5) : State :=
  let s := resetRegisters s modes
  match s.readVia resetAccess 0 4 with
  | .fail _ s => s.halt
  | .ok isp s =>
    let s := { s with a := { s.a with isp := isp } }
    match s.readVia resetAccess 4 4 with
    | .fail _ s => s.halt
    | .ok pc s => if pc.getLsbD 0 then { s with pc := pc }.halt else { s with pc := pc }.fillPipe

/-- Reset, and again wherever RSTI strikes inside the reset exception (R1302, 60_exceptions R1072, R1140); each time uses up an
event that is due, so that their number bounds how often. -/
def resetUntil : Nat → State → BitVec 5 → State
  | 0, s, modes => resetOnce s modes
  | n + 1, s, modes =>
    let t := resetOnce s modes
    match t.mem.struck with
    | none => t
    | some modes => resetUntil n t modes

/-- Reset with the given levels of the mode pins (R1301, R1303). -/
def applyReset (s : State) (modes : BitVec 5) : State := resetUntil s.mem.due.length s modes

/-- A sample of the interrupt level: two equal ones in a row make it the valid level (10_state R87); level 7 is latched
on the transition into it (60_exceptions R1131). -/
def applyLevel (s : State) (level : BitVec 3) (r : Iack) : State :=
  if level = s.iplSample then
    { s with ipl := level, iack := r, nmiLatch := s.nmiLatch || (level == 7 && s.ipl != 7) }
  else { s with iplSample := level }

/-- The end of a step in which the processor had the bus, `t` being the state it reached: RSTI that struck in it
abandons the instruction in progress, with the registers as before it and the memory as far as it got (R1301 a,
R1302). -/
def endReset (s t : State) : State :=
  match t.mem.struck with
  | none => t
  | some modes => applyReset { s with mem := t.mem, rsto := t.rsto } modes

/-- The processor prefetches the long word that holds `la` while it runs instructions (10_state R89, 20_memory R196); no
prefetch is made from an odd address (60_exceptions R1110). -/
def applyPrefetch (s : State) (la : Long) (other : Bool) : State :=
  if s.run = .normal ∧ la.getLsbD 0 = false ∧ s.mem.pushFaults = [] then
    endReset s { s with mem := prefetch s.ctl s.started.mem s.super la other }
  else s

/-- One external event. -/
def applyEvent (s : State) : Event → State
  | .reset modes => applyReset s modes
  | .interrupt level r => applyLevel s level r
  | .pins cdis mdis => { s with mem := (BusEvent.pins cdis mdis).apply s.mem }
  | .snoopRead pa size sc => { s with mem := (BusEvent.snoopRead pa size sc).apply s.mem }
  | .snoopWrite pa size sc data => { s with mem := (BusEvent.snoopWrite pa size sc data).apply s.mem }
  | .within cycles e => { s with mem := { s.mem with due := s.mem.due ++ [(cycles, e)] } }
  | .prefetch la other => applyPrefetch s la other

end Sys2Proof.Machine
end

