-- ==== Sys2Proof/Machine/Fetch.lean ====
section
/-! DEFINITION. Fetching an instruction word by word (20_memory R194, 60_exceptions R1103), and the privileged
operation words, which are checked before anything else of the instruction (48_system_control R961, D31). -/

namespace Sys2Proof.Machine

/-- A set of operation words: mask and pattern. -/
structure WordClass where
  mask : Word
  pattern : Word

/-- Whether an operation word is in a class. -/
def WordClass.has (c : WordClass) (w : Word) : Bool := w &&& c.mask == c.pattern

/-- The privileged instructions (Table 9-3 in 60_exceptions R1120): ORI, ANDI, EORI to SR; MOVE from and to SR;
MOVE USP; MOVEC; MOVES; RESET; STOP; RTE; FSAVE; FRESTORE; CINV; CPUSH; PFLUSH; PTEST. Whatever the addressing mode: the
privilege check comes before that of an illegal effective address (92_eei_decisions D31). -/
def privilegedClasses : List WordClass := [
  ⟨0xFFFF, 0x007C⟩, ⟨0xFFFF, 0x027C⟩, ⟨0xFFFF, 0x0A7C⟩,
  ⟨0xFFC0, 0x40C0⟩, ⟨0xFFC0, 0x46C0⟩, ⟨0xFFF0, 0x4E60⟩, ⟨0xFFFE, 0x4E7A⟩,
  ⟨0xFFC0, 0x0E00⟩, ⟨0xFFC0, 0x0E40⟩, ⟨0xFFC0, 0x0E80⟩,
  ⟨0xFFFF, 0x4E70⟩, ⟨0xFFFF, 0x4E72⟩, ⟨0xFFFF, 0x4E73⟩,
  ⟨0xFFC0, 0xF300⟩, ⟨0xFFC0, 0xF340⟩,
  ⟨0xFF18, 0xF408⟩, ⟨0xFF18, 0xF410⟩, ⟨0xFF18, 0xF418⟩,
  ⟨0xFFE0, 0xF500⟩, ⟨0xFFF8, 0xF548⟩, ⟨0xFFF8, 0xF568⟩]

/-- Whether an operation word is a privileged instruction. -/
def privilegedWord (w : Word) : Bool := privilegedClasses.any (·.has w)

/-- What the fetch of an instruction gives. -/
inductive Fetched where
  | instr (i : Instr) (s : State)
  | reject (r : Reject) (s : State)
  | privileged (s : State)
  | fault (f : AccessFault) (s : State)
  | tooLong

noncomputable section

/-- Fetch the words after `ws` until they decode; the first argument bounds how many. -/
def fetchMore : Nat → State → List Word → Fetched
  | 0, _, _ => .tooLong
  | fuel + 1, s, ws =>
    match decode ws with
    | .ok i _ => .instr i s
    | .stop r => .reject r s
    | .more =>
      match fetchWord s.ctl s.mem s.super (s.after ws.length) with
      | .ok w m => fetchMore fuel { s with mem := m } (ws ++ [w])
      | .fail f m => .fault f { s with mem := m }

/-- Fetch and decode the instruction at the pc. In user state a privileged operation word ends the fetch. -/
def fetchInstr (s : State) : Fetched :=
  match fetchWord s.ctl s.mem s.super s.pc with
  | .fail f m => .fault f { s with mem := m }
  | .ok w m =>
    let s := { s with mem := m }
    if !s.super && privilegedWord w then .privileged s else fetchMore (maxWords + 1) s [w]

end

/-- The exception of words that are no instruction (60_exceptions R1116). -/
def rejected (s : State) : Reject → State
  | .illegal => illegalInstruction s
  | .aline => alineInstruction s
  | .fline => flineInstruction s

/-- The fault of an instruction fetch (60_exceptions R1103): nothing of the instruction is done. -/
def fetchFault (s : State) (f : AccessFault) : State := accessError s f FaultInfo.none s.pc

/-- The words of a table word in memory order: each word big-endian, the first at the lowest address. -/
def wordBytes (ws : List Word) : List Byte := ws.flatMap fun w => [w.extractLsb' 8 8, w.extractLsb' 0 8]

end Sys2Proof.Machine
end

