-- ==== Sys2Proof/Machine/Step.lean ====
section
/-! DEFINITION. One step: one pass of the loop of 60_exceptions R1072. -/

namespace Sys2Proof.Machine

/-- The state with an instruction of the opcode table stored where the pc points, in physical memory, and no word
prefetched. -/
def State.withFetchWord (s : State) (nbits w : Nat) : State :=
  { s with mem := { s.mem with ram := putBytes s.mem.ram 0 s.pc (wordBytes (tableWords nbits w)), pipe := [] } }

noncomputable section

/-- Fetch and execute one instruction (R1072). -/
def runInstruction (s : State) : Out :=
  match fetchInstr s with
  | .instr i t => exec i t
  | .reject r t => .next (rejected t r)
  | .privileged t => .next (privilegeViolation t)
  | .fault f t => .next (fetchFault t f)
  | .tooLong => .fault .instructionTooLong

/-- What the processor does by itself: nothing more when it is halted; at the boundary a bus-errored push is reported
first (R1140), then a pending trace comes, then an interrupt, then the next instruction (R1072). -/
def advance (s : State) : Out :=
  if s.run = .halted then .next s
  else
    let s := s.started
    match s.mem.pushFaults, s.trace with
    | p :: _, _ => .next (reportPush s p)
    | [], some pc => .next (takeTrace s pc)
    | [], none =>
      if s.interruptPending then .next (takeInterrupt s)
      else if s.run = .stopped then .next s
      else if s.pc.getLsbD 0 then .next (addressError s s.pc s.pc)
      else runInstruction s

/-- One step: an external event that is due, else what the processor does, which RSTI may cut short (log 9). -/
def step (s : State) : Host.Outcome State Fault Refusal :=
  match s.inputs with
  | e :: es => .next (applyEvent { s with inputs := es } e)
  | [] =>
    match advance s with
    | .next t => .next (endReset s t)
    | o => o

end

end Sys2Proof.Machine
end

