-- ==== Sys2Proof/Safety.lean ====
section
/-! DEFINITION. What counts as a safe run, and the invariants, configurations and outcomes that claims are stated in. -/

namespace Sys2Proof.Machine

/-- No step stops: neither a fault nor a refusal. -/
def Continues (o : Out) : Prop := ∃ s, o = .next s

/-- Memory in its canonical form: physical memory and the alternate spaces. -/
abbrev Memory.wf (m : MemSys) : Prop := cellsWf m.ram = true ∧ cellsWf m.alt = true

/-- The reserved bits of the status register, the control registers and the FPCR read as zero (10_state R60, R67 to
R71, R74, R76). -/
structure Reserved (s : State) : Prop where
  sr : s.sr &&& 0x08E0 = 0
  cacr : s.ctl.cacr &&& 0x7FFF7FFF = 0
  tc : s.ctl.tc &&& 0x3FFF = 0
  itt0 : s.ctl.itt0 &&& 0x00001C9B = 0
  itt1 : s.ctl.itt1 &&& 0x00001C9B = 0
  dtt0 : s.ctl.dtt0 &&& 0x00001C9B = 0
  dtt1 : s.ctl.dtt1 &&& 0x00001C9B = 0
  urp : s.ctl.urp &&& 0x1FF = 0
  srp : s.ctl.srp &&& 0x1FF = 0
  mmusr : s.ctl.mmusr &&& 8 = 0
  fpcr : s.fpu.fpcr &&& 0xFFFF000F = 0

/-- The invariant of the machine: canonical memory, and reserved bits that read as zero. -/
structure Inv (s : State) : Prop where
  mem : Memory.wf s.mem
  reserved : Reserved s

/-- The configuration in which a logical address is the physical address and no cache is used: no transparent
translation, no paging, caches off; nothing outside acts on the bus, and all of memory answers; no push waits, and no serialized page has been read. It is the
configuration after reset. -/
structure Flat (s : State) : Prop where
  itt0 : s.ctl.itt0.getLsbD 15 = false
  itt1 : s.ctl.itt1.getLsbD 15 = false
  dtt0 : s.ctl.dtt0.getLsbD 15 = false
  dtt1 : s.ctl.dtt1.getLsbD 15 = false
  tc : s.ctl.tc.getLsbD 15 = false
  de : s.ctl.cacr.getLsbD 31 = false
  ie : s.ctl.cacr.getLsbD 15 = false
  bus : s.mem.quiet = true
  push : s.mem.pushFaults = []
  serial : s.mem.serialized = false

/-- A state in which an instruction can begin, in the flat configuration: the pc is even. -/
structure Ready (s : State) : Prop where
  flat : Flat s
  even : s.pc.getLsbD 0 = false

/-! ### Memory as claims see it -/

/-- The byte of physical memory at an address. -/
def State.byteAt (s : State) (a : Long) : Byte := cellGet s.mem.ram a.toNat

/-- Whether an address is one of the `n` bytes from `a` upwards, addresses modulo 2^32. -/
def inRange (a : Long) (n : Nat) (b : Long) : Prop := (b - a).toNat < n

/-- Every byte of memory is as before. -/
def SameBytes (s t : State) : Prop := ∀ b, t.byteAt b = s.byteAt b

/-- Every byte of memory outside the `n` bytes at `a` is as before. -/
def SameBytesBut (s t : State) (a : Long) (n : Nat) : Prop := ∀ b, ¬ inRange a n b → t.byteAt b = s.byteAt b

/-- The `n` bytes of memory from `a` upwards. -/
def State.bytesAt (s : State) (a : Long) (n : Nat) : List Byte := getBytes s.mem.ram 0 a n

/-- The big-endian value of the `n` bytes of memory at `a`. -/
def State.valueAt (s : State) (a : Long) (n : Nat) : Long := ofBytes (s.bytesAt a n)

/-- The instruction word that a fetch at `a` gives where no word is stale: the one that the pipeline holds, if it holds no mark
of a fault, else the one in memory. -/
def State.wordAt (s : State) (a : Long) : Option Word :=
  match s.mem.piped a with
  | some (.word _ bs) => some ((ofBytes bs).extractLsb' 0 16)
  | some (.fault _) => none
  | none => some ((s.valueAt a 2).extractLsb' 0 16)

/-- The pipeline when the first four long words from the one that holds `pc` have been prefetched, memory being `ram`. That they
begin there also where `pc` is not a multiple of 4 is the model's choice (91_not_in_source N13; log 7). -/
def handlerPipe (ram : List Host.Cell) (pc : Long) : List PipeWord :=
  (List.range 8).map fun k =>
    let a := (pc &&& 0xFFFFFFFC) + BitVec.ofNat 32 (2 * k)
    ⟨a, .word a (getBytes ram 0 a 2)⟩

/-- `q` is a pipeline that holds the first four long words at `pc`, memory being `ram`. Where `pc` is not a multiple of 4 the
source does not say which four these are (91_not_in_source N13), and it is only said that all words held are those of memory. -/
def Refilled (ram : List Host.Cell) (pc : Long) (q : List PipeWord) : Prop :=
  (∀ w ∈ q, w.content = .word w.la (getBytes ram 0 w.la 2)) ∧
    (pc.extractLsb' 0 2 = 0 → q.map (·.la) = (List.range 8).map fun k => pc + BitVec.ofNat 32 (2 * k))

/-- Physical memory after writes, made in order. -/
def ramAfter : List Host.Cell → List Write → List Host.Cell
  | ram, [] => ram
  | ram, w :: ws => ramAfter (putBytes ram 0 w.addr w.bytes) ws

/-- What a store of `n` bytes of `v` at `a` does to memory: those bytes and no other. -/
def StoresAt (s t : State) (a : Long) (n : Nat) (v : Long) : Prop :=
  SameBytesBut s t a n ∧ (Memory.wf s.mem → t.bytesAt a n = toBytes v n)

/-- What writing the operand at `l` does to memory: nothing unless the operand is in memory. -/
def StoresTo (s t : State) (l : Loc) (n : Nat) (v : Long) : Prop :=
  match l with
  | .mem a => StoresAt s t a n v
  | _ => SameBytes s t

/-! ### Completion -/

/-- `t` is the state `u` with the pc at `pc`, with a trace pending or not, no `movem_ea`, the words in the pipeline kept or
discarded, and with any number of free values drawn and any stale instruction words: what an instruction leaves that has
completed as `u` says. -/
def CompletesAs (u : State) (pc : Long) (t : State) : Prop :=
  ∃ tr p k q, (q = u.mem.pipe ∨ q = []) ∧
    t = { u with pc := pc, trace := tr, movemEa := none, mem := { u.mem with pipe := q, stale := p, draws := k } }

/-- The operand an instruction reads at size `z` after `pre` words: where it is, its value, and the address
registers as the addressing mode leaves them; nothing else of the state changes. -/
def Reads (s : State) (z : Size) (ea : Ea) (pre : Nat) (l : Loc) (v : Long) (a : AddrRegs) : Prop :=
  readEa s z ea pre s.pc = .ok (l, v) { s with a := a }

/-- The address an instruction evaluates for an operand of `n` bytes. -/
def Evaluates (s : State) (ea : Ea) (n pre : Nat) (l : Loc) (a : AddrRegs) : Prop :=
  evalEa s ea n (s.after pre) = .ok l { s with a := a }

/-- The data registers after a result is put at `l`. -/
def dataAfter (s : State) (z : Size) (l : Loc) (v : Long) : Bank Long :=
  match l with
  | .d n => s.d.set n (z.merge (s.d.get n) v)
  | _ => s.d

/-- The address registers after a result is put at `l`. -/
def addrAfter (sr : Word) (a : AddrRegs) (z : Size) (l : Loc) (v : Long) : AddrRegs :=
  match l with
  | .a n => a.set sr n (z.sext v)
  | _ => a

/-- Physical memory after a result of `z` is put at `l`. -/
def ramPut (ram : List Host.Cell) (z : Size) (l : Loc) (v : Long) : List Host.Cell :=
  match l with
  | .mem a => putBytes ram 0 a (toBytes v z.bytes)
  | _ => ram

/-- The state after a result is put at `l` and the status register becomes `sr`, the address registers being `a`. -/
def State.put (s : State) (a : AddrRegs) (sr : Word) (z : Size) (l : Loc) (v : Long) : State :=
  { s with d := dataAfter s z l v, a := addrAfter sr a z l v, sr := sr, mem := { s.mem with ram := ramPut s.mem.ram z l v } }

/-! ### Results and flags in terms of integers -/

/-- The unsigned integer a value is at a size. -/
def unsignedAt (z : Size) (v : Long) : Nat := v.toNat % 2 ^ z.bits

/-- The two's complement integer a value is at a size. -/
def signedAt (z : Size) (v : Long) : Int := (v.toNat : Int).bmod (2 ^ z.bits)

/-- Whether an integer is in the signed range of a size. -/
def inSigned (z : Size) (i : Int) : Bool := decide (-(2 : Int) ^ (z.bits - 1) ≤ i) && decide (i < (2 : Int) ^ (z.bits - 1))

/-- Whether a value is negative at a size. -/
def negAt (z : Size) (v : Long) : Bool := decide (signedAt z v < 0)

/-- Whether a value is zero at a size. -/
def zeroAt (z : Size) (v : Long) : Bool := decide (unsignedAt z v = 0)

/-- The status register `sr` with the five condition codes replaced. -/
def withCcr (sr : Word) (x n z v c : Bool) : Word :=
  sr.extractLsb' 5 11 ++ BitVec.ofBool x ++ BitVec.ofBool n ++ BitVec.ofBool z ++ BitVec.ofBool v ++ BitVec.ofBool c

/-- X of a status register. -/
def srX (sr : Word) : Bool := sr.getLsbD 4
/-- N of a status register. -/
def srN (sr : Word) : Bool := sr.getLsbD 3
/-- Z of a status register. -/
def srZ (sr : Word) : Bool := sr.getLsbD 2
/-- V of a status register. -/
def srV (sr : Word) : Bool := sr.getLsbD 1
/-- C of a status register. -/
def srC (sr : Word) : Bool := sr.getLsbD 0

/-- The sum of two operands and a carry-in, modulo the size. -/
def sumAt (z : Size) (a b : Long) (x : Bool) : Long :=
  BitVec.ofNat 32 ((unsignedAt z a + unsignedAt z b + x.toNat) % 2 ^ z.bits)

/-- The status register after an addition: X = C = the carry out, V = the signed sum is out of range; `sticky` says
that Z is only ever cleared. -/
def sumSr (sr : Word) (z : Size) (a b : Long) (x sticky : Bool) : Word :=
  let c := decide (2 ^ z.bits ≤ unsignedAt z a + unsignedAt z b + x.toNat)
  let r := sumAt z a b x
  withCcr sr c (negAt z r) (zeroAt z r && (!sticky || srZ sr)) (!inSigned z (signedAt z a + signedAt z b + x.toNat)) c

/-- Destination minus source minus a borrow-in, modulo the size. -/
def diffAt (z : Size) (src dst : Long) (x : Bool) : Long :=
  BitVec.ofInt 32 (((unsignedAt z dst : Int) - unsignedAt z src - x.toNat) % 2 ^ z.bits)

/-- The borrow of a subtraction. -/
def borrowAt (z : Size) (src dst : Long) (x : Bool) : Bool := decide (unsignedAt z dst < unsignedAt z src + x.toNat)

/-- Overflow of a subtraction. -/
def underAt (z : Size) (src dst : Long) (x : Bool) : Bool :=
  !inSigned z (signedAt z dst - signedAt z src - x.toNat)

/-- The status register after a subtraction: X = C = the borrow. -/
def diffSr (sr : Word) (z : Size) (src dst : Long) (x sticky : Bool) : Word :=
  let r := diffAt z src dst x
  let c := borrowAt z src dst x
  withCcr sr c (negAt z r) (zeroAt z r && (!sticky || srZ sr)) (underAt z src dst x) c

/-- The status register after a comparison: as a subtraction, X not affected. -/
def compareSr (sr : Word) (z : Size) (src dst : Long) : Word :=
  let r := diffAt z src dst false
  withCcr sr (srX sr) (negAt z r) (zeroAt z r) (underAt z src dst false) (borrowAt z src dst false)

/-- The status register after a logical operation, a move, a clear: N and Z from the result, V = C = 0. -/
def logicSr (sr : Word) (z : Size) (r : Long) : Word := withCcr sr (srX sr) (negAt z r) (zeroAt z r) false false

/-! ### The shapes of completed instructions -/

/-- `i` puts `r v d` in Dn, where `v` is the operand at `ea` and `d` is Dn at size `z`: the status register becomes
`sr v d`, the addressing mode updates its register, and nothing else changes, no byte of memory either. -/
def PutsInDn (i : Instr) (s : State) (z : Size) (ea : Ea) (dn : BitVec 3) (r : Long → Long → Long)
    (sr : Long → Long → Word) : Prop :=
  ∃ l v a t, Reads s z ea 1 l v a ∧ exec i s = .next t ∧
    CompletesAs (s.put a (sr v (s.getD dn)) z (.d dn) (r v (s.getD dn))) (s.after (eaLength 1 z ea)) t ∧ SameBytes s t

/-- `i` reads the operand `v` at `ea`, which `pre` words precede, and puts `r v` there: the status register becomes
`sr v`, the addressing mode updates its register, and nothing else changes; of memory, the bytes of an operand in
memory only. -/
def PutsBack (i : Instr) (s : State) (z : Size) (ea : Ea) (pre : Nat) (r : Long → Long) (sr : Long → Word) : Prop :=
  ∃ l v a t, Reads s z ea pre l v a ∧ exec i s = .next t ∧
    CompletesAs (s.put a (sr v) z l (r v)) (s.after (eaLength pre z ea)) t ∧ StoresTo s t l z.bytes (r v)

/-- `i` reads the operand `v` at `ea` and leaves the state `u v a`, `a` being the address registers as the addressing
mode leaves them; no byte of memory changes. -/
def LeavesFrom (i : Instr) (s : State) (z : Size) (ea : Ea) (pre : Nat) (u : Long → AddrRegs → State) : Prop :=
  ∃ l v a t, Reads s z ea pre l v a ∧ exec i s = .next t ∧
    CompletesAs (u v a) (s.after (eaLength pre z ea)) t ∧ SameBytes s t

/-- `i` writes `r` at `ea` without reading it; the status register becomes `sr`. -/
def Stores (i : Instr) (s : State) (z : Size) (ea : Ea) (pre : Nat) (r : Long) (sr : Word) : Prop :=
  ∃ l a t, Evaluates s ea z.bytes pre l a ∧ exec i s = .next t ∧
    CompletesAs (s.put a sr z l r) (s.after (eaLength pre z ea)) t ∧ StoresTo s t l z.bytes r

/-- `i`, of `n` words, leaves the state `u` and changes no byte of memory. -/
def Leaves (i : Instr) (s : State) (n : Nat) (u : State) : Prop :=
  ∃ t, exec i s = .next t ∧ CompletesAs u (s.after n) t ∧ SameBytes s t

/-- `i` transfers control to `target` with the state `u` and changes no byte of memory. -/
def GoesTo (i : Instr) (s : State) (target : Long) (u : State) : Prop :=
  ∃ t, exec i s = .next t ∧ CompletesAs u target t ∧ SameBytes s t

/-- `i` reaches `pc` with the state `u` after storing the `n` bytes of `v` at `x` and no other byte. -/
def StoresAndReaches (i : Instr) (s : State) (u : State) (pc x : Long) (n : Nat) (v : Long) : Prop :=
  ∃ t, exec i s = .next t ∧
    CompletesAs { u with mem := { u.mem with ram := putBytes u.mem.ram 0 x (toBytes v n) } } pc t ∧ StoresAt s t x n v

/-! ### Taking an exception -/

/-- The bytes of a stack frame: SR, PC, format and vector offset, then what the format adds. -/
def frameBytes (sr : Word) (spc : Long) (format : BitVec 4) (vector : BitVec 8) (extra : List Byte) : List Byte :=
  toBytes (sr.zeroExtend 32) 2 ++ toBytes spc 4 ++
    toBytes ((format ++ 0#2 ++ vector ++ 0#2 : Word).zeroExtend 32) 2 ++ extra

/-- Supervisor state, tracing off: what taking an exception makes of the status register. -/
def exceptionSr (sr : Word) : Word := (sr ||| 0x2000) &&& 0x3FFF

/-- The stack pointer after a frame with `extra` bytes beyond the first eight is pushed: the interrupt or the master
stack pointer, as M says. -/
def exceptionSp (s : State) (extra : List Byte) : Long :=
  s.a.get (exceptionSr s.sr) 7 - BitVec.ofNat 32 (8 + extra.length)

/-- Memory after the frame is pushed. -/
def exceptionRam (s : State) (vector : BitVec 8) (format : BitVec 4) (spc : Long) (extra : List Byte) :
    List Host.Cell :=
  putBytes s.mem.ram 0 (exceptionSp s extra) (frameBytes s.sr spc format vector extra)

/-- The address of the handler: the long word of the vector table, read after the frame is pushed. -/
def handlerOf (s : State) (vector : BitVec 8) (format : BitVec 4) (spc : Long) (extra : List Byte) : Long :=
  ofBytes (getBytes (exceptionRam s vector format spc extra) 0 (s.ctl.vbr + 4 * vector.zeroExtend 32) 4)

/-- `t` is `s` after taking an exception: the status register is saved, with `spc`, the format and the vector offset,
in a frame on the supervisor stack; supervisor state, tracing off; the pc is the handler's address, and its first four long
words are prefetched; `tr` is the trace left pending; nothing else changes, and of memory the bytes of the frame only. -/
def EntersWith (tr : Option Long) (s : State) (vector : BitVec 8) (format : BitVec 4) (spc : Long) (extra : List Byte)
    (t : State) : Prop :=
  (∃ p k q, Refilled (exceptionRam s vector format spc extra) (handlerOf s vector format spc extra) q ∧ t = { s with
      sr := exceptionSr s.sr
      a := s.a.set (exceptionSr s.sr) 7 (exceptionSp s extra)
      pc := handlerOf s vector format spc extra
      mem := { s.mem with
        ram := exceptionRam s vector format spc extra
        pipe := q, stale := p, draws := k }
      trace := tr, movemEa := none, run := .normal }) ∧
  SameBytesBut s t (exceptionSp s extra) (8 + extra.length) ∧
  (Memory.wf s.mem → t.bytesAt (exceptionSp s extra) (8 + extra.length) = frameBytes s.sr spc format vector extra)

/-- Taking an exception with no trace left pending. -/
abbrev Enters (s : State) (vector : BitVec 8) (format : BitVec 4) (spc : Long) (extra : List Byte) (t : State) : Prop :=
  EntersWith none s vector format spc extra t

/-- Taking an exception gives `t`: the handler is entered if its address is even, else the processor halts. -/
def Takes (s : State) (vector : BitVec 8) (format : BitVec 4) (spc : Long) (extra : List Byte) (t : State) : Prop :=
  if (handlerOf s vector format spc extra).getLsbD 0 then t.run = .halted
  else Enters s vector format spc extra t

/-- The trace that an instruction at `pc` which changes the flow leaves pending, `sr` being the status register it began
with: none with T1 T0 = 00, its own address with 01 and 10, either with 11. -/
def TraceAfter (sr : Word) (pc : Long) (tr : Option Long) : Prop :=
  match sr.getLsbD 15, sr.getLsbD 14 with
  | false, false => tr = none
  | true, true => tr = none ∨ tr = some pc
  | _, _ => tr = some pc

/-- As `Takes`, for a trap by which the instruction at `pc` completes: its trace stays pending (90_conflicts C43; `s`
is the state the trap is taken from, with the status register of T bits that the instruction began with). -/
def TakesTraced (pc : Long) (s : State) (vector : BitVec 8) (format : BitVec 4) (spc : Long) (extra : List Byte)
    (t : State) : Prop :=
  if (handlerOf s vector format spc extra).getLsbD 0 then t.run = .halted
  else ∃ tr, TraceAfter s.sr pc tr ∧ EntersWith tr s vector format spc extra t

/-! ### Operands of particular instructions -/

/-- The value the data field of ADDQ and SUBQ stands for: 0 means 8. -/
def quickAt (q : BitVec 3) : Long := if q = 0 then 8 else q.zeroExtend 32

/-- The registers that a predicate on register numbers (D0-D7 as 0-7, A0-A7 as 8-15) selects, in rising order. -/
def registersOf (p : Nat → Bool) : List (BitVec 4) := ((List.range 16).filter p).map (BitVec.ofNat 4)

/-- Bit `k` of a bit field space that starts at byte `base`: bit 0 is the most significant bit of that byte. -/
def State.fieldBit (s : State) (base : Long) (k : Int) : Bool :=
  (s.byteAt (base + BitVec.ofInt 32 (k / 8))).getLsbD (7 - (k % 8).toNat)

/-- The low `n` bytes of an operand of up to twelve bytes, most significant first. -/
def bytesOf96 (v : BitVec 96) (n : Nat) : List Byte := (List.range n).map fun k => v.extractLsb' (8 * (n - 1 - k)) 8

/-- A floating-point source operand as an arithmetic instruction reads it, with its address if it is in memory. -/
def FpReads (s : State) (src : FpSrc) (x : FpOperand) (e : Option Long) (a : AddrRegs) : Prop :=
  readFpSrc s src = .ok (x, e) { s with a := a }

/-- The precision of an arithmetic instruction: its own, or FPCR.PREC; for the reserved code 11 any. -/
def PrecisionIs (s : State) (forced : Option Prec) (p : Prec) : Prop :=
  match forced with
  | some q => p = q
  | none =>
    match (s.fpu.fpcr.extractLsb' 6 2).toNat with
    | 0 => p = .ext
    | 1 => p = .single
    | 2 => p = .double
    | _ => True

/-- The value of a finite extended-precision number. -/
def Fpr.value (x : Fpr) : ℚ := (if x.s then -1 else 1) * (x.m.toNat : ℚ) * (2 : ℚ) ^ x.lsbExp

/-- What the external operand with the bits `b` in the format `f` is to the FPU (42_floating_point R687, R688): an integer has
its value; S and D have the value of their sign, exponent and fraction, their infinities and NANs, the fraction left-aligned, and
denormalized ones that are not supported; X is the register's own layout; P is not supported. -/
def FpConverts (f : FpFmt) (b : BitVec 96) (x : FpOperand) : Prop :=
  let integer (i : Int) : Prop := x.unsupported = false ∧ x.v.value = i ∧
    if i = 0 then x.v = ⟨false, 0, 0⟩ else x.v.cls = .norm
  let real (ew fw : Nat) : Prop :=
    let s := b.getLsbD (ew + fw)
    let e := b.toNat / 2 ^ fw % 2 ^ ew
    let fraction := b.toNat % 2 ^ fw
    if e = 0 then
      if fraction = 0 then x.unsupported = false ∧ x.v = ⟨s, 0, 0⟩ else x.unsupported = true
    else x.unsupported = false ∧ x.v.s = s ∧
      if e = 2 ^ ew - 1 then
        if fraction = 0 then x.v = ⟨s, 0x7FFF, 0⟩
        else x.v.cls = (if b.getLsbD (fw - 1) then .qnan else .snan) ∧ x.v.m.toNat % 2 ^ 63 = fraction * 2 ^ (63 - fw)
      else x.v.cls = .norm ∧ x.v.value = (if s then -1 else 1) * ((2 ^ fw + fraction : Nat) : ℚ) *
        (2 : ℚ) ^ ((e : Int) - (2 ^ (ew - 1) - 1) - fw)
  match f with
  | .b => integer (b.extractLsb' 0 8).toInt
  | .w => integer (b.extractLsb' 0 16).toInt
  | .l => integer (b.extractLsb' 0 32).toInt
  | .s => real 8 23
  | .d => real 11 52
  | .x => x.v = ⟨b.getLsbD 95, b.extractLsb' 80 15, b.extractLsb' 0 64⟩ ∧
      (x.unsupported = true ↔ x.v.cls = .denorm ∨ x.v.cls = .unnorm)
  | .p => x.unsupported = true

/-- The value of an exact magnitude. -/
def Exact.value (v : Exact) : ℚ := (v.n : ℚ) * (2 : ℚ) ^ v.e

/-- The value of a rounded magnitude. -/
def Rounded.value (r : Rounded) : ℚ := (r.m.toNat : ℚ) * (2 : ℚ) ^ (r.exp - 63)

/-- A result before rounding is exactly `q`: a finite magnitude with its sign, or a zero. -/
def Raw.Is (r : Raw) (q : ℚ) : Prop :=
  (∃ s v, r = .finite s v ∧ 0 < v.n ∧ (if s then -1 else 1) * v.value = q) ∨ (q = 0 ∧ ∃ s, r = .value (Fpr.zeroOf s))

/-- `r` is the positive magnitude `q`, of sign `neg`, rounded to `p` bits (42_floating_point R704): normalised; within
half a unit in the last place of `q` for RN, even if just half a unit away; within one unit on the side that the other
modes name; `q` itself if `p` bits can represent it; inexact exactly if it is not `q`. -/
def RoundsTo (p : Nat) (rnd : Rnd) (neg : Bool) (q : ℝ) (r : Rounded) : Prop :=
  r.m.msb = true ∧ (∀ k < 64 - p, r.m.getLsbD k = false) ∧ (r.inexact = true ↔ (r.value : ℝ) ≠ q) ∧
  (∀ (n : Nat) (k : Int), n < 2 ^ p → q = n * (2 : ℝ) ^ k → (r.value : ℝ) = q) ∧
  ∃ e : Int, (2 : ℝ) ^ e ≤ q ∧ q < (2 : ℝ) ^ (e + 1) ∧
    let ulp : ℝ := (2 : ℝ) ^ (e - p + 1)
    (rnd = .rn → |(r.value : ℝ) - q| ≤ ulp / 2 ∧ (|(r.value : ℝ) - q| = ulp / 2 → r.m.getLsbD (64 - p) = false)) ∧
    (rnd = .rz ∨ (rnd = .rm ∧ neg = false) ∨ (rnd = .rp ∧ neg = true) → (r.value : ℝ) ≤ q ∧ q < r.value + ulp) ∧
    ((rnd = .rm ∧ neg = true) ∨ (rnd = .rp ∧ neg = false) → q ≤ r.value ∧ (r.value : ℝ) < q + ulp)

/-- What a store of `x` in the format `f` at `l` leaves of the integer registers and memory: the bits stored, big-endian,
if the source states them, else any, and nothing outside the destination. -/
def FloatStored (s u : State) (f : FpFmt) (l : Loc) (bits : Option (BitVec 96)) : Prop :=
  match l with
  | .mem y => u.d = s.d ∧ SameBytesBut s u y (fmtBytes f) ∧
      (Memory.wf s.mem → ∀ b, bits = some b → u.bytesAt y (fmtBytes f) = bytesOf96 b (fmtBytes f))
  | .d r => SameBytes s u ∧ ∃ w,
      u.d = s.d.set r ((match f with | .b => Size.b | .w => .w | _ => .l).merge (s.getD r) w) ∧
      ∀ b, bits = some b → w = b.extractLsb' 0 32
  | _ => True

/-- `i`, of `n` words, stores `x` in the format `f` at `l`, `b` being `s` with the address registers and the FPU as they
are before the store: FPSR takes the exception byte; a reported exception is taken after the store with the next
instruction's address and the destination's in a format $3 frame, otherwise the instruction completes. -/
def StoresFloat (i : Instr) (s b : State) (f : FpFmt) (x : Fpr) (l : Loc) (n : Nat) : Prop :=
  let o := storeOf f (rndOf s.fpu.fpcr) x
  let fpsr := updateFpsr s.fpu.fpsr o.exc none
  ∃ u t, exec i s = .next t ∧ FloatStored b u f l o.bits ∧
    u = { b with d := u.d, fpu := u.fpu, mem := { b.mem with ram := u.mem.ram, draws := u.mem.draws } } ∧
    match reported o.exc (s.fpu.fpcr.extractLsb' 8 8) (if integerFmt f then 0x78 else 0x18) with
    | none => u.fpu = { b.fpu with fpsr := fpsr } ∧ CompletesAs u (s.after n) t
    | some v => u.fpu = { b.fpu with fpsr := fpsr, kind := .busy, frame := u.fpu.frame } ∧
        ∃ y, (∀ z, l = .mem z → y = z) ∧ Takes u v 3 (s.after n) (toBytes y 4) t

end Sys2Proof.Machine
end

