-- ==== Sys2Proof/WellFormed.lean ====
section
/-! DEFINITION. Well-formed instructions: every effective address is of a mode the instruction takes (R480), no
field holds a value that belongs to another instruction. -/

namespace Sys2Proof

/-- The combinations Table 3-7 of R459 does not reserve: with the index suppressed there is no postindexed form. -/
def IndexExt.wf : IndexExt → Bool
  | .full _ _ true _ (.post _) => false
  | _ => true

/-- An effective address of a mode in `s`, whose immediate fits in `n` words. -/
def Ea.wf (s : EaSet) (n : Nat) (e : Ea) : Bool :=
  s.has e.modeField e.regField &&
    match e with
    | .idx _ x => x.wf
    | .pcIdx x => x.wf
    | .imm v => decide (v.toNat < 2 ^ (16 * n))
    | _ => true

/-- A floating-point source whose effective address fits its format (R480, R692). -/
def FpSrc.wf : FpSrc → Bool
  | .fp _ => true
  | .ea f e => e.wf f.srcModes f.immWords

/-- An 8-bit displacement is neither 0 nor -1, which announce longer ones (R922). -/
def BrDisp.wf : BrDisp → Bool
  | .byte d => d != 0x00 && d != 0xFF
  | _ => true

/-- Whether an instruction is one the encoder can write and the decoder reads back. -/
def Instr.wf : Instr → Bool
  | .oriToCcr .. => true
  | .oriToSr .. => true
  | .andiToCcr .. => true
  | .andiToSr .. => true
  | .eoriToCcr .. => true
  | .eoriToSr .. => true
  | .oriB _ ea => ea.wf .dataAlt 1
  | .oriW _ ea => ea.wf .dataAlt 1
  | .oriL _ ea => ea.wf .dataAlt 2
  | .andiB _ ea => ea.wf .dataAlt 1
  | .andiW _ ea => ea.wf .dataAlt 1
  | .andiL _ ea => ea.wf .dataAlt 2
  | .subiB _ ea => ea.wf .dataAlt 1
  | .subiW _ ea => ea.wf .dataAlt 1
  | .subiL _ ea => ea.wf .dataAlt 2
  | .addiB _ ea => ea.wf .dataAlt 1
  | .addiW _ ea => ea.wf .dataAlt 1
  | .addiL _ ea => ea.wf .dataAlt 2
  | .eoriB _ ea => ea.wf .dataAlt 1
  | .eoriW _ ea => ea.wf .dataAlt 1
  | .eoriL _ ea => ea.wf .dataAlt 2
  | .cmpiB _ ea => ea.wf .dataNoImm 1
  | .cmpiW _ ea => ea.wf .dataNoImm 1
  | .cmpiL _ ea => ea.wf .dataNoImm 2
  | .btst _ ea => ea.wf .dataNoImm 1
  | .btstDn _ ea => ea.wf .data 1
  | .bchg _ ea => ea.wf .dataAlt 1
  | .bchgDn _ ea => ea.wf .dataAlt 1
  | .bclr _ ea => ea.wf .dataAlt 1
  | .bclrDn _ ea => ea.wf .dataAlt 1
  | .bset _ ea => ea.wf .dataAlt 1
  | .bsetDn _ ea => ea.wf .dataAlt 1
  | .movepWD16AyDx .. => true
  | .movepLD16AyDx .. => true
  | .movepWDxD16Ay .. => true
  | .movepLDxD16Ay .. => true
  | .cmp2B _ ea => ea.wf .control 1
  | .chk2B _ ea => ea.wf .control 1
  | .cmp2W _ ea => ea.wf .control 1
  | .chk2W _ ea => ea.wf .control 1
  | .cmp2L _ ea => ea.wf .control 1
  | .chk2L _ ea => ea.wf .control 1
  | .movesB _ _ ea => ea.wf .memAlt 1
  | .movesW _ _ ea => ea.wf .memAlt 1
  | .movesL _ _ ea => ea.wf .memAlt 1
  | .casB _ _ ea => ea.wf .memAlt 1
  | .casW _ _ ea => ea.wf .memAlt 1
  | .casL _ _ ea => ea.wf .memAlt 1
  | .cas2W .. => true
  | .cas2L .. => true
  | .moveB src dst => src.wf .data 1 && dst.wf .dataAlt 1
  | .moveL src dst => src.wf .all 2 && dst.wf .dataAlt 2
  | .moveW src dst => src.wf .all 1 && dst.wf .dataAlt 1
  | .moveaL _ ea => ea.wf .all 2
  | .moveaW _ ea => ea.wf .all 1
  | .negxB ea => ea.wf .dataAlt 1
  | .negxW ea => ea.wf .dataAlt 1
  | .negxL ea => ea.wf .dataAlt 2
  | .clrB ea => ea.wf .dataAlt 1
  | .clrW ea => ea.wf .dataAlt 1
  | .clrL ea => ea.wf .dataAlt 2
  | .negB ea => ea.wf .dataAlt 1
  | .negW ea => ea.wf .dataAlt 1
  | .negL ea => ea.wf .dataAlt 2
  | .notB ea => ea.wf .dataAlt 1
  | .notW ea => ea.wf .dataAlt 1
  | .notL ea => ea.wf .dataAlt 2
  | .moveFromSr ea => ea.wf .dataAlt 1
  | .moveFromCcr ea => ea.wf .dataAlt 1
  | .moveToCcr ea => ea.wf .data 1
  | .moveToSr ea => ea.wf .data 1
  | .nbcd ea => ea.wf .dataAlt 1
  | .linkL .. => true
  | .swap .. => true
  | .bkpt .. => true
  | .pea ea => ea.wf .control 1
  | .extW .. => true
  | .extL .. => true
  | .extbL .. => true
  | .movemWListEa _ ea => ea.wf .movemStore 1
  | .movemWEaList _ ea => ea.wf .movemLoad 1
  | .movemLListEa _ ea => ea.wf .movemStore 1
  | .movemLEaList _ ea => ea.wf .movemLoad 1
  | .tstB ea => ea.wf .data 1
  | .tstW ea => ea.wf .all 1
  | .tstL ea => ea.wf .all 2
  | .tas ea => ea.wf .dataAlt 1
  | .illegal => true
  | .muluLEaDl _ ea => ea.wf .data 2
  | .muluLEaDhDl _ _ ea => ea.wf .data 2
  | .mulsLEaDl _ ea => ea.wf .data 2
  | .mulsLEaDhDl _ _ ea => ea.wf .data 2
  | .divuLEaDq _ ea => ea.wf .data 2
  | .divulLEaDrDq dr dq ea => dr != dq && ea.wf .data 2
  | .divuLEaDrDq _ _ ea => ea.wf .data 2
  | .divsLEaDq _ ea => ea.wf .data 2
  | .divslLEaDrDq dr dq ea => dr != dq && ea.wf .data 2
  | .divsLEaDrDq _ _ ea => ea.wf .data 2
  | .trap .. => true
  | .linkW .. => true
  | .unlk .. => true
  | .moveAnUsp .. => true
  | .moveUspAn .. => true
  | .reset => true
  | .nop => true
  | .stop .. => true
  | .rte => true
  | .rtd .. => true
  | .rts => true
  | .trapv => true
  | .rtr => true
  | .movecRcRn .. => true
  | .movecRnRc .. => true
  | .jsr ea => ea.wf .control 1
  | .jmp ea => ea.wf .control 1
  | .chkL _ ea => ea.wf .data 2
  | .chkW _ ea => ea.wf .data 1
  | .lea _ ea => ea.wf .control 1
  | .addqB _ ea => ea.wf .dataAlt 1
  | .subqB _ ea => ea.wf .dataAlt 1
  | .addqW _ ea => ea.wf .alterable 1
  | .subqW _ ea => ea.wf .alterable 1
  | .addqL _ ea => ea.wf .alterable 1
  | .subqL _ ea => ea.wf .alterable 1
  | .scc _ ea => ea.wf .dataAlt 1
  | .dbcc .. => true
  | .trapccW .. => true
  | .trapccL .. => true
  | .trapcc .. => true
  | .bra disp => disp.wf
  | .bsr disp => disp.wf
  | .bcc cc disp => disp.wf && cc != 0 && cc != 1
  | .moveq .. => true
  | .orBEaDn _ ea => ea.wf .data 1
  | .orBDnEa _ ea => ea.wf .memAlt 1
  | .orWEaDn _ ea => ea.wf .data 1
  | .orWDnEa _ ea => ea.wf .memAlt 1
  | .orLEaDn _ ea => ea.wf .data 2
  | .orLDnEa _ ea => ea.wf .memAlt 2
  | .divuW _ ea => ea.wf .data 1
  | .divsW _ ea => ea.wf .data 1
  | .sbcd .. => true
  | .pack .. => true
  | .unpk .. => true
  | .subBEaDn _ ea => ea.wf .data 1
  | .subBDnEa _ ea => ea.wf .memAlt 1
  | .subWEaDn _ ea => ea.wf .all 1
  | .subWDnEa _ ea => ea.wf .memAlt 1
  | .subLEaDn _ ea => ea.wf .all 2
  | .subLDnEa _ ea => ea.wf .memAlt 2
  | .subaW _ ea => ea.wf .all 1
  | .subaL _ ea => ea.wf .all 2
  | .subxB .. => true
  | .subxW .. => true
  | .subxL .. => true
  | .cmpBEaDn _ ea => ea.wf .data 1
  | .cmpWEaDn _ ea => ea.wf .all 1
  | .cmpLEaDn _ ea => ea.wf .all 2
  | .cmpaW _ ea => ea.wf .all 1
  | .cmpaL _ ea => ea.wf .all 2
  | .eorB _ ea => ea.wf .dataAlt 1
  | .cmpmB .. => true
  | .eorW _ ea => ea.wf .dataAlt 1
  | .cmpmW .. => true
  | .eorL _ ea => ea.wf .dataAlt 2
  | .cmpmL .. => true
  | .andBEaDn _ ea => ea.wf .data 1
  | .andBDnEa _ ea => ea.wf .memAlt 1
  | .andWEaDn _ ea => ea.wf .data 1
  | .andWDnEa _ ea => ea.wf .memAlt 1
  | .andLEaDn _ ea => ea.wf .data 2
  | .andLDnEa _ ea => ea.wf .memAlt 2
  | .muluW _ ea => ea.wf .data 1
  | .mulsW _ ea => ea.wf .data 1
  | .abcd .. => true
  | .exgDxDy .. => true
  | .exgAxAy .. => true
  | .exgDxAy .. => true
  | .addBEaDn _ ea => ea.wf .data 1
  | .addBDnEa _ ea => ea.wf .memAlt 1
  | .addWEaDn _ ea => ea.wf .all 1
  | .addWDnEa _ ea => ea.wf .memAlt 1
  | .addLEaDn _ ea => ea.wf .all 2
  | .addLDnEa _ ea => ea.wf .memAlt 2
  | .addaW _ ea => ea.wf .all 1
  | .addaL _ ea => ea.wf .all 2
  | .addxB .. => true
  | .addxW .. => true
  | .addxL .. => true
  | .asrBDxDy .. => true
  | .asrWDxDy .. => true
  | .asrLDxDy .. => true
  | .asrEa ea => ea.wf .memAlt 1
  | .aslBDxDy .. => true
  | .aslWDxDy .. => true
  | .aslLDxDy .. => true
  | .aslEa ea => ea.wf .memAlt 1
  | .lsrBDxDy .. => true
  | .lsrWDxDy .. => true
  | .lsrLDxDy .. => true
  | .lsrEa ea => ea.wf .memAlt 1
  | .lslBDxDy .. => true
  | .lslWDxDy .. => true
  | .lslLDxDy .. => true
  | .lslEa ea => ea.wf .memAlt 1
  | .roxrBDxDy .. => true
  | .roxrWDxDy .. => true
  | .roxrLDxDy .. => true
  | .roxrEa ea => ea.wf .memAlt 1
  | .roxlBDxDy .. => true
  | .roxlWDxDy .. => true
  | .roxlLDxDy .. => true
  | .roxlEa ea => ea.wf .memAlt 1
  | .rorBDxDy .. => true
  | .rorWDxDy .. => true
  | .rorLDxDy .. => true
  | .rorEa ea => ea.wf .memAlt 1
  | .rolBDxDy .. => true
  | .rolWDxDy .. => true
  | .rolLDxDy .. => true
  | .rolEa ea => ea.wf .memAlt 1
  | .bftst _ ea => ea.wf .bfRead 1
  | .bfextu _ _ ea => ea.wf .bfRead 1
  | .bfchg _ ea => ea.wf .bfWrite 1
  | .bfexts _ _ ea => ea.wf .bfRead 1
  | .bfclr _ ea => ea.wf .bfWrite 1
  | .bfffo _ _ ea => ea.wf .bfRead 1
  | .bfset _ ea => ea.wf .bfWrite 1
  | .bfins _ _ ea => ea.wf .bfWrite 1
  | .fmoveEaFpmFpn src _ => src.wf
  | .fsmove src _ => src.wf
  | .fdmove src _ => src.wf
  | .fsqrt src _ => src.wf
  | .fssqrt src _ => src.wf
  | .fdsqrt src _ => src.wf
  | .fabs src _ => src.wf
  | .fsabs src _ => src.wf
  | .fdabs src _ => src.wf
  | .fneg src _ => src.wf
  | .fsneg src _ => src.wf
  | .fdneg src _ => src.wf
  | .fdiv src _ => src.wf
  | .fsdiv src _ => src.wf
  | .fddiv src _ => src.wf
  | .fadd src _ => src.wf
  | .fsadd src _ => src.wf
  | .fdadd src _ => src.wf
  | .fmul src _ => src.wf
  | .fsmul src _ => src.wf
  | .fdmul src _ => src.wf
  | .fsub src _ => src.wf
  | .fssub src _ => src.wf
  | .fdsub src _ => src.wf
  | .fcmp src _ => src.wf
  | .ftst src _ => src.wf
  | .fintUnimplemented src _ => src.wf
  | .fsinhUnimplemented src _ => src.wf
  | .fintrzUnimplemented src _ => src.wf
  | .flognp1Unimplemented src _ => src.wf
  | .fetoxm1Unimplemented src _ => src.wf
  | .ftanhUnimplemented src _ => src.wf
  | .fatanUnimplemented src _ => src.wf
  | .fasinUnimplemented src _ => src.wf
  | .fatanhUnimplemented src _ => src.wf
  | .fsinUnimplemented src _ => src.wf
  | .ftanUnimplemented src _ => src.wf
  | .fetoxUnimplemented src _ => src.wf
  | .ftwotoxUnimplemented src _ => src.wf
  | .ftentoxUnimplemented src _ => src.wf
  | .flognUnimplemented src _ => src.wf
  | .flog10Unimplemented src _ => src.wf
  | .flog2Unimplemented src _ => src.wf
  | .fcoshUnimplemented src _ => src.wf
  | .facosUnimplemented src _ => src.wf
  | .fcosUnimplemented src _ => src.wf
  | .fgetexpUnimplemented src _ => src.wf
  | .fgetmanUnimplemented src _ => src.wf
  | .fmodUnimplemented src _ => src.wf
  | .fsgldivUnimplemented src _ => src.wf
  | .fremUnimplemented src _ => src.wf
  | .fscaleUnimplemented src _ => src.wf
  | .fsglmulUnimplemented src _ => src.wf
  | .fsincosUnimplemented src _ _ => src.wf
  | .fmovecrUnimplemented .. => true
  | .fmoveLFpmEa _ ea => ea.wf FpFmt.l.dstModes 1
  | .fmoveSFpmEa _ ea => ea.wf FpFmt.s.dstModes 1
  | .fmoveXFpmEa _ ea => ea.wf FpFmt.x.dstModes 1
  | .fmovePKFpmEa _ _ ea => ea.wf FpFmt.p.dstModes 1
  | .fmoveWFpmEa _ ea => ea.wf FpFmt.w.dstModes 1
  | .fmoveDFpmEa _ ea => ea.wf FpFmt.d.dstModes 1
  | .fmoveBFpmEa _ ea => ea.wf FpFmt.b.dstModes 1
  | .fmovePDnFpmEa _ _ ea => ea.wf FpFmt.p.dstModes 1
  | .fmoveLEaFpcr ea => ea.wf (ctrlSrcModes 4) 2
  | .fmoveLEaFpsr ea => ea.wf (ctrlSrcModes 2) 2
  | .fmoveLEaFpiar ea => ea.wf (ctrlSrcModes 1) 2
  | .fmovemLEaCtrlList regs ea => ctrlCount regs != 1 && ea.wf (ctrlSrcModes regs) (2 * ctrlCount regs)
  | .fmoveLFpcrEa ea => ea.wf (ctrlDstModes 4) 2
  | .fmoveLFpsrEa ea => ea.wf (ctrlDstModes 2) 2
  | .fmoveLFpiarEa ea => ea.wf (ctrlDstModes 1) 2
  | .fmovemLCtrlListEa regs ea => ctrlCount regs != 1 && ea.wf (ctrlDstModes regs) (2 * ctrlCount regs)
  | .fmovemXEaList _ _ ea => ea.wf .movemLoad 1
  | .fmovemXListEa _ _ ea => ea.wf .movemStore 1
  | .fscc _ ea => ea.wf .dataAlt 1
  | .fdbcc .. => true
  | .ftrapccW .. => true
  | .ftrapccL .. => true
  | .ftrapcc .. => true
  | .fnop => true
  | .fbccW pred d => (pred != 0 || d != 0)
  | .fbccL .. => true
  | .fsave ea => ea.wf .fsaveModes 1
  | .frestore ea => ea.wf .frestoreModes 1
  | .cinvl .. => true
  | .cinvp .. => true
  | .cinva .. => true
  | .cpushl .. => true
  | .cpushp .. => true
  | .cpusha .. => true
  | .pflushnAn .. => true
  | .pflushAn .. => true
  | .pflushan => true
  | .pflusha => true
  | .ptestwAn .. => true
  | .ptestrAn .. => true
  | .move16AxPlusAyPlus .. => true
  | .move16AnPlusXxxL .. => true
  | .move16XxxLAnPlus .. => true
  | .move16AnXxxL .. => true
  | .move16XxxLAn .. => true

end Sys2Proof
end

