-- ==== Sys2Proof/Certificates/Slice0/Obligations.lean ====
section
/-! DEFINITION. The statements for the provers. Each docstring names the rules of the spec a statement rests on. A
statement about every state holds in the flat configuration (`Flat`, `Ready` of Safety.lean) where it says so: no
translation, no caching, no bus errors, an even pc. -/

open Sys2Proof Sys2Proof.Machine

/-! ### Encoding -/

/-- The decoder reads back every well-formed instruction from the words the encoder writes, whatever words follow
(30_encoding R450 to R480). -/
def Obligations.DecodeInvertsEncode : Prop :=
  ∀ (i : Instr) (rest : List Word), i.wf = true → decode (encode i ++ rest) = .ok i rest

/-- A few words written out from the encodings of the instruction files decode to their instructions, $A000 is an A-line
opcode and $4AFA is illegal (30_encoding R475, R477, R478). -/
def Obligations.WordsOfTheSpecDecode : Prop :=
  decode [0xD081] = .ok (.addLEaDn 0 (.dn 1)) [] ∧
  decode [0x2F3C, 0x1234, 0x5678] = .ok (.moveL (.imm 0x12345678) (.pre 7)) [] ∧
  decode [0x4E75] = .ok .rts [] ∧
  decode [0x48E7, 0xC0C0] = .ok (.movemLListEa 0xC0C0 (.pre 7)) [] ∧
  decode [0xE9C1, 0x0088] = .ok (.bfextu 0 ⟨false, 2, false, 8⟩ (.dn 1)) [] ∧
  decode [0xF200, 0x0422] = .ok (.fadd (.fp 1) 0) [] ∧
  decode [0x4E7B, 0x0801] = .ok (.movecRnRc 0 0x801) [] ∧
  decode [0xF620, 0x9000] = .ok (.move16AxPlusAyPlus 0 1) [] ∧
  decode [0xA000] = .stop .aline ∧
  decode [0x4AFA] = .stop .illegal

/-! ### The machine -/

/-- A step at an instruction boundary with nothing else due runs the instruction that the words at the pc decode to, each
the one that the instruction pipeline holds or else the one in memory: no instruction word has an old content that a fetch
may still give, no shorter run of the words is an instruction, and in user state the first word is not that of a privileged
instruction (60_exceptions R1072, 10_state R89). What the step adds is that the instruction's words are taken from the
pipeline before it runs, that it begins with no serialized page read, whatever was read before (`State.started`, log 65), and
the end of a reset that strikes inside it (70_reset_and_hazards R1302), nothing where none does. -/
def Obligations.StepRunsTheDecodedInstruction : Prop :=
  ∀ (s : State) (i : Instr) (ws : List Word), Ready s.started →
    s.inputs = [] → s.run = .normal → s.trace = none → s.interruptPending = false → s.mem.stale = [] →
    ws ≠ [] → ws.length ≤ maxWords →
    (∀ k (h : k < ws.length), s.wordAt (s.after k) = some ws[k]) →
    (∀ k, 0 < k → k < ws.length → decode (ws.take k) = .more) → decode ws = .ok i [] →
    (s.super = true ∨ ∀ w, ws.head? = some w → privilegedWord w = false) →
    (step s = match exec i (s.started.taken ws.length) with | .next t => .next (endReset s t) | o => o) ∧
    ∀ t, t.mem.struck = none → endReset s t = t

/-- The values after reset that the spec gives (10_state R91): SR = $2700, VBR = 0, CACR = 0, TC.E = 0 with TC.P = 1,
the transparent translation registers disabled, FP0 to FP7 positive nonsignaling NANs, FPCR, FPSR and FPIAR zero, the
FPU null. -/
def Obligations.ResetHoldsTheValuesOfTheSpec : Prop :=
  State.reset.sr &&& 0xFFE0 = 0x2700 ∧ State.reset.ctl.vbr = 0 ∧ State.reset.ctl.cacr = 0 ∧
  State.reset.ctl.tc = 0x4000 ∧
  (∀ r ∈ [State.reset.ctl.itt0, State.reset.ctl.itt1, State.reset.ctl.dtt0, State.reset.ctl.dtt1],
    r.getLsbD 15 = false) ∧
  (∀ n : BitVec 3, State.reset.getFp n = ⟨false, 0x7FFF, 0xFFFFFFFFFFFFFFFF⟩) ∧
  State.reset.fpu.fpcr = 0 ∧ State.reset.fpu.fpsr = 0 ∧ State.reset.fpu.fpiar = 0 ∧
  State.reset.fpu.kind = .null ∧ State.reset.fpu.pending = none

/-- The invariant holds right after reset: memory is in canonical form and reserved bits are zero (10_state R60, R67
to R71, R74, R76). -/
def Obligations.ResetSatisfiesTheInvariant : Prop :=
  Inv State.reset

/-- Every step keeps the invariant: memory stays in canonical form, and the reserved bits of SR, CACR, TC, the
transparent translation registers, URP, SRP, MMUSR and FPCR stay zero (10_state R60, R67 to R71, R74, R76). -/
def Obligations.EveryStepKeepsTheInvariant : Prop :=
  ∀ s t : State, Inv s → step s = .next t → Inv t

/-- No instruction that runs in user state changes a supervisor control register, S, M or the interrupt mask, but that
an exception sets S and clears tracing (10_state R60, R62, 48_system_control R961). -/
def Obligations.UserInstructionsLeaveTheSystemByte : Prop :=
  ∀ (i : Instr) (s t : State), s.super = false → exec i s = .next t →
    t.ctl = s.ctl ∧ t.sr &&& 0x1700 = s.sr &&& 0x1700 ∧
    ((t.super = false ∧ t.sr &&& 0xC000 = s.sr &&& 0xC000) ∨ (t.super = true ∧ t.sr &&& 0xC000 = 0))

/-- In user state every privileged instruction takes the privilege violation exception, vector 8, with the address of
the instruction itself in a format $0 frame, and does nothing else (60_exceptions R1120, 48_system_control R961). -/
def Obligations.PrivilegedInstructionsTrapInUserState : Prop :=
  ∀ (s : State) (ea : Ea) (imm : BitVec 16) (an : BitVec 3) (rn : BitVec 4) (code : BitVec 12) (m : Bool)
    (c : BitVec 2), Flat s → s.super = false →
    ∀ i ∈ ([.andiToSr imm, .eoriToSr imm, .oriToSr imm, .moveFromSr ea, .moveToSr ea, .moveAnUsp an, .moveUspAn an,
      .movecRcRn rn code, .movecRnRc rn code, .movesB rn m ea, .movesW rn m ea, .movesL rn m ea, .reset, .stop imm,
      .rte, .fsave ea, .frestore ea, .cinvl c an, .cinvp c an, .cinva c, .cpushl c an, .cpushp c an, .cpusha c,
      .pflushAn an, .pflushnAn an, .pflusha, .pflushan, .ptestrAn an, .ptestwAn an] : List Instr),
    ∃ t, exec i s = .next t ∧ Takes s 8 0 s.pc [] t

/-- TRAP #n takes vector 32 + n with the address of the next instruction; ILLEGAL and BKPT take vector 4 with their own
address; all with a format $0 frame (48_system_control R990, R993, R994, 60_exceptions R1075, R1080).
TRAPcc and TRAPV: with the condition true they take vector 7 with the next instruction's address and a format $2
frame that names the instruction itself; with the condition false only the pc changes (48_system_control R995,
R996, 60_exceptions R1081, R1115). That a traced TRAP, TRAPcc or TRAPV leaves its trace pending is the model's choice between
90_conflicts C43 and 48_system_control R997 with 60_exceptions R1125 d (log 17). -/
def Obligations.TrapInstructionsTakeTheirException : Prop :=
  (∀ (s : State) (n : BitVec 4) (k : BitVec 3), Flat s →
    (∃ t, exec (.trap n) s = .next t ∧ TakesTraced s.pc s (32 + n.zeroExtend 8) 0 (s.pc + 2) [] t) ∧
    (∃ t, exec .illegal s = .next t ∧ Takes s 4 0 s.pc [] t) ∧
    (∃ t, exec (.bkpt k) s = .next t ∧ Takes s 4 0 s.pc [] t)) ∧
  (∀ (s : State) (cc : BitVec 4) (w : BitVec 16) (l : BitVec 32), Ready s →
    ∀ p ∈ ([(.trapcc cc, 1, s.cond cc), (.trapccW cc w, 2, s.cond cc), (.trapccL cc l, 3, s.cond cc),
      (.trapv, 1, srV s.sr)] : List (Instr × Nat × Bool)),
    (p.2.2 = false → Leaves p.1 s p.2.1 s) ∧
    (p.2.2 = true → ∃ t, exec p.1 s = .next t ∧ TakesTraced s.pc s 7 2 (s.after p.2.1) (toBytes s.pc 4) t))

/-- An instruction that names an odd address as its next one takes the address error: vector 3, a format $2 frame with
its own address as the pc and the address less its low bit, after its other effects (a return address pushed or popped,
CCR, SR, a counted register). A Bcc or FBcc does so taken or not (60_exceptions R1110, 47_program_control R923). Shown for
Bcc, BRA, BSR, JMP, JSR, RTS, RTD, RTR, RTE of a format $0 frame, DBcc, FBcc and FDBcc that branch.
The first clause is the model's choice (log 46): a step at a boundary with an odd pc, which no instruction leaves, takes the
address error with that pc. That FBcc and FDBcc have made a null FPU idle by then is the model's choice too (10_state R83,
log 42). -/
def Obligations.OddAddressesAreAddressErrors : Prop :=
  (∀ s : State, Flat s → s.inputs = [] → s.run = .normal → s.trace = none → s.interruptPending = false →
    s.pc.getLsbD 0 = true →
    ∃ t, step s = .next t ∧ Takes s 3 2 s.pc (toBytes (s.pc &&& 0xFFFFFFFE) 4) t) ∧
  (∀ (s : State) (cc : BitVec 4) (dn : BitVec 3) (pred : BitVec 5) (disp : BrDisp) (ea : Ea) (d : BitVec 16)
    (e : BitVec 32), Ready s →
    let errs (i : Instr) (target : Long) (u : State) : Prop := target.getLsbD 0 = true →
      ∃ t, exec i s = .next t ∧ Takes u 3 2 s.pc (toBytes (target &&& 0xFFFFFFFE) 4) t
    let sp := s.getA 7
    let popped (n : Long) : State := { s with a := s.a.set s.sr 7 (sp + n) }
    let called (n : Nat) : State := { s with
      a := s.a.set s.sr 7 (sp - 4)
      mem := { s.mem with ram := putBytes s.mem.ram 0 (sp - 4) (toBytes (s.after n) 4) } }
    let counted (b : State) : State :=
      { b with d := s.d.set dn ((s.getD dn).extractLsb' 16 16 ++ ((s.getD dn).extractLsb' 0 16 - 1)) }
    let n := match disp with | .byte _ => 1 | .word _ => 2 | .long _ => 3
    let target := branchTarget s (brValue disp)
    errs (.bcc cc disp) target s ∧ errs (.bra disp) target s ∧ errs (.bsr disp) target (called n) ∧
    (ea.wf .control 1 = true → ∃ x, Evaluates s ea 0 1 (.mem x) s.a ∧
      errs (.jmp ea) x s ∧ errs (.jsr ea) x (called (1 + Ea.words 1 ea))) ∧
    errs .rts (s.valueAt sp 4) (popped 4) ∧
    errs (.rtd d) (s.valueAt sp 4) (popped (4 + d.signExtend 32)) ∧
    errs .rtr (s.valueAt (sp + 2) 4)
      { popped 6 with sr := (s.sr &&& 0xFF00) ||| ((s.valueAt sp 2).extractLsb' 0 16 &&& 0x001F) } ∧
    (s.super = true → (s.valueAt (sp + 6) 2).extractLsb' 12 4 = 0 →
      errs .rte (s.valueAt (sp + 2) 4) { popped 8 with sr := (s.valueAt sp 2).extractLsb' 0 16 &&& 0xF71F }) ∧
    (s.cond cc = false → (s.getD dn).extractLsb' 0 16 ≠ 0 →
      errs (.dbcc cc dn d) (s.pc + 2 + d.signExtend 32) (counted s)) ∧
    (s.fpu.pending = none → (pred.getLsbD 4 = false ∨ s.fpu.fpsr.getLsbD 24 = false) →
      let s' : State := { s with fpu := { s.fpu with kind := if s.fpu.kind = .null then .idle else s.fpu.kind } }
      errs (.fbccW pred d) (s.pc + 2 + d.signExtend 32) s' ∧ errs (.fbccL pred e) (s.pc + 2 + e) s' ∧
      (fpTruth pred s.fpu.fpsr = false → (s.getD dn).extractLsb' 0 16 ≠ 0 →
        errs (.fdbcc pred dn d) (s.pc + 4 + d.signExtend 32) (counted s'))))

/-- A traced instruction leaves its trace pending, and the next step takes it: vector 9, a format $2 frame with the next
instruction's address and the traced one's (10_state R61, 60_exceptions R1072, R1125). Shown for NOP and BRA only: NOP with
T1 T0 = 10, which is traced, with 00 and 01, which is not, and with 11, where the source reserves the modes and the model lets
it be traced or not (93_implementation_defined U1, log 13); BRA to an even target with 01, which is traced.
That the entry of a trace or an interrupt drops the address that an RTE of a frame with CM has left for a MOVEM is the model's
choice (log 30).
An interrupt above the mask, or one that is latched as nonmaskable, is taken at the boundary: its level is 7 if latched, its
vector what the system answers, 24 + level for an autovector, 24 for a spurious one; a format $0 frame with the interrupted
pc is pushed, the mask becomes the level and the latch is cleared. From M = 1 that frame goes on the master stack, M is
cleared, and a format $1 frame with S set in its SR goes on the interrupt stack (60_exceptions R1131, R1132,
22_caches_bus R370).
A halted processor stays as it is, and so does a stopped one for which neither a trace nor an interrupt is due (10_state
R88). -/
def Obligations.TraceAndInterruptAtTheBoundary : Prop :=
  (∀ (s : State) (disp : BrDisp), Ready s →
    (s.sr &&& 0xC000 = 0x8000 → ∃ t, exec .nop s = .next t ∧ t.trace = some s.pc) ∧
    (s.sr &&& 0xC000 = 0 ∨ s.sr &&& 0xC000 = 0x4000 → ∃ t, exec .nop s = .next t ∧ t.trace = none) ∧
    (s.sr &&& 0xC000 = 0xC000 → ∃ t, exec .nop s = .next t ∧ (t.trace = none ∨ t.trace = some s.pc)) ∧
    (s.sr &&& 0xC000 = 0x4000 → (branchTarget s (brValue disp)).getLsbD 0 = false →
      ∃ t, exec (.bra disp) s = .next t ∧ t.trace = some s.pc) ∧
    (∀ pc, s.trace = some pc → s.inputs = [] → s.run ≠ .halted →
      ∃ t, step s = .next t ∧ Takes s 9 2 s.pc (toBytes pc 4) t)) ∧
  (∀ s : State, Flat s → s.inputs = [] → s.run ≠ .halted → s.trace = none →
    (s.nmiLatch = true ∨ (s.sr.extractLsb' 8 3).toNat < s.ipl.toNat) →
    let level : BitVec 3 := if s.nmiLatch then 7 else s.ipl
    let v : BitVec 8 := match s.iack with | .vector w => w | .auto => 24 + level.zeroExtend 8 | .spurious => 24
    let sr := (exceptionSr s.sr &&& 0xF8FF) ||| (level.zeroExtend 16 <<< 8)
    (master s.sr = false → (handlerOf s v 0 s.pc []).getLsbD 0 = false →
      ∃ t u, step s = .next t ∧ Enters s v 0 s.pc [] u ∧ t = { u with sr := sr, nmiLatch := false }) ∧
    (master s.sr = true →
      let ram1 := putBytes s.mem.ram 0 (s.a.msp - 8) (frameBytes s.sr s.pc 0 v [])
      let ram2 := putBytes ram1 0 (s.a.isp - 8) (frameBytes (s.sr ||| 0x2000) s.pc 1 v [])
      let handler := ofBytes (getBytes ram2 0 (s.ctl.vbr + 4 * v.zeroExtend 32) 4)
      handler.getLsbD 0 = false →
      ∃ p k q, Refilled ram2 handler q ∧ step s = .next { s with
        sr := sr &&& 0xEFFF
        a := { s.a with msp := s.a.msp - 8, isp := s.a.isp - 8 }
        pc := handler
        mem := { s.mem with ram := ram2, pipe := q, stale := p, draws := k }
        trace := none, movemEa := none, run := .normal, nmiLatch := false })) ∧
  (∀ s : State, Flat s → s.inputs = [] →
    s.run = .halted ∨ (s.run = .stopped ∧ s.trace = none ∧ s.nmiLatch = false ∧
      s.ipl.toNat ≤ (s.sr.extractLsb' 8 3).toNat) → step s = .next s)

/-- Words that are no instruction take vector 10 (bits 15:12 = 1010), 11 (1111) or 4 (all others), with the pc of the first one
in a format $0 frame, whether the first word or a later one refuses them (30_encoding R477, R478, 60_exceptions R1116). The words
are those that the pipeline holds or else memory, and no shorter run of them is refused or is an instruction.
Which words take which: only line A gives vector 10, and always; only line F gives vector 11, for its first words always, and for
a general floating-point word with a second word (the command) that no instruction has. An extension word of an indexed mode is
refused exactly where it has a reserved combination, with vector 4, whatever its instruction's line (30_encoding R465).
The model's choices: a line-F word with an addressing mode its instruction does not allow (FSAVE Dn) takes vector 11 and not 4,
and a reserved extension word in line F takes 4 and not 11 (log 19). -/
def Obligations.WordsThatAreNoInstructionTrap : Prop :=
  (∀ (s : State) (ws : List Word) (r : Reject), Ready s → s.inputs = [] → s.run = .normal → s.trace = none →
    s.interruptPending = false → s.mem.stale = [] → ws ≠ [] → ws.length ≤ maxWords →
    (∀ k (h : k < ws.length), s.wordAt (s.after k) = some ws[k]) →
    (∀ k, 0 < k → k < ws.length → decode (ws.take k) = .more) → decode ws = .stop r →
    (s.super = true ∨ ∀ w, ws.head? = some w → privilegedWord w = false) →
    ∃ t, step s = .next t ∧ Takes s (match r with | .aline => 10 | .fline => 11 | .illegal => 4) 0 s.pc [] t) ∧
  (∀ (w : Word) (ws : List Word) (r : Reject), decode (w :: ws) = .stop r →
    (r = .aline ↔ w.extractLsb' 12 4 = 0xA) ∧ (r = .fline → w.extractLsb' 12 4 = 0xF) ∧
    (w.extractLsb' 12 4 = 0xF → ws = [] → r = .fline) ∧
    (w &&& 0xFFC0 = 0xF200 → ws.length = 1 → r = .fline)) ∧
  (∀ w : Word, w.extractLsb' 12 4 = 0xA → decode [w] = .stop .aline) ∧
  (∀ (x : Word) (ws : List Word) (r : Reject),
    let reserved := x.getLsbD 8 = true ∧ (x.getLsbD 3 = true ∨ x.extractLsb' 4 2 = 0 ∨ x.extractLsb' 0 3 = 4 ∨
      (x.getLsbD 6 = true ∧ x.getLsbD 2 = true))
    takeIdx (x :: ws) = .stop r ↔ r = .illegal ∧ reserved)

/-- A fault while an instruction reads its operand aborts it: it takes the access error from the state before it, with
memory as it is, its own address stacked and no write-back; D0-D7, the condition codes, and every address register
but the stack pointer that takes the frame are as before (60_exceptions R1096, R1102). Shown for eight instructions. Where a
bus-errored replacement push of the instruction waits, the instruction is given up instead, as it was before it but for
memory, so that the push is taken first (22_caches_bus R342, 60_exceptions R1141; the order is log 20), but not once it has
read a serialized page (20_memory R191; log 65).
A fault of the write of MOVE completes it: the access error has the next instruction's address and the write as
write-back 1, with CT and the MOVE's address if it is traced (60_exceptions R1096, R1097); where a bus-errored replacement push
waits, the fault taken is the push's, with the write as write-back 2 of its frame (60_exceptions R1099; log 20).
The access error is vector 2 with a format $7 frame: EA where a continuation bit is set, the special status word but for
its undefined bit 7, the fault address, and for each write that is pending a write-back status, address and data, write-back 1
on the byte lanes of its address; the status of a write-back that is not pending has V clear, and is 0 for write-back 1 of a
read or a push and for all three of an instruction fetch; a bus-errored push shows its data, and the pending writes from
write-back 2 on (60_exceptions R1097 to R1100, R1103). -/
def Obligations.ReadFaultLeavesTheRegisters : Prop :=
  (∀ (s u : State) (ea : Ea) (dn : BitVec 3) (f : AccessFault),
    ∀ p ∈ ([(.addLEaDn dn ea, .l), (.subWEaDn dn ea, .w), (.andBEaDn dn ea, .b), (.cmpLEaDn dn ea, .l),
      (.moveaL dn ea, .l), (.muluW dn ea, .w), (.divsW dn ea, .w), (.tstL ea, .l)] : List (Instr × Size)),
    readEa s p.2 ea 1 s.pc = .fail f u →
    let waits := u.mem.pushFaults ≠ [] ∧ u.mem.serialized = false
    (waits → exec p.1 s = .next { s with mem := u.mem }) ∧ (¬ waits →
    ∃ t, exec p.1 s = .next t ∧ t = accessError { s with mem := u.mem } f FaultInfo.none s.pc ∧
      t.d = s.d ∧ t.a.usp = s.a.usp ∧
      (∀ n : BitVec 3, n ≠ 7 → t.a.get t.sr n = s.a.get s.sr n) ∧ t.sr &&& 0x1F = s.sr &&& 0x1F ∧
      t.super = true ∧ t.fpu = s.fpu ∧ t.ctl = s.ctl)) ∧
  (∀ (s u u' w : State) (src dst : Ea) (l : Loc) (v x : Long) (f : AccessFault),
    ∀ p ∈ ([(.moveB src dst, .b), (.moveW src dst, .w), (.moveL src dst, .l)] : List (Instr × Size)),
    readEa s p.2 src 1 s.pc = .ok (l, v) u → evalEa u dst p.2.bytes s.pc = .ok (.mem x) u' →
    let m : State := { u' with
      sr := logicSr u'.sr p.2 v, pc := s.after (1 + Ea.words p.2.immWords src + Ea.words p.2.immWords dst) }
    m.write (m.writeOf x p.2.bytes v) = .fail f w → f.push = none →
    let taken (tr : Option Long) (ct : BitVec 4) : Out :=
      let i : FaultInfo := ⟨ct, s.pc, false, [m.writeOf x p.2.bytes v]⟩
      match w.mem.pushFaults with
      | [] => .next (accessError { w with trace := tr } f i m.pc)
      | q :: r => .next (accessError { w with trace := tr, mem := { w.mem with pushFaults := r } } q.fault i m.pc)
    (s.sr &&& 0xC000 = 0 → exec p.1 s = taken none 0) ∧
    (s.sr &&& 0xC000 = 0x8000 → exec p.1 s = taken (some s.pc) 2)) ∧
  (∀ (s : State) (f : AccessFault) (i : FaultInfo) (spc : Long), Flat s → (∀ w ∈ i.writes, w.bytes.length ≤ 4) →
    ∃ extra : List Byte, extra.length = 52 ∧ Takes s 2 7 spc extra (accessError s f i spc) ∧
      let bytes (off n : Nat) : List Byte := (extra.drop (off - 8)).take n
      let long (off : Nat) : Long := ofBytes (bytes off 4)
      let word (off : Nat) : Word := (ofBytes (bytes off 2)).extractLsb' 0 16
      (i.cont ≠ 0 → long 0x08 = i.ea) ∧
      (i.ctFree = false → word 0x0C &&& 0xFF7F = i.cont ++ BitVec.ofBool f.ma ++ BitVec.ofBool f.atc ++
        BitVec.ofBool f.lk ++ BitVec.ofBool f.read ++ 0#1 ++ f.size ++ f.tt ++ f.tm) ∧
      long 0x14 = f.fa ∧
      (f.push = none → f.tt ≠ 1 ∨ f.read = true →
        (∀ k < 3, match i.writes[k]? with
          | some w => word (0x12 - 2 * k) = 0#8 ++ 1#1 ++ sizeCode w.bytes.length ++ w.acc.tt ++ w.acc.tm
          | none => word (0x12 - 2 * k) &&& 0xFF80 = 0 ∧
            (k = 0 ∧ f.read = true ∨ f.isFetch = true → word (0x12 - 2 * k) = 0)) ∧
        (∀ w, i.writes[0]? = some w → long 0x28 = w.addr ∧
          ∀ j < w.bytes.length, bytes (0x2C + (w.addr.toNat + j) % 4) 1 = (w.bytes.drop j).take 1) ∧
        (∀ k < 3, 0 < k → ∀ w, i.writes[k]? = some w → long (0x28 - 8 * k) = w.addr ∧
          bytes (0x30 - 8 * k - w.bytes.length) w.bytes.length = w.bytes)) ∧
      (∀ p, f.push = some p → word 0x12 = 0 ∧ long 0x28 = f.fa ∧ bytes 0x2C p.bytes.length = p.bytes ∧
        ∀ k < 2, match i.writes[k]? with
          | some w => word (0x10 - 2 * k) = 0#8 ++ 1#1 ++ sizeCode w.bytes.length ++ w.acc.tt ++ w.acc.tm ∧
            long (0x20 - 8 * k) = w.addr ∧ bytes (0x28 - 8 * k - w.bytes.length) w.bytes.length = w.bytes
          | none => word (0x10 - 2 * k) &&& 0xFF80 = 0))

/-- RSTI (70_reset_and_hazards R1301, R1303): SR becomes $2700 but for the condition codes, VBR and CACR zero, TC $4000,
the transparent translation registers disabled, the FPU null; ISP and pc are loaded from addresses 0 and 4, the first four
long words at the pc are prefetched (R1304), and the levels of the mode pins are latched. That D0-D7, A0-A6,
USP, MSP and the condition codes keep their values is the model's choice (log 2). -/
def Obligations.ResetEventLoadsStackAndProgramCounter : Prop :=
  ∀ (s : State) (modes : BitVec 5) (es : List Event), s.inputs = .reset modes :: es → s.mem.quiet = true →
    (s.valueAt 4 4).getLsbD 0 = false →
    ∃ t, step s = .next t ∧ t.sr = 0x2700 ||| (s.sr &&& 0x1F) ∧ t.ctl.vbr = 0 ∧ t.ctl.cacr = 0 ∧ t.ctl.tc = 0x4000 ∧
      (∀ r ∈ [t.ctl.itt0, t.ctl.itt1, t.ctl.dtt0, t.ctl.dtt1], r.getLsbD 15 = false) ∧ t.fpu = Fpu.reset ∧ t.a = { s.a with isp := s.valueAt 0 4 } ∧ t.pc = s.valueAt 4 4 ∧ t.d = s.d ∧
      t.run = .normal ∧ t.trace = none ∧ t.modePins = modes ∧ t.inputs = es ∧
      Refilled s.mem.ram (s.valueAt 4 4) t.mem.pipe ∧ SameBytes s t

/-! ### Data movement -/

/-- MOVE: the source is addressed and read, then the destination addressed and written; N and Z from the value, V and C
cleared, X kept; no other register but those the two addressing modes update, and no other byte, changes
(40_data_movement R551, 30_encoding R466).
Every addressing mode, as all instructions evaluate it for an operand of any length and read it at any size: the register, the
immediate, or the memory at An, with (An)+ and -(An) stepping An by the length (a byte with A7: 2), at An or the PC plus a
displacement, at an absolute address, and at the sum of base, base displacement and scaled index, each of which may be
suppressed, directly or through the long word of memory there, the index added before or after it (30_encoding R453 to R464).
The PC is the address of the first extension word. -/
def Obligations.MoveCopiesTheSource : Prop :=
  (∀ (s : State) (src dst : Ea), Ready s →
    ∀ p ∈ ([(.moveB src dst, .b), (.moveW src dst, .w), (.moveL src dst, .l)] : List (Instr × Size)),
    ∃ l v a l' a' t, Reads s p.2 src 1 l v a ∧
      evalEa { s with a := a } dst p.2.bytes s.pc = .ok l' { s with a := a' } ∧ exec p.1 s = .next t ∧
      CompletesAs (s.put a' (logicSr s.sr p.2 v) p.2 l' v)
        (s.after (1 + Ea.words p.2.immWords src + Ea.words p.2.immWords dst)) t ∧
      StoresTo s t l' p.2.bytes v) ∧
  (∀ (s : State) (z : Size) (pre : Nat) (r : BitVec 3) (d : BitVec 16) (x : Long) (v : BitVec 96), Ready s →
    let value (l : Loc) (ea : Ea) (n : Nat) : Prop := (∀ k, Evaluates s ea k pre l s.a) ∧
      Reads s z ea pre l (BitVec.ofNat 32 (n % 2 ^ z.bits)) s.a
    let memory (ea : Ea) (y : Nat → Long) (a : Nat → AddrRegs) : Prop :=
      (∀ k, Evaluates s ea k pre (.mem (y k)) (a k)) ∧
      Reads s z ea pre (.mem (y z.bytes)) (s.valueAt (y z.bytes) z.bytes) (a z.bytes)
    let finds (ea : Ea) (y : Long) : Prop := memory ea (fun _ => y) (fun _ => s.a)
    let step (k : Nat) : Long := if k = 1 ∧ r = 7 then 2 else BitVec.ofNat 32 k
    let disp (e : Disp) : Long := match e with | .null => 0 | .word w => w.signExtend 32 | .long l => l
    value (.d r) (.dn r) (s.getD r).toNat ∧ value (.a r) (.an r) (s.getA r).toNat ∧ value (.imm v) (.imm v) v.toNat ∧
    finds (.ind r) (s.getA r) ∧
    memory (.post r) (fun _ => s.getA r) (fun k => s.a.set s.sr r (s.getA r + step k)) ∧
    memory (.pre r) (fun k => s.getA r - step k) (fun k => s.a.set s.sr r (s.getA r - step k)) ∧
    finds (.disp r d) (s.getA r + d.signExtend 32) ∧ finds (.pcDisp d) (s.after pre + d.signExtend 32) ∧
    finds (.absW d) (d.signExtend 32) ∧ finds (.absL x) x ∧
    ∀ p ∈ ([(.idx r, s.getA r), (.pcIdx, s.after pre)] : List ((IndexExt → Ea) × Long)),
    ∀ (i : IndexReg) (d8 : BitVec 8) (bs is : Bool) (bd od : Disp),
      let reg := if i.da then s.getA i.reg else s.getD i.reg
      let whole : Int := if i.long then reg.toInt else (reg.extractLsb' 0 16).toInt
      let index : Long := BitVec.ofInt 32 (whole * 2 ^ i.scale.toNat)
      let base := (if bs then 0 else p.2) + disp bd
      let added := if is then 0 else index
      finds (p.1 (.brief i d8)) (p.2 + d8.signExtend 32 + index) ∧
      finds (p.1 (.full i bs is bd .none)) (base + added) ∧
      finds (p.1 (.full i bs is bd (.pre od))) (s.valueAt (base + added) 4 + disp od) ∧
      finds (p.1 (.full i bs is bd (.post od))) (s.valueAt base 4 + added + disp od))

/-- MOVEM to memory: the listed registers, lowest number at the lowest address, stand in consecutive operands, from the
evaluated address upwards for a control mode, up to the old An less one byte for -(An), whose list is reversed, whose An
ends at the lowest address and, if listed, is stored less the operand size; no other byte changes
(40_data_movement R554).
MOVEM from memory: the listed registers are loaded in rising order from consecutive operands, words
sign-extended; with (An)+ the register ends after the last operand, whatever was loaded; no byte of memory changes
(40_data_movement R555). -/
def Obligations.MovemMovesTheListedRegisters : Prop :=
  (∀ (s : State) (list : BitVec 16) (ea : Ea) (r : BitVec 3), Ready s → s.movemEa = none →
    ∀ p ∈ ([(.movemWListEa list, .w), (.movemLListEa list, .l)] : List ((Ea → Instr) × Size)),
    (ea.wf .controlAlt 1 = true →
      let regs := registersOf fun i => list.getLsbD i
      ∃ x t, Evaluates s ea 0 2 (.mem x) s.a ∧ exec (p.1 ea) s = .next t ∧
        CompletesAs { s with mem := { s.mem with ram := t.mem.ram } } (s.after (2 + Ea.words 1 ea)) t ∧
        SameBytesBut s t x (p.2.bytes * regs.length) ∧
        (Memory.wf s.mem → t.bytesAt x (p.2.bytes * regs.length) = regs.flatMap fun n => toBytes (s.getR n) p.2.bytes)) ∧
    (let regs := registersOf fun i => list.getLsbD (15 - i)
     let x := s.getA r - BitVec.ofNat 32 (p.2.bytes * regs.length)
     ∃ t, exec (p.1 (.pre r)) s = .next t ∧
        CompletesAs { s with a := s.a.set s.sr r x, mem := { s.mem with ram := t.mem.ram } } (s.after 2) t ∧
        SameBytesBut s t x (p.2.bytes * regs.length) ∧
        (Memory.wf s.mem → t.bytesAt x (p.2.bytes * regs.length) = regs.flatMap fun n =>
          toBytes (if n = 8 + r.zeroExtend 4 then s.getR n - BitVec.ofNat 32 p.2.bytes else s.getR n) p.2.bytes))) ∧
  (∀ (s : State) (list : BitVec 16) (ea : Ea) (r : BitVec 3), Ready s → s.movemEa = none →
    ∀ p ∈ ([(.movemWEaList list, .w), (.movemLEaList list, .l)] : List ((Ea → Instr) × Size)),
    let regs := registersOf fun i => list.getLsbD i
    let loaded (x : Long) : State := regs.zipIdx.foldl
      (fun u q => u.setR q.1 (p.2.sext (s.valueAt (x + BitVec.ofNat 32 (p.2.bytes * q.2)) p.2.bytes))) s
    (ea.wf .control 1 = true →
      ∃ x, Evaluates s ea 0 2 (.mem x) s.a ∧ Leaves (p.1 ea) s (2 + Ea.words 1 ea) (loaded x)) ∧
    Leaves (p.1 (.post r)) s 2
      ((loaded (s.getA r)).setA r (s.getA r + BitVec.ofNat 32 (p.2.bytes * regs.length))))

/-- MOVEP transfers the bytes of a register, most significant first, from or to every second address upwards; the bytes
between keep their values (40_data_movement R556). -/
def Obligations.MovepUsesEverySecondByte : Prop :=
  ∀ (s : State) (dx ay : BitVec 3) (d : BitVec 16), Ready s →
    let x := s.getA ay + d.signExtend 32
    let v := s.getD dx
    Leaves (.movepWD16AyDx dx ay d) s 2
      { s with d := s.d.set dx (v.extractLsb' 16 16 ++ s.byteAt x ++ s.byteAt (x + 2)) } ∧
    Leaves (.movepLD16AyDx dx ay d) s 2
      { s with d := s.d.set dx (s.byteAt x ++ s.byteAt (x + 2) ++ s.byteAt (x + 4) ++ s.byteAt (x + 6)) } ∧
    (∀ p ∈ ([(.movepWDxD16Ay dx ay d, 2), (.movepLDxD16Ay dx ay d, 4)] : List (Instr × Nat)),
      ∃ t, exec p.1 s = .next t ∧
        CompletesAs { s with mem := { s.mem with ram := t.mem.ram } } (s.after 2) t ∧
        (∀ b, (∀ k < p.2, b ≠ x + BitVec.ofNat 32 (2 * k)) → t.byteAt b = s.byteAt b) ∧
        (Memory.wf s.mem → ∀ k < p.2,
          t.byteAt (x + BitVec.ofNat 32 (2 * k)) = v.extractLsb' (8 * (p.2 - 1 - k)) 8))

/-- MOVEQ sign-extends its data and sets N and Z from it; EXG exchanges two registers and sets no flag; SWAP exchanges
the halves of a register; EXT and EXTB sign-extend; no memory changes (40_data_movement R553, R561,
41_integer_arithmetic R643, R644, 44_shift_rotate R842).
LEA puts the address in An; MOVEA, ADDA and SUBA put in An the sign-extended operand, or An plus or minus it, An
being read before the source's addressing mode updates it; ADDQ and SUBQ change all of An. No flag and no memory
changes (40_data_movement R552, R557, 41_integer_arithmetic R611, R613, R621, R623; that An is read first is log 22). -/
def Obligations.RegisterAndAddressMoves : Prop :=
  (∀ (s : State) (x y : BitVec 3) (b : BitVec 8), Ready s →
    let v := s.getD x
    Leaves (.moveq x b) s 1 { s with d := s.d.set x (b.signExtend 32), sr := logicSr s.sr .l (b.signExtend 32) } ∧
    Leaves (.swap x) s 1
      { s with d := s.d.set x (v.rotateLeft 16), sr := logicSr s.sr .l (v.rotateLeft 16) } ∧
    Leaves (.extW x) s 1
      (s.put s.a (logicSr s.sr .w ((v.extractLsb' 0 8).signExtend 32)) .w (.d x) ((v.extractLsb' 0 8).signExtend 32)) ∧
    Leaves (.extL x) s 1 { s with
      d := s.d.set x ((v.extractLsb' 0 16).signExtend 32)
      sr := logicSr s.sr .l ((v.extractLsb' 0 16).signExtend 32) } ∧
    Leaves (.extbL x) s 1 { s with
      d := s.d.set x ((v.extractLsb' 0 8).signExtend 32)
      sr := logicSr s.sr .l ((v.extractLsb' 0 8).signExtend 32) } ∧
    Leaves (.exgDxDy x y) s 1 { s with d := (s.d.set x (s.getD y)).set y (s.getD x) } ∧
    Leaves (.exgAxAy x y) s 1 { s with a := (s.a.set s.sr x (s.getA y)).set s.sr y (s.getA x) } ∧
    Leaves (.exgDxAy x y) s 1 { s with d := s.d.set x (s.getA y), a := s.a.set s.sr y (s.getD x) }) ∧
  (∀ (s : State) (an : BitVec 3) (ea : Ea) (q : BitVec 3), Ready s →
    (ea.wf .control 1 = true → ∃ x, Evaluates s ea 0 1 (.mem x) s.a ∧
      Leaves (.lea an ea) s (1 + Ea.words 1 ea) { s with a := s.a.set s.sr an x }) ∧
    (∀ p ∈ ([(.moveaW an ea, .w, fun _ v => v), (.moveaL an ea, .l, fun _ v => v),
        (.addaW an ea, .w, fun x v => x + v), (.addaL an ea, .l, fun x v => x + v),
        (.subaW an ea, .w, fun x v => x - v), (.subaL an ea, .l, fun x v => x - v)] :
        List (Instr × Size × (Long → Long → Long))),
      LeavesFrom p.1 s p.2.1 ea 1 fun v a => { s with a := a.set s.sr an (p.2.2 (s.getA an) (p.2.1.sext v)) }) ∧
    (∀ i ∈ ([.addqB q (.an an), .addqW q (.an an), .addqL q (.an an)] : List Instr),
      Leaves i s 1 { s with a := s.a.set s.sr an (s.getA an + quickAt q) }) ∧
    (∀ i ∈ ([.subqB q (.an an), .subqW q (.an an), .subqL q (.an an)] : List Instr),
      Leaves i s 1 { s with a := s.a.set s.sr an (s.getA an - quickAt q) }))

/-- PEA pushes the address it evaluates; LINK pushes An (with A7 the decremented value), puts the stack pointer in An and
adds the displacement to the stack pointer; UNLK loads the stack pointer from An and An from the stack, and leaves a
free value in A7 when An is A7 (40_data_movement R558 to R560). -/
def Obligations.StackFrameInstructions : Prop :=
  ∀ (s : State) (an : BitVec 3) (ea : Ea) (d : BitVec 16) (e : BitVec 32), Ready s →
    let sp := s.getA 7 - 4
    (ea.wf .control 1 = true → ∃ x, Evaluates s ea 0 1 (.mem x) s.a ∧
      StoresAndReaches (.pea ea) s { s with a := s.a.set s.sr 7 sp } (s.after (1 + Ea.words 1 ea)) sp 4 x) ∧
    (∀ p ∈ ([(.linkW an d, d.signExtend 32, 2), (.linkL an e, e, 3)] : List (Instr × Long × Nat)),
      StoresAndReaches p.1 s
        { s with a := (s.a.set s.sr an sp).set s.sr 7 (sp + p.2.1) }
        (s.after p.2.2) sp 4 (if an = 7 then sp else s.getA an)) ∧
    (an ≠ 7 → Leaves (.unlk an) s 1
      { s with a := (s.a.set s.sr 7 (s.getA an + 4)).set s.sr an (s.valueAt (s.getA an) 4) }) ∧
    (∃ v, Leaves (.unlk 7) s 1 { s with a := s.a.set s.sr 7 v })

/-- MOVE16 copies the sixteen bytes of the source's aligned line to the destination's and increments the registers of
(An)+ by 16, no other byte changing; with both registers the same its final value is 16 or 32 more
(40_data_movement R565, R566). -/
def Obligations.Move16CopiesALine : Prop :=
  ∀ (s : State) (x y : BitVec 3) (m : Long), Ready s →
    let line (b : Long) : Long := b &&& 0xFFFFFFF0
    let copies (i : Instr) (n : Nat) (src dst : Long) (a : AddrRegs) : Prop :=
      ∃ t, exec i s = .next t ∧
        CompletesAs { s with a := a, mem := { s.mem with ram := t.mem.ram } } (s.after n) t ∧
        SameBytesBut s t (line dst) 16 ∧ (Memory.wf s.mem → t.bytesAt (line dst) 16 = s.bytesAt (line src) 16)
    let inc (r : BitVec 3) (k : Long) : AddrRegs := s.a.set s.sr r (s.getA r + k)
    (x ≠ y → copies (.move16AxPlusAyPlus x y) 2 (s.getA x) (s.getA y) ((inc x 16).set s.sr y (s.getA y + 16))) ∧
    (copies (.move16AxPlusAyPlus x x) 2 (s.getA x) (s.getA x) (inc x 16) ∨
      copies (.move16AxPlusAyPlus x x) 2 (s.getA x) (s.getA x) (inc x 32)) ∧
    copies (.move16AnPlusXxxL x m) 3 (s.getA x) m (inc x 16) ∧
    copies (.move16XxxLAnPlus x m) 3 m (s.getA x) (inc x 16) ∧
    copies (.move16AnXxxL x m) 3 (s.getA x) m s.a ∧
    copies (.move16XxxLAn x m) 3 m (s.getA x) s.a

/-! ### Integer arithmetic -/

/-- ADD, ADDI and ADDQ: the sum modulo the size; X = C = the carry out, V = signed overflow, N and Z from the result;
the rest as it was (41_integer_arithmetic R602, R610, R612, R613). -/
def Obligations.AddInstructionsAdd : Prop :=
  ∀ (s : State) (dn : BitVec 3) (ea : Ea) (b : BitVec 8) (w : BitVec 16) (l : BitVec 32) (q : BitVec 3), Ready s →
    (∀ p ∈ ([(.addBEaDn dn ea, .b), (.addWEaDn dn ea, .w), (.addLEaDn dn ea, .l)] : List (Instr × Size)),
      PutsInDn p.1 s p.2 ea dn (fun v d => sumAt p.2 v d false) (fun v d => sumSr s.sr p.2 v d false false)) ∧
    (∀ p ∈ ([(.addBDnEa dn ea, .b, 1, s.getD dn), (.addWDnEa dn ea, .w, 1, s.getD dn), (.addLDnEa dn ea, .l, 1, s.getD dn),
        (.addiB b ea, .b, 2, b.zeroExtend 32), (.addiW w ea, .w, 2, w.zeroExtend 32), (.addiL l ea, .l, 3, l)] :
        List (Instr × Size × Nat × Long)),
      PutsBack p.1 s p.2.1 ea p.2.2.1 (fun v => sumAt p.2.1 p.2.2.2 v false)
        (fun v => sumSr s.sr p.2.1 p.2.2.2 v false false)) ∧
    ((∀ r, ea ≠ .an r) →
      ∀ p ∈ ([(.addqB q ea, .b), (.addqW q ea, .w), (.addqL q ea, .l)] : List (Instr × Size)),
      PutsBack p.1 s p.2 ea 1 (fun v => sumAt p.2 (quickAt q) v false)
        (fun v => sumSr s.sr p.2 (quickAt q) v false false))

/-- SUB, SUBI, SUBQ and NEG: destination (for NEG zero) minus source modulo the size; X = C = the borrow, V = signed
overflow, N and Z from the result; the rest as it was (41_integer_arithmetic R602, R620, R622, R623, R641). -/
def Obligations.SubtractInstructionsSubtract : Prop :=
  ∀ (s : State) (dn : BitVec 3) (ea : Ea) (b : BitVec 8) (w : BitVec 16) (l : BitVec 32) (q : BitVec 3), Ready s →
    (∀ p ∈ ([(.subBEaDn dn ea, .b), (.subWEaDn dn ea, .w), (.subLEaDn dn ea, .l)] : List (Instr × Size)),
      PutsInDn p.1 s p.2 ea dn (fun v d => diffAt p.2 v d false) (fun v d => diffSr s.sr p.2 v d false false)) ∧
    (∀ p ∈ ([(.subBDnEa dn ea, .b, 1, s.getD dn), (.subWDnEa dn ea, .w, 1, s.getD dn), (.subLDnEa dn ea, .l, 1, s.getD dn),
        (.subiB b ea, .b, 2, b.zeroExtend 32), (.subiW w ea, .w, 2, w.zeroExtend 32), (.subiL l ea, .l, 3, l)] :
        List (Instr × Size × Nat × Long)),
      PutsBack p.1 s p.2.1 ea p.2.2.1 (fun v => diffAt p.2.1 p.2.2.2 v false)
        (fun v => diffSr s.sr p.2.1 p.2.2.2 v false false)) ∧
    ((∀ r, ea ≠ .an r) →
      ∀ p ∈ ([(.subqB q ea, .b), (.subqW q ea, .w), (.subqL q ea, .l)] : List (Instr × Size)),
      PutsBack p.1 s p.2 ea 1 (fun v => diffAt p.2 (quickAt q) v false)
        (fun v => diffSr s.sr p.2 (quickAt q) v false false)) ∧
    (∀ p ∈ ([(.negB ea, .b), (.negW ea, .w), (.negL ea, .l)] : List (Instr × Size)),
      PutsBack p.1 s p.2 ea 1 (fun v => diffAt p.2 v 0 false) (fun v => diffSr s.sr p.2 v 0 false false))

/-- ADDX, SUBX and NEGX use X as carry or borrow in and only ever clear Z; the memory forms of ADDX and SUBX decrement
and read the source first, then the destination (41_integer_arithmetic R614, R624, R642, 30_encoding R466). -/
def Obligations.ExtendedArithmeticUsesX : Prop :=
  ∀ (s : State) (rx ry : BitVec 3) (ea : Ea), Ready s →
    let x := srX s.sr
    (∀ p ∈ ([(.addxB rx false ry, .b), (.addxW rx false ry, .w), (.addxL rx false ry, .l)] : List (Instr × Size)),
      Leaves p.1 s 1 (s.put s.a (sumSr s.sr p.2 (s.getD ry) (s.getD rx) x true) p.2 (.d rx)
        (sumAt p.2 (s.getD ry) (s.getD rx) x))) ∧
    (∀ p ∈ ([(.subxB rx false ry, .b), (.subxW rx false ry, .w), (.subxL rx false ry, .l)] : List (Instr × Size)),
      Leaves p.1 s 1 (s.put s.a (diffSr s.sr p.2 (s.getD ry) (s.getD rx) x true) p.2 (.d rx)
        (diffAt p.2 (s.getD ry) (s.getD rx) x))) ∧
    (∀ p ∈ ([(.addxB rx true ry, .b, true), (.addxW rx true ry, .w, true), (.addxL rx true ry, .l, true),
        (.subxB rx true ry, .b, false), (.subxW rx true ry, .w, false), (.subxL rx true ry, .l, false)] :
        List (Instr × Size × Bool)),
      let z := p.2.1
      let y := s.getA ry - stepOf z.bytes ry
      let a := s.a.set s.sr ry y
      let w := a.get s.sr rx - stepOf z.bytes rx
      let src := s.valueAt y z.bytes
      let dst := s.valueAt w z.bytes
      StoresAndReaches p.1 s
        { s with a := a.set s.sr rx w, sr := if p.2.2 then sumSr s.sr z src dst x true else diffSr s.sr z src dst x true }
        (s.after 1) w z.bytes (if p.2.2 then sumAt z src dst x else diffAt z src dst x)) ∧
    (∀ p ∈ ([(.negxB ea, .b), (.negxW ea, .w), (.negxL ea, .l)] : List (Instr × Size)),
      PutsBack p.1 s p.2 ea 1 (fun v => diffAt p.2 v 0 x) (fun v => diffSr s.sr p.2 v 0 x true))

/-- CMP, CMPI, CMPA, CMPM and TST set the flags of destination minus source (TST: of the operand), keep X, and change no
register but those the addressing modes update, and no memory (41_integer_arithmetic R630 to R633,
47_program_control R936; that CMPA reads An first is log 22). -/
def Obligations.CompareInstructionsSetFlagsOnly : Prop :=
  ∀ (s : State) (dn ax ay : BitVec 3) (ea : Ea) (b : BitVec 8) (w : BitVec 16) (l : BitVec 32), Ready s →
    (∀ p ∈ ([(.cmpBEaDn dn ea, .b), (.cmpWEaDn dn ea, .w), (.cmpLEaDn dn ea, .l)] : List (Instr × Size)),
      LeavesFrom p.1 s p.2 ea 1 fun v a => { s with a := a, sr := compareSr s.sr p.2 v (s.getD dn) }) ∧
    (∀ p ∈ ([(.cmpiB b ea, .b, 2, b.zeroExtend 32), (.cmpiW w ea, .w, 2, w.zeroExtend 32), (.cmpiL l ea, .l, 3, l)] :
        List (Instr × Size × Nat × Long)),
      LeavesFrom p.1 s p.2.1 ea p.2.2.1 fun v a => { s with a := a, sr := compareSr s.sr p.2.1 p.2.2.2 v }) ∧
    (∀ p ∈ ([(.cmpaW dn ea, .w), (.cmpaL dn ea, .l)] : List (Instr × Size)),
      LeavesFrom p.1 s p.2 ea 1 fun v a => { s with a := a, sr := compareSr s.sr .l (p.2.sext v) (s.getA dn) }) ∧
    (∀ p ∈ ([(.tstB ea, .b), (.tstW ea, .w), (.tstL ea, .l)] : List (Instr × Size)),
      LeavesFrom p.1 s p.2 ea 1 fun v a => { s with a := a, sr := logicSr s.sr p.2 v }) ∧
    (∀ p ∈ ([(.cmpmB ax ay, .b), (.cmpmW ax ay, .w), (.cmpmL ax ay, .l)] : List (Instr × Size)),
      let a := s.a.set s.sr ay (s.getA ay + stepOf p.2.bytes ay)
      let x := a.get s.sr ax
      Leaves p.1 s 1 { s with
        a := a.set s.sr ax (x + stepOf p.2.bytes ax)
        sr := compareSr s.sr p.2 (s.valueAt (s.getA ay) p.2.bytes) (s.valueAt x p.2.bytes) })

/-- CMP2 compares a register with the two bounds at the address: Z if it equals one, C if it is out of bounds, N and V
free, X kept; CHK2 does the same and, with C set, takes vector 6 with the next instruction's address in a format $2
frame (41_integer_arithmetic R634, 48_system_control R992).
CHK compares Dn, signed, with 0 and the operand: out of bounds it takes vector 6 with the next instruction's address
in a format $2 frame and N telling which bound, else only flags may change, X excepted (48_system_control R991). That a
traced check that traps leaves its trace pending is the model's choice between 90_conflicts C43 and 48_system_control R997
with 60_exceptions R1125 d (log 17). -/
def Obligations.BoundsChecks : Prop :=
  (∀ (s : State) (rn : BitVec 4) (ea : Ea), Ready s → ea.wf .control 1 = true →
    ∀ p ∈ ([(.cmp2B rn ea, .chk2B rn ea, .b), (.cmp2W rn ea, .chk2W rn ea, .w), (.cmp2L rn ea, .chk2L rn ea, .l)] :
      List (Instr × Instr × Size)),
    let z := p.2.2
    ∃ x n v, Evaluates s ea 0 2 (.mem x) s.a ∧
      (let ext (u : Long) : Long := if rn.getLsbD 3 then z.sext u else z.trunc u
       let lb := ext (s.valueAt x z.bytes)
       let ub := ext (s.valueAt (x + BitVec.ofNat 32 z.bytes) z.bytes)
       let r := if rn.getLsbD 3 then s.getR rn else z.trunc (s.getR rn)
       let c := if lb.toNat ≤ ub.toNat then decide (r.toNat < lb.toNat ∨ ub.toNat < r.toNat)
         else decide (ub.toNat < r.toNat ∧ r.toNat < lb.toNat)
       let u := { s with sr := withCcr s.sr (srX s.sr) n (decide (r = lb ∨ r = ub)) v c }
       Leaves p.1 s (2 + Ea.words 1 ea) u ∧
       (c = false → Leaves p.2.1 s (2 + Ea.words 1 ea) u) ∧
       (c = true → ∃ t, exec p.2.1 s = .next t ∧ TakesTraced s.pc u 6 2 (s.after (2 + Ea.words 1 ea)) (toBytes s.pc 4) t))) ∧
  (∀ (s : State) (dn : BitVec 3) (ea : Ea), Ready s →
    ∀ p ∈ ([(.chkW dn ea, .w), (.chkL dn ea, .l)] : List (Instr × Size)),
    ∃ l v a n z o c, Reads s p.2 ea 1 l v a ∧
      (let d := signedAt p.2 (s.getD dn)
       let u (n : Bool) : State := { s with a := a, sr := withCcr s.sr (srX s.sr) n z o c }
       (0 ≤ d ∧ d ≤ signedAt p.2 v → Leaves p.1 s (eaLength 1 p.2 ea) (u n)) ∧
       (d < 0 → ∃ t, exec p.1 s = .next t ∧ TakesTraced s.pc (u true) 6 2 (s.after (eaLength 1 p.2 ea)) (toBytes s.pc 4) t) ∧
       (0 ≤ d ∧ signedAt p.2 v < d →
         ∃ t, exec p.1 s = .next t ∧ TakesTraced s.pc (u false) 6 2 (s.after (eaLength 1 p.2 ea)) (toBytes s.pc 4) t)))

/-- CLR, Scc and MOVE from CCR write their operand, CLR setting the flags, and so does MOVE from SR in supervisor state
(41_integer_arithmetic R640, 47_program_control R929, 48_system_control R968, R970). They do not read it: where every read of the
operand at (An) ends in a bus error, and no write does, a read faults, and they complete all the same. -/
def Obligations.WriteOnlyInstructions : Prop :=
  (∀ (s : State) (ea : Ea) (cc : BitVec 4), Ready s →
    (∀ p ∈ ([(.clrB ea, .b), (.clrW ea, .w), (.clrL ea, .l)] : List (Instr × Size)),
      Stores p.1 s p.2 ea 1 0 (logicSr s.sr p.2 0)) ∧
    Stores (.scc cc ea) s .b ea 1 (if s.cond cc then 0xFF else 0) s.sr ∧
    Stores (.moveFromCcr ea) s .w ea 1 ((s.sr &&& 0x1F).zeroExtend 32) s.sr ∧
    (s.super = true → Stores (.moveFromSr ea) s .w ea 1 (s.sr.zeroExtend 32) s.sr)) ∧
  (∀ (s : State) (an : BitVec 3) (cc : BitVec 4), Ready s →
    let x := s.getA an
    let u := { s with mem := { s.mem with busErrors := [⟨x.toNat, x.toNat + 3, true, false⟩] } }
    (∀ z : Size, ∃ f w, readEa u z (.ind an) 1 u.pc = .fail f w) ∧
    (∀ p ∈ ([(.clrB (.ind an), .b), (.clrW (.ind an), .w), (.clrL (.ind an), .l)] : List (Instr × Size)),
      StoresAndReaches p.1 u { u with sr := logicSr s.sr p.2 0 } (s.after 1) x p.2.bytes 0) ∧
    StoresAndReaches (.scc cc (.ind an)) u u (s.after 1) x 1 (if s.cond cc then 0xFF else 0) ∧
    StoresAndReaches (.moveFromCcr (.ind an)) u u (s.after 1) x 2 ((s.sr &&& 0x1F).zeroExtend 32) ∧
    (s.super = true → StoresAndReaches (.moveFromSr (.ind an)) u u (s.after 1) x 2 (s.sr.zeroExtend 32)))

/-- MULU and MULS: the exact product of the operands, unsigned or signed. The word forms and the 64-bit forms keep all
of it, with V = 0; the 32-bit long forms keep its low half and set V if it does not fit. N and Z from the product, C
cleared, X kept; with one register for both halves that register is free (41_integer_arithmetic R650 to R652). -/
def Obligations.MultiplyInstructionsMultiply : Prop :=
  ∀ (s : State) (dn dh dl : BitVec 3) (ea : Ea), Ready s →
    (∀ p ∈ ([(.muluW dn ea, fun v => (unsignedAt .w v : Int)), (.mulsW dn ea, signedAt .w)] :
        List (Instr × (Long → Int))),
      LeavesFrom p.1 s .w ea 1 fun v a =>
        let r := BitVec.ofInt 32 (p.2 v * p.2 (s.getD dn))
        { s with a := a, d := s.d.set dn r, sr := logicSr s.sr .l r }) ∧
    (∀ p ∈ ([(.muluLEaDl dl ea, fun v => (unsignedAt .l v : Int), fun i => decide (i < 2 ^ 32)),
        (.mulsLEaDl dl ea, signedAt .l, inSigned .l)] : List (Instr × (Long → Int) × (Int → Bool))),
      LeavesFrom p.1 s .l ea 2 fun v a =>
        let i := p.2.1 v * p.2.1 (s.getD dl)
        let r := BitVec.ofInt 32 i
        { s with a := a, d := s.d.set dl r
                 sr := withCcr s.sr (srX s.sr) (negAt .l r) (zeroAt .l r) (!p.2.2 i) false }) ∧
    (∀ p ∈ ([(.muluLEaDhDl dh dl ea, fun v => (unsignedAt .l v : Int)), (.mulsLEaDhDl dh dl ea, signedAt .l)] :
        List (Instr × (Long → Int))),
      ∃ free, LeavesFrom p.1 s .l ea 2 fun v a =>
        let i := p.2 v * p.2 (s.getD dl)
        let r := BitVec.ofInt 64 i
        { s with a := a
                 d := if dh = dl then s.d.set dl free
                      else (s.d.set dh (r.extractLsb' 32 32)).set dl (r.extractLsb' 0 32)
                 sr := withCcr s.sr (srX s.sr) r.msb (decide (r = 0)) false false })

/-- DIVU and DIVS: the quotient truncated toward zero and the remainder with the dividend's sign, where the quotient
fits; otherwise V is set, C cleared, N and Z free, and no register changes. The divisor is not zero
(41_integer_arithmetic R655 to R658).
A zero divisor: vector 5 with the next instruction's address in a format $2 frame, C cleared, N, Z and V free, no data
register changed (41_integer_arithmetic R660, 60_exceptions R1115). That a traced divide leaves its trace pending then is the
model's choice between 90_conflicts C43 and 48_system_control R997 with 60_exceptions R1125 d (log 17). -/
def Obligations.DivideInstructionsDivide : Prop :=
  (∀ (s : State) (dn dr dq : BitVec 3) (ea : Ea), Ready s →
    (∀ p ∈ ([(.divuW dn ea, fun z v => (unsignedAt z v : Int), fun i => decide (i < 2 ^ 16)),
        (.divsW dn ea, signedAt, inSigned .w)] : List (Instr × (Size → Long → Int) × (Int → Bool))),
      ∃ n z, ∀ l v a, Reads s .w ea 1 l v a → p.2.1 .w v ≠ 0 →
        let i := p.2.1 .l (s.getD dn)
        let q := i.tdiv (p.2.1 .w v)
        let r := i.tmod (p.2.1 .w v)
        Leaves p.1 s (eaLength 1 .w ea)
          (if p.2.2 q then
            { s with a := a, d := s.d.set dn (BitVec.ofInt 16 r ++ BitVec.ofInt 16 q)
                     sr := logicSr s.sr .w (BitVec.ofInt 32 q) }
          else { s with a := a, sr := withCcr s.sr (srX s.sr) n z true false })) ∧
    (∀ p ∈ ([(.divuLEaDq dq ea, false, 0), (.divsLEaDq dq ea, true, 0), (.divulLEaDrDq dr dq ea, false, 1),
        (.divslLEaDrDq dr dq ea, true, 1), (.divuLEaDrDq dr dq ea, false, 2), (.divsLEaDrDq dr dq ea, true, 2)] :
        List (Instr × Bool × Nat)),
      ∃ n z free, ∀ l v a, Reads s .l ea 2 l v a → unsignedAt .l v ≠ 0 →
        let int (v : Long) : Int := if p.2.1 then signedAt .l v else unsignedAt .l v
        let quad : BitVec 64 := s.getD dr ++ s.getD dq
        let i : Int := if p.2.2 = 2 then (if p.2.1 then quad.toInt else quad.toNat) else int (s.getD dq)
        let q := i.tdiv (int v)
        let r := i.tmod (int v)
        let fits := if p.2.1 then inSigned .l q else decide (q < 2 ^ 32)
        Leaves p.1 s (eaLength 2 .l ea)
          (if fits then
            { s with
              a := a
              d := if p.2.2 = 0 then s.d.set dq (BitVec.ofInt 32 q)
                else if p.2.2 = 2 ∧ dr = dq then s.d.set dq free
                else (s.d.set dr (BitVec.ofInt 32 r)).set dq (BitVec.ofInt 32 q)
              sr := logicSr s.sr .l (BitVec.ofInt 32 q) }
          else { s with a := a, sr := withCcr s.sr (srX s.sr) n z true false }))) ∧
  (∀ (s : State) (dn dr dq : BitVec 3) (ea : Ea), Ready s →
    ∀ p ∈ ([(.divuW dn ea, .w, 1), (.divsW dn ea, .w, 1), (.divuLEaDq dq ea, .l, 2), (.divsLEaDq dq ea, .l, 2),
        (.divulLEaDrDq dr dq ea, .l, 2), (.divslLEaDrDq dr dq ea, .l, 2), (.divuLEaDrDq dr dq ea, .l, 2),
        (.divsLEaDrDq dr dq ea, .l, 2)] : List (Instr × Size × Nat)),
    ∀ l a, Reads s p.2.1 ea p.2.2 l 0 a →
      ∃ t n z v, exec p.1 s = .next t ∧
        TakesTraced s.pc { s with a := a, sr := withCcr s.sr (srX s.sr) n z v false } 5 2 (s.after (eaLength p.2.2 p.2.1 ea))
          (toBytes s.pc 4) t)

/-! ### Logic, shifts, bits, decimal -/

/-- AND, OR, EOR and NOT with their immediate forms: the bitwise result at the size, N and Z from it, V and C cleared, X
kept (43_logical R801 to R809). -/
def Obligations.LogicalInstructions : Prop :=
  ∀ (s : State) (dn : BitVec 3) (ea : Ea) (b : BitVec 8) (w : BitVec 16) (l : BitVec 32), Ready s →
    let op (k : Nat) (x y : Long) : Long := match k with | 0 => x &&& y | 1 => x ||| y | 2 => x ^^^ y | _ => ~~~y
    (∀ p ∈ ([(.andBEaDn dn ea, .b, 0), (.andWEaDn dn ea, .w, 0), (.andLEaDn dn ea, .l, 0),
        (.orBEaDn dn ea, .b, 1), (.orWEaDn dn ea, .w, 1), (.orLEaDn dn ea, .l, 1)] : List (Instr × Size × Nat)),
      PutsInDn p.1 s p.2.1 ea dn (fun v d => p.2.1.trunc (op p.2.2 v d))
        (fun v d => logicSr s.sr p.2.1 (op p.2.2 v d))) ∧
    (∀ p ∈ ([(.andBDnEa dn ea, .b, 1, s.getD dn, 0), (.andWDnEa dn ea, .w, 1, s.getD dn, 0),
        (.andLDnEa dn ea, .l, 1, s.getD dn, 0), (.orBDnEa dn ea, .b, 1, s.getD dn, 1),
        (.orWDnEa dn ea, .w, 1, s.getD dn, 1), (.orLDnEa dn ea, .l, 1, s.getD dn, 1),
        (.eorB dn ea, .b, 1, s.getD dn, 2), (.eorW dn ea, .w, 1, s.getD dn, 2), (.eorL dn ea, .l, 1, s.getD dn, 2),
        (.andiB b ea, .b, 2, b.zeroExtend 32, 0), (.andiW w ea, .w, 2, w.zeroExtend 32, 0), (.andiL l ea, .l, 3, l, 0),
        (.oriB b ea, .b, 2, b.zeroExtend 32, 1), (.oriW w ea, .w, 2, w.zeroExtend 32, 1), (.oriL l ea, .l, 3, l, 1),
        (.eoriB b ea, .b, 2, b.zeroExtend 32, 2), (.eoriW w ea, .w, 2, w.zeroExtend 32, 2), (.eoriL l ea, .l, 3, l, 2),
        (.notB ea, .b, 1, 0, 3), (.notW ea, .w, 1, 0, 3), (.notL ea, .l, 1, 0, 3)] :
        List (Instr × Size × Nat × Long × Nat)),
      PutsBack p.1 s p.2.1 ea p.2.2.1 (fun v => p.2.1.trunc (op p.2.2.2.2 p.2.2.2.1 v))
        (fun v => logicSr s.sr p.2.1 (op p.2.2.2.2 p.2.2.2.1 v)))

/-- Every shift and rotate by r + 1 places is the one by r places followed by one more place: the result, X, the bit
shifted out last in C, and for ASL a V that is set once the sign has changed; by 0 places only the flags change
(44_shift_rotate R832 to R840). -/
def Obligations.ShiftsAreRepeatedSingleShifts : Prop :=
  ∀ (n : Nat), n ∈ [8, 16, 32] → ∀ (d r : Nat) (x : Bool), d < 2 ^ n →
    let half := 2 ^ (n - 1)
    let top (v : Nat) : Bool := v.testBit (n - 1)
    let low (v : Nat) : Bool := v.testBit 0
    let left (v : Nat) (b : Bool) : Nat := 2 * v % 2 ^ n + b.toNat
    let right (v : Nat) (b : Bool) : Nat := v / 2 + b.toNat * half
    (∀ f ∈ ([aslOp, asrOp, lslOp, lsrOp, rolOp, rorOp] : List (Nat → Nat → Nat → Bool → Shifted)),
      (f n d 0 x).r = d ∧ (f n d 0 x).x = none ∧ (f n d 0 x).c = false ∧ (f n d 0 x).v = false) ∧
    (∀ f ∈ ([roxlOp, roxrOp] : List (Nat → Nat → Nat → Bool → Shifted)),
      (f n d 0 x).r = d ∧ (f n d 0 x).x.getD x = x ∧ (f n d 0 x).c = x ∧ (f n d 0 x).v = false) ∧
    (let p := aslOp n d r x; let q := aslOp n d (r + 1) x
      q.r = left p.r false ∧ q.x = some (top p.r) ∧ q.c = top p.r ∧ q.v = (p.v || top (left p.r false) != top p.r)) ∧
    (let p := asrOp n d r x; let q := asrOp n d (r + 1) x
      q.r = right p.r (top p.r) ∧ q.x = some (low p.r) ∧ q.c = low p.r ∧ q.v = false) ∧
    (let p := lslOp n d r x; let q := lslOp n d (r + 1) x
      q.r = left p.r false ∧ q.x = some (top p.r) ∧ q.c = top p.r ∧ q.v = false) ∧
    (let p := lsrOp n d r x; let q := lsrOp n d (r + 1) x
      q.r = right p.r false ∧ q.x = some (low p.r) ∧ q.c = low p.r ∧ q.v = false) ∧
    (let p := rolOp n d r x; let q := rolOp n d (r + 1) x
      q.r = left p.r (top p.r) ∧ q.x = none ∧ q.c = top p.r ∧ q.v = false) ∧
    (let p := rorOp n d r x; let q := rorOp n d (r + 1) x
      q.r = right p.r (low p.r) ∧ q.x = none ∧ q.c = low p.r ∧ q.v = false) ∧
    (let p := roxlOp n d r x; let q := roxlOp n d (r + 1) x
      q.r = left p.r (p.x.getD x) ∧ q.x = some (top p.r) ∧ q.c = top p.r ∧ q.v = false) ∧
    (let p := roxrOp n d r x; let q := roxrOp n d (r + 1) x
      q.r = right p.r (p.x.getD x) ∧ q.x = some (low p.r) ∧ q.c = low p.r ∧ q.v = false)

/-- The shifts and rotates of a data register take their count from the instruction, 1 to 8, or from Dx modulo 64, and
put the result in Dy and the flags in the CCR; those of memory shift one word by one place (44_shift_rotate R831, R832,
R841). -/
def Obligations.ShiftInstructionsShift : Prop :=
  ∀ (s : State) (cnt dy : BitVec 3) (ir : Bool) (ea : Ea), Ready s →
    let count := if ir then (s.getD cnt).toNat % 64 else if cnt = 0 then 8 else cnt.toNat
    let res (f : Nat → Nat → Nat → Bool → Shifted) (z : Size) (v : Long) (k : Nat) : Shifted :=
      f z.bits (unsignedAt z v) k (srX s.sr)
    let sr (z : Size) (t : Shifted) : Word :=
      withCcr s.sr (t.x.getD (srX s.sr)) (negAt z (BitVec.ofNat 32 t.r)) (zeroAt z (BitVec.ofNat 32 t.r)) t.v t.c
    (∀ p ∈ ([(.aslBDxDy cnt ir dy, .b, aslOp), (.aslWDxDy cnt ir dy, .w, aslOp), (.aslLDxDy cnt ir dy, .l, aslOp),
        (.asrBDxDy cnt ir dy, .b, asrOp), (.asrWDxDy cnt ir dy, .w, asrOp), (.asrLDxDy cnt ir dy, .l, asrOp),
        (.lslBDxDy cnt ir dy, .b, lslOp), (.lslWDxDy cnt ir dy, .w, lslOp), (.lslLDxDy cnt ir dy, .l, lslOp),
        (.lsrBDxDy cnt ir dy, .b, lsrOp), (.lsrWDxDy cnt ir dy, .w, lsrOp), (.lsrLDxDy cnt ir dy, .l, lsrOp),
        (.rolBDxDy cnt ir dy, .b, rolOp), (.rolWDxDy cnt ir dy, .w, rolOp), (.rolLDxDy cnt ir dy, .l, rolOp),
        (.rorBDxDy cnt ir dy, .b, rorOp), (.rorWDxDy cnt ir dy, .w, rorOp), (.rorLDxDy cnt ir dy, .l, rorOp),
        (.roxlBDxDy cnt ir dy, .b, roxlOp), (.roxlWDxDy cnt ir dy, .w, roxlOp), (.roxlLDxDy cnt ir dy, .l, roxlOp),
        (.roxrBDxDy cnt ir dy, .b, roxrOp), (.roxrWDxDy cnt ir dy, .w, roxrOp), (.roxrLDxDy cnt ir dy, .l, roxrOp)] :
        List (Instr × Size × (Nat → Nat → Nat → Bool → Shifted))),
      let t := res p.2.2 p.2.1 (s.getD dy) count
      Leaves p.1 s 1 (s.put s.a (sr p.2.1 t) p.2.1 (.d dy) (BitVec.ofNat 32 t.r))) ∧
    (∀ p ∈ ([(.aslEa ea, aslOp), (.asrEa ea, asrOp), (.lslEa ea, lslOp), (.lsrEa ea, lsrOp), (.rolEa ea, rolOp),
        (.rorEa ea, rorOp), (.roxlEa ea, roxlOp), (.roxrEa ea, roxrOp)] :
        List (Instr × (Nat → Nat → Nat → Bool → Shifted))),
      PutsBack p.1 s .w ea 1 (fun v => BitVec.ofNat 32 (res p.2 .w v 1).r) (fun v => sr .w (res p.2 .w v 1)))

/-- BTST, BCHG, BCLR and BSET: Z tells whether the bit was clear, the bit number is taken modulo 32 in a data register
and modulo 8 in a byte elsewhere, and only that bit changes, for BTST none (45_bit_and_bitfield R860 to R865). -/
def Obligations.BitInstructionsChangeOneBit : Prop :=
  ∀ (s : State) (dn : BitVec 3) (ea : Ea) (b : BitVec 8), Ready s →
    let z : Size := match ea with | .dn _ => .l | _ => .b
    let sr (n : Nat) (v : Long) : Word :=
      withCcr s.sr (srX s.sr) (srN s.sr) (!v.getLsbD (n % z.bits)) (srV s.sr) (srC s.sr)
    let bit (n : Nat) : Long := BitVec.ofNat 32 (2 ^ (n % z.bits))
    (∀ p ∈ ([(.btst b ea, 2, b.toNat), (.btstDn dn ea, 1, (s.getD dn).toNat)] : List (Instr × Nat × Nat)),
      LeavesFrom p.1 s z ea p.2.1 fun v a => { s with a := a, sr := sr p.2.2 v }) ∧
    (∀ p ∈ ([(.bchg b ea, 2, b.toNat, fun v m => v ^^^ m), (.bchgDn dn ea, 1, (s.getD dn).toNat, fun v m => v ^^^ m),
        (.bclr b ea, 2, b.toNat, fun v m => v &&& ~~~m), (.bclrDn dn ea, 1, (s.getD dn).toNat, fun v m => v &&& ~~~m),
        (.bset b ea, 2, b.toNat, fun v m => v ||| m), (.bsetDn dn ea, 1, (s.getD dn).toNat, fun v m => v ||| m)] :
        List (Instr × Nat × Nat × (Long → Long → Long))),
      PutsBack p.1 s z ea p.2.1 (fun v => p.2.2.2 v (bit p.2.2.1)) (fun v => sr p.2.2.1 v))

/-- The bit-field instructions on a data register: the field starts at bit 31 - offset and wraps round the register; N is
its first bit (for BFINS that of the value inserted), Z says that it is zero, V and C are cleared, X kept. BFEXTU and
BFEXTS put it in Dn, BFFFO the offset of its first one bit, BFCHG, BFCLR, BFSET and BFINS change the field and no other
bit (45_bit_and_bitfield R880 to R890). -/
def Obligations.BitFieldsOfADataRegister : Prop :=
  ∀ (s : State) (dn r : BitVec 3) (bf : BfSpec), Ready s →
    let off := (fieldOffset s bf).toNat % 32
    let w := fieldWidth s bf
    let v := s.getD r
    let f := v.rotateLeft off >>> (32 - w)
    let sr (g : Long) : Word := withCcr s.sr (srX s.sr) (g.getLsbD (w - 1)) (decide (g = 0)) false false
    let ins := s.getD dn &&& (BitVec.allOnes 32 >>> (32 - w))
    (1 ≤ w ∧ w ≤ 32 ∧ ∀ j < w, f.getLsbD (w - 1 - j) = v.getLsbD (31 - (off + j) % 32)) ∧
    Leaves (.bftst bf (.dn r)) s 2 { s with sr := sr f } ∧
    Leaves (.bfextu dn bf (.dn r)) s 2 { s with d := s.d.set dn f, sr := sr f } ∧
    (∃ g : Long, g.toInt = (f.toNat : Int).bmod (2 ^ w) ∧
      Leaves (.bfexts dn bf (.dn r)) s 2 { s with d := s.d.set dn g, sr := sr f }) ∧
    (∃ k : Nat, k ≤ w ∧ (∀ j < k, f.getLsbD (w - 1 - j) = false) ∧ (k < w → f.getLsbD (w - 1 - k) = true) ∧
      Leaves (.bfffo dn bf (.dn r)) s 2 { s with d := s.d.set dn (BitVec.ofNat 32 (off + k)), sr := sr f }) ∧
    (∀ p ∈ ([(.bfchg bf (.dn r), f ^^^ (BitVec.allOnes 32 >>> (32 - w)), f), (.bfclr bf (.dn r), 0, f),
        (.bfset bf (.dn r), BitVec.allOnes 32 >>> (32 - w), f), (.bfins dn bf (.dn r), ins, ins)] :
        List (Instr × Long × Long)),
      ∃ u : Long, (∀ j < w, u.getLsbD (31 - (off + j) % 32) = p.2.1.getLsbD (w - 1 - j)) ∧
        (∀ k < 32, (∀ j < w, k ≠ 31 - (off + j) % 32) → u.getLsbD k = v.getLsbD k) ∧
        Leaves p.1 s 2 { s with d := s.d.set r u, sr := sr p.2.2 })

/-- The bit-field instructions on memory: the field is bits offset to offset + width - 1 from the most significant bit of
the byte at the address, the offset signed; the instructions that change it change no other bit
(45_bit_and_bitfield R880 to R890). -/
def Obligations.BitFieldsOfMemory : Prop :=
  ∀ (s : State) (dn : BitVec 3) (bf : BfSpec) (ea : Ea), Ready s → ea.wf .control 1 = true → Memory.wf s.mem →
    let off := (fieldOffset s bf).toInt
    let w := fieldWidth s bf
    let sr (g : Long) : Word := withCcr s.sr (srX s.sr) (g.getLsbD (w - 1)) (decide (g = 0)) false false
    let ones : Long := BitVec.allOnes 32 >>> (32 - w)
    let n := 2 + Ea.words 1 ea
    ∃ (x f : Long), Evaluates s ea 0 2 (.mem x) s.a ∧ f.toNat < 2 ^ w ∧
      (∀ j < w, f.getLsbD (w - 1 - j) = s.fieldBit x (off + j)) ∧
      Leaves (.bftst bf ea) s n { s with sr := sr f } ∧
      Leaves (.bfextu dn bf ea) s n { s with d := s.d.set dn f, sr := sr f } ∧
      (∃ g : Long, g.toInt = (f.toNat : Int).bmod (2 ^ w) ∧
        Leaves (.bfexts dn bf ea) s n { s with d := s.d.set dn g, sr := sr f }) ∧
      (∃ k : Nat, k ≤ w ∧ (∀ j < k, f.getLsbD (w - 1 - j) = false) ∧ (k < w → f.getLsbD (w - 1 - k) = true) ∧
        Leaves (.bfffo dn bf ea) s n
          { s with d := s.d.set dn (fieldOffset s bf + BitVec.ofNat 32 k), sr := sr f }) ∧
      (∀ p ∈ ([(.bfchg bf ea, f ^^^ ones, f), (.bfclr bf ea, 0, f), (.bfset bf ea, ones, f),
          (.bfins dn bf ea, s.getD dn &&& ones, s.getD dn &&& ones)] : List (Instr × Long × Long)),
        ∃ t, exec p.1 s = .next t ∧
          CompletesAs { s with sr := sr p.2.2, mem := { s.mem with ram := t.mem.ram } } (s.after n) t ∧
          (∀ j < w, t.fieldBit x (off + j) = p.2.1.getLsbD (w - 1 - j)) ∧
          (∀ k : Int, off - off % 8 ≤ k → k < off - off % 8 + 40 → (k < off ∨ off + w ≤ k) →
            t.fieldBit x k = s.fieldBit x k) ∧
          SameBytesBut s t (x + BitVec.ofInt 32 (off / 8)) 5)

/-- ABCD, SBCD and NBCD on decimal operands: the decimal sum or difference with X, modulo 100; X = C = the decimal carry
or borrow, Z only ever cleared, N and V free. On operands that are not decimal the result and the carry are free, and that X
is that free carry also there is the model's choice (log 29). The memory forms decrement and read the source first (46_bcd R900 to R904).
PACK packs the low digits of the two bytes of a word, after adding the adjustment, into a byte (a free value where a
byte's low digit is above 9); UNPK unpacks the two digits of a byte into the bytes of a word and adds the adjustment. No
flag changes (46_bcd R905 to R907). -/
def Obligations.DecimalInstructions : Prop :=
  (∀ (s : State) (rx ry : BitVec 3) (ea : Ea), Ready s →
    let x : Int := (srX s.sr).toNat
    let sum (a b : Long) : Int := decOf b + decOf a + x
    let diff (a b : Long) : Int := decOf b - decOf a - x
    let ok (t : Int) (a b r : Long) (c : Bool) : Prop :=
      r.toNat < 256 ∧ (isBcd a = true → isBcd b = true →
        isBcd r = true ∧ (decOf r : Int) = t % 100 ∧ c = decide (t < 0 ∨ 99 < t))
    let sr (r : Long) (c n v : Bool) : Word := withCcr s.sr c n (zeroAt .b r && srZ s.sr) v c
    let byte (v : Long) : Long := v &&& 0xFF
    (∀ p ∈ ([(.abcd rx false ry, sum), (.sbcd rx false ry, diff)] : List (Instr × (Long → Long → Int))),
      ∃ r c n v, ok (p.2 (byte (s.getD ry)) (byte (s.getD rx))) (byte (s.getD ry)) (byte (s.getD rx)) r c ∧
        Leaves p.1 s 1 (s.put s.a (sr r c n v) .b (.d rx) r)) ∧
    (∀ p ∈ ([(.abcd rx true ry, sum), (.sbcd rx true ry, diff)] : List (Instr × (Long → Long → Int))),
      let y := s.getA ry - stepOf 1 ry
      let a := s.a.set s.sr ry y
      let w := a.get s.sr rx - stepOf 1 rx
      ∃ r c n v, ok (p.2 (s.valueAt y 1) (s.valueAt w 1)) (s.valueAt y 1) (s.valueAt w 1) r c ∧
        StoresAndReaches p.1 s { s with a := a.set s.sr rx w, sr := sr r c n v } (s.after 1) w 1 r) ∧
    (∃ (r : Long → Long) (c : Long → Bool) (n v : Bool), PutsBack (.nbcd ea) s .b ea 1 r (fun u => sr (r u) (c u) n v) ∧
      ∀ l u a, Reads s .b ea 1 l u a → ok (diff u 0) u 0 (r u) (c u))) ∧
  (∀ (s : State) (rx ry : BitVec 3) (adj : BitVec 16), Ready s →
    let packs (u r : Long) : Prop := u.toNat % 16 ≤ 9 → u.toNat / 256 % 16 ≤ 9 →
      r = ((((u.extractLsb' 0 16 + adj).extractLsb' 8 4) ++ ((u.extractLsb' 0 16 + adj).extractLsb' 0 4) : BitVec 8)).zeroExtend 32
    let unpacked (p : Long) : Long :=
      ((0#4 ++ p.extractLsb' 4 4 ++ 0#4 ++ p.extractLsb' 0 4 : BitVec 16) + adj).zeroExtend 32
    let step (n : Nat) (r : BitVec 3) : Long := if n = 1 ∧ r = 7 then 2 else BitVec.ofNat 32 n
    (∃ r, packs (s.getD ry) r ∧ Leaves (.pack rx false ry adj) s 2 (s.put s.a s.sr .b (.d rx) r)) ∧
    Leaves (.unpk rx false ry adj) s 2 (s.put s.a s.sr .w (.d rx) (unpacked (s.getD ry))) ∧
    (let y := s.getA ry - step 2 ry
     let a := s.a.set s.sr ry y
     let w := a.get s.sr rx - step 1 rx
     ∃ r, packs (s.valueAt y 2) r ∧
      StoresAndReaches (.pack rx true ry adj) s { s with a := a.set s.sr rx w } (s.after 2) w 1 r) ∧
    (let y := s.getA ry - step 1 ry
     let a := s.a.set s.sr ry y
     let w := a.get s.sr rx - step 2 rx
     StoresAndReaches (.unpk rx true ry adj) s { s with a := a.set s.sr rx w } (s.after 2) w 2
      (unpacked (s.valueAt y 1))))

/-! ### Program control -/

/-- The sixteen condition tests are the formulas of the table over N, Z, V and C, and mean what their names say of the
operands of a comparison: after the flags of destination minus
source at any size, HI, LS, CC, CS, NE, EQ are the unsigned comparisons, GE, LT, GT, LE the signed ones, PL and MI the
sign of the difference, T true and F false (47_program_control R921, 41_integer_arithmetic R602, R630). -/
def Obligations.ConditionsCompareTheOperands : Prop :=
  ∀ (s : State) (z : Size) (src dst : Long),
    (let n := srN s.sr
     let e := srZ s.sr
     let v := srV s.sr
     let c := srC s.sr
     s.cond 0 = true ∧ s.cond 1 = false ∧ s.cond 2 = (!c && !e) ∧ s.cond 3 = (c || e) ∧ s.cond 4 = !c ∧ s.cond 5 = c ∧
      s.cond 6 = !e ∧ s.cond 7 = e ∧ s.cond 8 = !v ∧ s.cond 9 = v ∧ s.cond 10 = !n ∧ s.cond 11 = n ∧
      s.cond 12 = (n && v || !n && !v) ∧ s.cond 13 = (n && !v || !n && v) ∧
      s.cond 14 = (n && v && !e || !n && !v && !e) ∧ s.cond 15 = (e || n && !v || !n && v)) ∧
    let u : State := { s with sr := compareSr s.sr z src dst }
    let a := unsignedAt z dst
    let b := unsignedAt z src
    let i := signedAt z dst
    let j := signedAt z src
    u.cond 0 = true ∧ u.cond 1 = false ∧
    (u.cond 2 = true ↔ b < a) ∧ (u.cond 3 = true ↔ a ≤ b) ∧ (u.cond 4 = true ↔ b ≤ a) ∧ (u.cond 5 = true ↔ a < b) ∧
    (u.cond 6 = true ↔ a ≠ b) ∧ (u.cond 7 = true ↔ a = b) ∧
    (u.cond 8 = true ↔ inSigned z (i - j) = true) ∧ (u.cond 9 = true ↔ inSigned z (i - j) = false) ∧
    (u.cond 10 = true ↔ 0 ≤ signedAt z (diffAt z src dst false)) ∧
    (u.cond 11 = true ↔ signedAt z (diffAt z src dst false) < 0) ∧
    (u.cond 12 = true ↔ j ≤ i) ∧ (u.cond 13 = true ↔ i < j) ∧ (u.cond 14 = true ↔ j < i) ∧ (u.cond 15 = true ↔ i ≤ j)

/-- Branches and jumps to an even target: Bcc goes to pc + 2 + displacement if the condition holds and on otherwise, BRA
always; DBcc goes on if the condition holds, else decrements the low word of Dn and branches unless it becomes -1; JMP
goes to the evaluated address; NOP goes on. Nothing else changes (47_program_control R922, R925, R926, R928, R930,
R932). -/
def Obligations.BranchesAndJumps : Prop :=
  ∀ (s : State) (cc : BitVec 4) (dn : BitVec 3) (d : BitVec 16) (disp : BrDisp) (ea : Ea), Ready s →
    let target (v : Long) : Long := s.pc + 2 + v
    let v := match disp with | .byte d => d.signExtend 32 | .word d => d.signExtend 32 | .long d => d
    let n := match disp with | .byte _ => 1 | .word _ => 2 | .long _ => 3
    let c := (s.getD dn).extractLsb' 0 16 - 1
    let u := { s with d := s.d.set dn ((s.getD dn).extractLsb' 16 16 ++ c) }
    ((target v).getLsbD 0 = false →
      GoesTo (.bcc cc disp) s (if s.cond cc then target v else s.after n) s ∧ GoesTo (.bra disp) s (target v) s) ∧
    (s.cond cc = true → Leaves (.dbcc cc dn d) s 2 s) ∧
    (s.cond cc = false → c = 0xFFFF → Leaves (.dbcc cc dn d) s 2 u) ∧
    (s.cond cc = false → c ≠ 0xFFFF → (target (d.signExtend 32)).getLsbD 0 = false →
      GoesTo (.dbcc cc dn d) s (target (d.signExtend 32)) u) ∧
    (ea.wf .control 1 = true → ∃ x, Evaluates s ea 0 1 (.mem x) s.a ∧
      (x.getLsbD 0 = false → GoesTo (.jmp ea) s x s)) ∧
    Leaves .nop s 1 s

/-- BSR and JSR push the address of the next instruction and go to an even target, which JSR evaluates before the push;
RTS, RTD and RTR pop the pc, RTD adding its displacement to the stack pointer, RTR first popping the condition codes
(47_program_control R927, R931, R933 to R935). -/
def Obligations.CallsAndReturns : Prop :=
  ∀ (s : State) (disp : BrDisp) (ea : Ea) (d : BitVec 16), Ready s →
    let sp := s.getA 7
    let v := match disp with | .byte d => d.signExtend 32 | .word d => d.signExtend 32 | .long d => d
    let n := match disp with | .byte _ => 1 | .word _ => 2 | .long _ => 3
    ((s.pc + 2 + v).getLsbD 0 = false →
      StoresAndReaches (.bsr disp) s { s with a := s.a.set s.sr 7 (sp - 4) } (s.pc + 2 + v) (sp - 4) 4 (s.after n)) ∧
    (ea.wf .control 1 = true → ∃ x, Evaluates s ea 0 1 (.mem x) s.a ∧
      (x.getLsbD 0 = false →
        StoresAndReaches (.jsr ea) s { s with a := s.a.set s.sr 7 (sp - 4) } x (sp - 4) 4 (s.after (1 + Ea.words 1 ea)))) ∧
    ((s.valueAt sp 4).getLsbD 0 = false →
      GoesTo .rts s (s.valueAt sp 4) { s with a := s.a.set s.sr 7 (sp + 4) } ∧
      GoesTo (.rtd d) s (s.valueAt sp 4) { s with a := s.a.set s.sr 7 (sp + 4 + d.signExtend 32) }) ∧
    ((s.valueAt (sp + 2) 4).getLsbD 0 = false →
      GoesTo .rtr s (s.valueAt (sp + 2) 4) { s with
        a := s.a.set s.sr 7 (sp + 6)
        sr := (s.sr &&& 0xFF00) ||| ((s.valueAt sp 2).extractLsb' 0 16 &&& 0x001F) })

/-! ### System control -/

/-- ANDI, EORI, ORI and MOVE to CCR change the five condition codes only; to SR, in supervisor state, they change every
bit that exists; MOVE USP copies the user stack pointer (48_system_control R962 to R967, R969, R971, R972,
10_state R60).
RESET drives RSTO and changes nothing else of the machine; STOP loads SR and stops the processor, unless it is traced
(48_system_control R980, R982). -/
def Obligations.StatusRegisterResetAndStop : Prop :=
  (∀ (s : State) (imm : BitVec 16) (ea : Ea) (an : BitVec 3), Ready s →
    let ccr (v : Word) : Word := (s.sr &&& 0xFF00) ||| (v &&& 0x001F)
    (∀ p ∈ ([(.andiToCcr imm, s.sr &&& imm), (.eoriToCcr imm, s.sr ^^^ imm), (.oriToCcr imm, s.sr ||| imm)] :
        List (Instr × Word)), Leaves p.1 s 2 { s with sr := ccr p.2 }) ∧
    LeavesFrom (.moveToCcr ea) s .w ea 1 (fun v a => { s with a := a, sr := ccr (v.extractLsb' 0 16) }) ∧
    (s.super = true →
      (∀ p ∈ ([(.andiToSr imm, s.sr &&& imm), (.eoriToSr imm, s.sr ^^^ imm), (.oriToSr imm, s.sr ||| imm)] :
        List (Instr × Word)), Leaves p.1 s 2 { s with sr := p.2 &&& 0xF71F }) ∧
      LeavesFrom (.moveToSr ea) s .w ea 1 (fun v a => { s with a := a, sr := v.extractLsb' 0 16 &&& 0xF71F }) ∧
      Leaves (.moveAnUsp an) s 1 { s with a := { s.a with usp := s.getA an } } ∧
      Leaves (.moveUspAn an) s 1 { s with a := s.a.set s.sr an s.a.usp })) ∧
  (∀ (s : State) (imm : BitVec 16), Ready s → s.super = true →
    Leaves .reset s 1 { s with rsto := s.rsto + 1 } ∧
    (s.sr &&& 0xC000 = 0 → Leaves (.stop imm) s 2 { s with sr := imm &&& 0xF71F, run := .stopped }) ∧
    (s.sr &&& 0xC000 = 0x8000 ∨ s.sr &&& 0xC000 = 0x4000 →
      ∃ t, exec (.stop imm) s = .next t ∧ t.sr = imm &&& 0xF71F ∧ t.pc = s.after 2 ∧ t.run = .normal ∧
        t.trace = some s.pc))

/-- MOVEC in supervisor state: it reads the register its code names into Rn, or writes Rn to it, keeping exactly the
implemented bits; a code that names none is an illegal instruction (48_system_control R975, R976, 10_state R65 to
R72). -/
def Obligations.MovecMovesControlRegisters : Prop :=
  ∀ (s : State) (rn : BitVec 4) (code : BitVec 12), Ready s → s.super = true →
    let mask (r : ControlReg) : Long := match r with
      | .sfc | .dfc => 7
      | .cacr => 0x80008000
      | .tc => 0xC000
      | .itt0 | .itt1 | .dtt0 | .dtt1 => 0xFFFFE364
      | .mmusr => 0xFFFFFFF7
      | .urp | .srp => 0xFFFFFE00
      | _ => 0xFFFFFFFF
    (∀ r, controlReg code = some r →
      Leaves (.movecRcRn rn code) s 2 (s.setR rn (readCr s r)) ∧
      ∃ u, Leaves (.movecRnRc rn code) s 2 u ∧ readCr u r = s.getR rn &&& mask r ∧
        (∀ q, q ≠ r → readCr u q = readCr s q) ∧ u = { s with ctl := u.ctl, a := u.a } ∧
        ∀ n : BitVec 3, n ≠ 7 → u.getA n = s.getA n) ∧
    (controlReg code = none → ∀ i ∈ ([.movecRcRn rn code, .movecRnRc rn code] : List Instr),
      ∃ t, exec i s = .next t ∧ Takes s 4 0 s.pc [] t)

/-- MOVES in supervisor state: with function code 1, 2, 5 or 6 in SFC or DFC the operand is in ordinary memory, with any
other in the space of that code; a load sign-extends into an address register; a register the addressing mode updates is
stored old or new (48_system_control R978). That codes 0, 3, 4 and 7 have memory of their own each, which the rule leaves to
the system, is the model's choice (20_memory R163, log 11). -/
def Obligations.MovesUsesTheFunctionCodes : Prop :=
  ∀ (s : State) (rn : BitVec 4) (ea : Ea), Ready s → s.super = true → ea.wf .memAlt 1 = true →
    let ordinary (fc : BitVec 3) : Bool := fc = 1 ∨ fc = 2 ∨ fc = 5 ∨ fc = 6
    ∀ p ∈ ([(fun m => .movesB rn m ea, .b), (fun m => .movesW rn m ea, .w), (fun m => .movesL rn m ea, .l)] :
      List ((Bool → Instr) × Size)),
    let z := p.2
    ∃ x a, Evaluates s ea z.bytes 2 (.mem x) a ∧
      (let u := { s with a := a }
       let v := if ordinary s.ctl.sfc then s.valueAt x z.bytes
        else ofBytes (getBytes s.mem.alt ((s.ctl.sfc.toNat + 1) * 2 ^ 32) x z.bytes)
       Leaves (p.1 false) s (2 + Ea.words 1 ea)
        (if rn.getLsbD 3 then u.setR rn (z.sext v) else { u with d := dataAfter u z (.d (rn.extractLsb' 0 3)) v }) ∧
       ∃ w, (w = s.getR rn ∨ w = u.getR rn) ∧
        (ordinary s.ctl.dfc = true → StoresAndReaches (p.1 true) s u (s.after (2 + Ea.words 1 ea)) x z.bytes w) ∧
        (ordinary s.ctl.dfc = false → Leaves (p.1 true) s (2 + Ea.words 1 ea)
          { u with mem := { u.mem with
            alt := putBytes s.mem.alt ((s.ctl.dfc.toNat + 1) * 2 ^ 32) x (toBytes w z.bytes) } }))

/-- RTE in supervisor state: a format $0 frame gives back SR and pc and eight bytes of stack, a format $2 or $3 frame
twelve, a format $7 frame without continuation sixty; a throwaway frame gives back SR, and the frame on the stack that SR
selects is taken next; an unknown format is a format error, vector 14, with the RTE's address
(48_system_control R981, 60_exceptions R1104, R1128, R1145). The restored pc is even.
A format $7 frame with CM gives back SR and pc too and leaves its EA for the MOVEM that follows; with CT, CU or CP it becomes
the frame of the pending exception, format $2 with vector 9 or 11, format $3 with the floating-point vector, which is
then taken with SR and pc as they stood in the frame; with two or more of these bits, for which the source says that the
operation is undefined, RTE stops (60_exceptions R1104). That CP with no vector pending stands for any of 48 to 55 is the
model's choice (log 24). -/
def Obligations.RteRestoresTheFrame : Prop :=
  ∀ (s : State), Ready s → s.super = true →
    let format (b : Long) : Nat := ((s.valueAt (b + 6) 2).extractLsb' 12 4).toNat
    let sr (b : Long) : Word := (s.valueAt b 2).extractLsb' 0 16 &&& 0xF71F
    let pc (b : Long) : Long := s.valueAt (b + 2) 4
    let sp := s.getA 7
    (∀ p ∈ ([(0, 8), (2, 12), (3, 12), (7, 60)] : List (Nat × Nat)), format sp = p.1 → (pc sp).getLsbD 0 = false →
      (p.1 = 7 → (s.valueAt (sp + 12) 2).extractLsb' 12 4 = 0) →
      GoesTo .rte s (pc sp) { s with sr := sr sp, a := s.a.set s.sr 7 (sp + BitVec.ofNat 32 p.2) }) ∧
    (format sp = 1 →
      let u := { s with sr := sr sp, a := s.a.set s.sr 7 (sp + 8) }
      format (u.getA 7) = 0 → (pc (u.getA 7)).getLsbD 0 = false →
      GoesTo .rte s (pc (u.getA 7)) { u with sr := sr (u.getA 7), a := u.a.set u.sr 7 (u.getA 7 + 8) }) ∧
    (format sp = 7 →
      let ea := s.valueAt (sp + 8) 4
      let bits := ((s.valueAt (sp + 12) 2).extractLsb' 12 4).toNat
      let continues (v : BitVec 8) (f : BitVec 4) (fpu : Fpu) : Prop :=
        let ram := putBytes s.mem.ram 0 (sp + 48)
          (frameBytes ((s.valueAt sp 2).extractLsb' 0 16) (pc sp) f v (toBytes ea 4))
        let handler := ofBytes (getBytes ram 0 (s.ctl.vbr + 4 * v.zeroExtend 32) 4)
        handler.getLsbD 0 = false → ∃ p k q, Refilled ram handler q ∧ exec .rte s = .next { s with
          sr := exceptionSr (sr sp)
          a := s.a.set s.sr 7 (sp + 48)
          pc := handler
          fpu := fpu
          mem := { s.mem with ram := ram, pipe := q, stale := p, draws := k }
          trace := none, movemEa := none, run := .normal }
      (bits = 1 → (pc sp).getLsbD 0 = false → ∃ t, exec .rte s = .next t ∧ t.movemEa = some ea ∧ SameBytes s t ∧
        CompletesAs { s with sr := sr sp, a := s.a.set s.sr 7 (sp + 60) } (pc sp) { t with movemEa := none }) ∧
      (bits = 2 → continues 9 2 s.fpu) ∧ (bits = 4 → continues 11 2 s.fpu) ∧
      (bits = 8 → ∃ v, (∀ w, s.fpu.postPending = some w → v = w) ∧
        (s.fpu.postPending = none → 48 ≤ v.toNat ∧ v.toNat < 56) ∧
        continues v 3 { s.fpu with postPending := none }) ∧
      (bits ∉ [0, 1, 2, 4, 8] → exec .rte s = .refused .rteContinuation)) ∧
    (format sp ∉ [0, 1, 2, 3, 7] → ∃ t, exec .rte s = .next t ∧ Takes s 14 0 s.pc [] t)

/-! ### Multiprocessor, cache and MMU instructions -/

/-- TAS sets the flags from the byte and then its bit 7; CAS compares Dc with the operand, sets the flags of operand
minus Dc, and stores Du if they are equal, else writes the operand back and loads Dc; CAS2 does so with two operands
(49_mmu_cache_multiprocessor R1050 to R1053). -/
def Obligations.CompareAndSwap : Prop :=
  ∀ (s : State) (n du dc du1 dc1 du2 dc2 : BitVec 3) (r1 r2 : BitVec 4) (ea : Ea), Ready s →
    Leaves (.tas (.dn n)) s 1
      (s.put s.a (logicSr s.sr .b (s.getD n)) .b (.d n) (s.getD n ||| 0x80)) ∧
    (ea.wf .memAlt 1 = true → ∃ x a, Evaluates s ea 1 1 (.mem x) a ∧
      StoresAndReaches (.tas ea) s { s with a := a, sr := logicSr s.sr .b (s.valueAt x 1) }
        (s.after (1 + Ea.words 1 ea)) x 1 (s.valueAt x 1 ||| 0x80)) ∧
    (∀ p ∈ ([(.casB du dc ea, .b), (.casW du dc ea, .w), (.casL du dc ea, .l)] : List (Instr × Size)),
      ea.wf .memAlt 1 = true → ∃ x a, Evaluates s ea p.2.bytes 2 (.mem x) a ∧
        (let v := s.valueAt x p.2.bytes
         let u := { s with a := a, sr := compareSr s.sr p.2 (s.getD dc) v }
         let pc := s.after (2 + Ea.words 1 ea)
         if unsignedAt p.2 v = unsignedAt p.2 (s.getD dc) then StoresAndReaches p.1 s u pc x p.2.bytes (s.getD du)
         else StoresAndReaches p.1 s { u with d := dataAfter u p.2 (.d dc) v } pc x p.2.bytes v)) ∧
    (∀ p ∈ ([(.cas2W r1 du1 dc1 r2 du2 dc2, .w), (.cas2L r1 du1 dc1 r2 du2 dc2, .l)] : List (Instr × Size)),
      let z := p.2
      let v1 := s.valueAt (s.getR r1) z.bytes
      let v2 := s.valueAt (s.getR r2) z.bytes
      let same1 := unsignedAt z v1 = unsignedAt z (s.getD dc1)
      let same2 := unsignedAt z v2 = unsignedAt z (s.getD dc2)
      let sr1 := compareSr s.sr z (s.getD dc1) v1
      let sr2 := compareSr s.sr z (s.getD dc2) v2
      let loaded (sr : Word) : State :=
        let u := { s with sr := sr, d := dataAfter s z (.d dc2) v2 }
        { u with d := dataAfter u z (.d dc1) v1 }
      (same1 → same2 → ∃ t, exec p.1 s = .next t ∧
        CompletesAs { s with
          sr := sr2
          mem := { s.mem with
            ram := putBytes (putBytes s.mem.ram 0 (s.getR r1) (toBytes (s.getD du1) z.bytes)) 0 (s.getR r2)
              (toBytes (s.getD du2) z.bytes) } } (s.after 3) t ∧
        ∀ b, ¬ inRange (s.getR r1) z.bytes b → ¬ inRange (s.getR r2) z.bytes b → t.byteAt b = s.byteAt b) ∧
      (same1 → ¬ same2 → StoresAndReaches p.1 s (loaded sr2) (s.after 3) (s.getR r2) z.bytes v2) ∧
      (¬ same1 → StoresAndReaches p.1 s (loaded sr1) (s.after 3) (s.getR r2) z.bytes v2))

/-- CINVL, CINVP and CINVA invalidate exactly the lines of the line, page or whole of the selected caches, and push
nothing (49_mmu_cache_multiprocessor R1039 to R1042, 22_caches_bus R343).
CPUSHL, CPUSHP and CPUSHA with nothing else on the bus: as CINV, the selected dirty lines of the data cache being written to
memory before: no byte outside the selected dirty lines changes, and every dirty long word of each selected line reaches memory,
no two lines of the cache being for one address (49_mmu_cache_multiprocessor R1043 to R1045, 22_caches_bus R342, R343). -/
def Obligations.CacheMaintenance : Prop :=
  (∀ (s : State) (c : BitVec 2) (an : BitVec 3), s.super = true → s.pc.getLsbD 0 = false → s.mem.pushFaults = [] →
    let page : Long := if s.ctl.tc.getLsbD 14 then 0xFFFFE000 else 0xFFFFF000
    ∀ p ∈ ([(.cinvl c an, fun x => x &&& 0xFFFFFFF0 == s.getA an &&& 0xFFFFFFF0),
        (.cinvp c an, fun x => x &&& page == s.getA an &&& page), (.cinva c, fun _ => true)] :
        List (Instr × (Long → Bool))),
    ∃ dc ic, Leaves p.1 s 1 { s with mem := { s.mem with dcache := dc, icache := ic } } ∧
      (∀ x, x ∈ dc ↔ x ∈ s.mem.dcache ∧ ¬ (c.getLsbD 0 = true ∧ p.2 (x.2.addr x.1) = true)) ∧
      (∀ x, x ∈ ic ↔ x ∈ s.mem.icache ∧ ¬ (c.getLsbD 1 = true ∧ p.2 (x.2.addr x.1) = true))) ∧
  (∀ (s : State) (c : BitVec 2) (an : BitVec 3), s.super = true → s.pc.getLsbD 0 = false → s.mem.pushFaults = [] →
    s.mem.quiet = true → (s.mem.dcache.map (·.1)).Nodup →
    let page : Long := if s.ctl.tc.getLsbD 14 then 0xFFFFE000 else 0xFFFFF000
    ∀ p ∈ ([(.cpushl c an, fun x => x &&& 0xFFFFFFF0 == s.getA an &&& 0xFFFFFFF0),
        (.cpushp c an, fun x => x &&& page == s.getA an &&& page), (.cpusha c, fun _ => true)] :
        List (Instr × (Long → Bool))),
    ∃ t, exec p.1 s = .next t ∧
      CompletesAs { s with mem := { s.mem with ram := t.mem.ram, dcache := t.mem.dcache, icache := t.mem.icache } }
        (s.after 1) t ∧
      (∀ x, x ∈ t.mem.dcache ↔ x ∈ s.mem.dcache ∧ ¬ (c.getLsbD 0 = true ∧ p.2 (x.2.addr x.1) = true)) ∧
      (∀ x, x ∈ t.mem.icache ↔ x ∈ s.mem.icache ∧ ¬ (c.getLsbD 1 = true ∧ p.2 (x.2.addr x.1) = true)) ∧
      (c.getLsbD 0 = false → SameBytes s t) ∧
      (∀ b, (∀ x ∈ s.mem.dcache, p.2 (x.2.addr x.1) = true → x.2.dirty ≠ 0 → ¬ inRange (x.2.addr x.1) 16 b) →
        t.byteAt b = s.byteAt b) ∧
      (Memory.wf s.mem → (∀ x ∈ s.mem.dcache, ∀ y ∈ s.mem.dcache, x.2.addr x.1 = y.2.addr y.1 → x = y) →
        c.getLsbD 0 = true → ∀ x ∈ s.mem.dcache, p.2 (x.2.addr x.1) = true → ∀ k < 4, x.2.dirty.getLsbD k = true →
          t.valueAt (x.2.addr x.1 + BitVec.ofNat 32 (4 * k)) 4 = x.2.data.extractLsb' (32 * (3 - k)) 32))

/-- PFLUSHA empties both address translation caches, PFLUSHAN keeps the global entries; PFLUSH (An) and PFLUSHN (An)
remove exactly the entries for the page of An with FC2 of DFC, PFLUSHN only those that are not global
(49_mmu_cache_multiprocessor R1032 to R1035, 21_mmu R260). -/
def Obligations.PflushRemovesEntries : Prop :=
  ∀ (s : State) (an : BitVec 3), s.super = true → s.pc.getLsbD 0 = false → s.mem.pushFaults = [] →
    let la := s.getA an
    let hit (x : Nat × AtcEntry) : Prop :=
      x.2.fc2 = s.ctl.dfc.getLsbD 2 ∧
      if s.ctl.tc.getLsbD 14 then x.1 / 4 = (la.extractLsb' 13 4).toNat ∧ x.2.la.extractLsb' 1 15 = la.extractLsb' 17 15
      else x.1 / 4 = (la.extractLsb' 12 4).toNat ∧ x.2.la = la.extractLsb' 16 16
    ∀ p ∈ ([(.pflusha, fun _ => True), (.pflushan, fun x => x.2.g = false), (.pflushAn an, hit),
        (.pflushnAn an, fun x => hit x ∧ x.2.g = false)] : List (Instr × (Nat × AtcEntry → Prop))),
    ∃ ia da, Leaves p.1 s 1 { s with mem := { s.mem with iatc := ia, datc := da } } ∧
      (∀ x, x ∈ ia ↔ x ∈ s.mem.iatc ∧ ¬ p.2 x) ∧ (∀ x, x ∈ da ↔ x ∈ s.mem.datc ∧ ¬ p.2 x)

/-- A logical address that a transparent translation register matches is its own physical address, with that register's
cache mode; a write through a write-protected one faults (21_mmu R221, R224).
Translation through the tables, for both page sizes, from an empty cache, or for a write whose entry in the cache has M clear:
the three descriptors, and the page descriptor
that an indirect one names, lead to the page frame; U is set in each that has it clear, M in the page descriptor of a write
that is allowed; a user access to a supervisor page and a write to a page that any level protects fault; the entry with the tag,
FC2 and the fields of the page descriptor is then in its set of the ATC. A descriptor that is not resident, or an indirect
one that names no resident page descriptor, faults and leaves an entry with R = 0 (21_mmu R230 to R235, R240 to R251).
An entry in the ATC gives its page frame and cache mode, or faults with R clear or a write to a protected page; no table is read
(21_mmu R230 to R235). -/
def Obligations.AddressTranslation : Prop :=
  (∀ (c : Control) (m : MemSys) (instr fc2 wr : Bool) (la : Long),
    let r0 := if instr then c.itt0 else c.dtt0
    let r1 := if instr then c.itt1 else c.dtt1
    let hits (r : Long) : Prop := r.getLsbD 15 = true ∧
      (∀ k < 8, r.getLsbD (16 + k) = true ∨ la.getLsbD (24 + k) = r.getLsbD (24 + k)) ∧
      (r.getLsbD 14 = true ∨ r.getLsbD 13 = fc2)
    ∀ r, (hits r0 ∧ r = r0) ∨ (¬ hits r0 ∧ hits r1 ∧ r = r1) →
      translate c m instr la fc2 wr =
        if wr = true ∧ r.getLsbD 2 = true then .fault m else .ok la (r.extractLsb' 5 2) m) ∧
  (∀ (s : State) (instr fc2 wr eightK : Bool) (la : Long),
    let set : Nat := if eightK then (la.extractLsb' 13 4).toNat else (la.extractLsb' 12 4).toNat
    let names (x : AtcEntry) : Prop := x.fc2 = fc2 ∧
      if eightK then x.la.extractLsb' 1 15 = la.extractLsb' 17 15 else x.la = la.extractLsb' 16 16
    ttrMatch s.ctl instr la fc2 = none → s.ctl.tc = (if eightK then 0xC000 else 0x8000) → s.mem.mdis = false →
    s.ctl.cacr.getLsbD 31 = false → s.mem.quiet = true →
    s.mem.atc instr = [] ∨ (wr = true ∧ ∃ k x, s.mem.atc instr = [(k, x)] ∧ k / 4 = set ∧ names x ∧
      x.r = true ∧ x.w = false ∧ x.m = false) →
    let long (ram : List Host.Cell) (a : Long) : Long := ofBytes (getBytes ram 0 a 4)
    let used (ram : List Host.Cell) (a d : Long) : List Host.Cell :=
      if d.getLsbD 3 then ram else putBytes ram 0 a (toBytes (d ||| 8) 4)
    let a1 := (if fc2 then s.ctl.srp else s.ctl.urp).extractLsb' 9 23 ++ la.extractLsb' 25 7 ++ 0#2
    let d1 := long s.mem.ram a1
    let ram1 := used s.mem.ram a1 d1
    let a2 := d1.extractLsb' 9 23 ++ la.extractLsb' 18 7 ++ 0#2
    let d2 := long ram1 a2
    let ram2 := used ram1 a2 d2
    let a3 := if eightK then d2.extractLsb' 7 25 ++ la.extractLsb' 13 5 ++ 0#2
      else d2.extractLsb' 8 24 ++ la.extractLsb' 12 6 ++ 0#2
    let d3 := long ram2 a3
    let ap := if d3.extractLsb' 0 2 = 2 then d3 &&& 0xFFFFFFFC else a3
    let pd := long ram2 ap
    let resident := d1.getLsbD 1 = true ∧ d2.getLsbD 1 = true ∧ pd.extractLsb' 0 2 = 1
    let wp := d1.getLsbD 2 || d2.getLsbD 2 || pd.getLsbD 2
    let forbidden := (fc2 = false ∧ pd.getLsbD 7 = true) ∨ (wr = true ∧ wp = true)
    let ram3 := if wr = true ∧ ¬ forbidden ∧ pd.getLsbD 4 = false then putBytes ram2 0 ap (toBytes (pd ||| 0x18) 4)
      else used ram2 ap pd
    ∃ m k e, m.atc instr = [(k, e)] ∧ k / 4 = set ∧ e.fc2 = fc2 ∧ e.la = la.extractLsb' 16 16 ∧
      (¬ resident → translate s.ctl s.mem instr la fc2 wr = .fault m ∧ e.r = false) ∧
      (resident → m.ram = ram3 ∧ e.g = pd.getLsbD 10 ∧ e.pa = pd.extractLsb' 12 20 ∧ e.u1 = pd.getLsbD 9 ∧
        e.u0 = pd.getLsbD 8 ∧ e.s = pd.getLsbD 7 ∧ e.cm = pd.extractLsb' 5 2 ∧
        (e.m = true ↔ pd.getLsbD 4 = true ∨ (wr = true ∧ ¬ forbidden)) ∧ e.w = wp ∧
        (e.r = true ↔ fc2 = true ∨ pd.getLsbD 7 = false) ∧ translate s.ctl s.mem instr la fc2 wr =
        if forbidden then .fault m
        else .ok (if eightK then pd.extractLsb' 13 19 ++ la.extractLsb' 0 13 else pd.extractLsb' 12 20 ++ la.extractLsb' 0 12)
          (pd.extractLsb' 5 2) m)) ∧
  (∀ (c : Control) (m : MemSys) (instr fc2 wr eightK : Bool) (la : Long) (k : Nat) (e : AtcEntry),
    let set : Nat := if eightK then (la.extractLsb' 13 4).toNat else (la.extractLsb' 12 4).toNat
    let names (x : AtcEntry) : Prop := x.fc2 = fc2 ∧
      if eightK then x.la.extractLsb' 1 15 = la.extractLsb' 17 15 else x.la = la.extractLsb' 16 16
    ttrMatch c instr la fc2 = none → c.tc = (if eightK then 0xC000 else 0x8000) → m.mdis = false →
    tabGet (m.atc instr) k = some e → k / 4 = set → names e →
    (∀ j x, tabGet (m.atc instr) j = some x → j / 4 = set → names x → j = k) →
    wr = false ∨ e.r = false ∨ e.w = true ∨ e.m = true →
    ∃ m', m' = { m with iatcCtr := m'.iatcCtr, datcCtr := m'.datcCtr } ∧ translate c m instr la fc2 wr =
      if e.r = false ∨ (wr = true ∧ e.w = true) then .fault m'
      else .ok (if eightK then e.pa.extractLsb' 1 19 ++ la.extractLsb' 0 13 else e.pa ++ la.extractLsb' 0 12) e.cm m')

/-- PTEST in supervisor state: MMUSR tells of a transparent match with T and R alone; a table search that finds three
resident descriptors (4K pages, marked used, for PTESTW modified) reports the page frame and the bits of the page
descriptor, W if any level protects; a root entry that is not resident gives zero
(49_mmu_cache_multiprocessor R1036, R1037, 21_mmu R262, R263; that the last is zero is 92 D9).
PTEST of an address that a transparent translation register matches (21_mmu R262, R263). -/
def Obligations.PtestReportsInMmusr : Prop :=
  (∀ (s : State) (an : BitVec 3) (d1 d2 d3 : Long), Ready s → s.super = true → s.mem.iatc = [] → s.mem.datc = [] →
    let la := s.getA an
    let fc2 := s.ctl.dfc.getLsbD 2
    d1 = s.valueAt ((if fc2 then s.ctl.srp else s.ctl.urp).extractLsb' 9 23 ++ la.extractLsb' 25 7 ++ 0#2) 4 →
    d2 = s.valueAt (d1.extractLsb' 9 23 ++ la.extractLsb' 18 7 ++ 0#2) 4 →
    d3 = s.valueAt (d2.extractLsb' 8 24 ++ la.extractLsb' 12 6 ++ 0#2) 4 →
    ∀ p ∈ ([(.ptestrAn an, false), (.ptestwAn an, true)] : List (Instr × Bool)),
    let reports (v : Long) : Prop := ∃ t, exec p.1 s = .next t ∧
      CompletesAs { s with
        ctl := { s.ctl with mmusr := v }
        mem := { s.mem with iatc := t.mem.iatc, datc := t.mem.datc, iatcCtr := t.mem.iatcCtr, datcCtr := t.mem.datcCtr } }
        (s.after 1) t ∧ SameBytes s t
    (d1.getLsbD 1 = false → reports 0) ∧
    (s.ctl.tc.getLsbD 14 = false → d1 &&& 0xA = 0xA → d2 &&& 0xA = 0xA → d3 &&& 0xB = 9 →
      (p.2 = true → d3.getLsbD 4 = true) →
      let w := d1.getLsbD 2 || d2.getLsbD 2 || d3.getLsbD 2
      reports (d3.extractLsb' 12 20 ++ 0#1 ++ d3.extractLsb' 4 7 ++ 0#1 ++ BitVec.ofBool w ++ 0b01#2))) ∧
  (∀ (s : State) (an : BitVec 3), s.super = true → s.pc.getLsbD 0 = false → s.mem.pushFaults = [] →
    (∃ i, (ttrMatch s.ctl i (s.getA an) (s.ctl.dfc.getLsbD 2)).isSome = true) →
    ∀ p ∈ ([.ptestrAn an, .ptestwAn an] : List Instr), Leaves p s 1 { s with ctl := { s.ctl with mmusr := 3 } })

/-! ### Floating point -/

/-- Rounding gives a normalised mantissa of the precision whose value is within half a unit in the last place of the
exact one for RN, with an even last place if it is just half a unit away, and within one unit on the side the mode names
for RZ, RM and RP; it is the exact one where the precision can represent that, and inexact exactly when the values differ
(42_floating_point R704). -/
def Obligations.RoundingIsCorrect : Prop :=
  ∀ (p : Prec) (rnd : Rnd) (neg : Bool) (v : Exact), 0 < v.n →
    let r := roundTo p.bits rnd neg v
    let ulp : ℚ := (2 : ℚ) ^ (v.exp - p.bits + 1)
    r.m.msb = true ∧ (∀ k < 64 - p.bits, r.m.getLsbD k = false) ∧ (r.inexact = true ↔ r.value ≠ v.value) ∧
    (∀ (n : Nat) (k : Int), n < 2 ^ p.bits → v.value = n * (2 : ℚ) ^ k → r.value = v.value) ∧
    (rnd = .rn → |r.value - v.value| ≤ ulp / 2 ∧
      (|r.value - v.value| = ulp / 2 → r.m.getLsbD (64 - p.bits) = false)) ∧
    (rnd = .rz ∨ (rnd = .rm ∧ neg = false) ∨ (rnd = .rp ∧ neg = true) → r.value ≤ v.value ∧ v.value < r.value + ulp) ∧
    ((rnd = .rm ∧ neg = true) ∨ (rnd = .rp ∧ neg = false) → v.value ≤ r.value ∧ r.value < v.value + ulp)

/-- Before rounding, the result of an operation on finite operands is exact, a finite magnitude or a zero: sum, difference and
product; the operand itself, its absolute value and its negation for FMOVE, FABS and FNEG; the exact zero of a sum of
opposite operands is positive but in mode RM (42_floating_point R720, R730, R732, R737, R739, R741).
Of infinite operands: an infinity plus or minus a finite operand, or plus an infinity of its sign, or minus one of the other,
is itself, a finite operand plus an infinity is that one, and minus it the opposite one; an infinity times anything but a zero
is an infinity with the sign of the product; an infinity divided by a finite operand is an infinity, the other way round a zero;
FMOVE, FABS, FNEG and FSQRT of an infinity that has a root give infinities.
The quotient of normalized operands, and the root of a positive one, rounded at any precision, are the rounded exact
quotient and square root; a quotient with a zero dividend and the root of a zero are zeros; the root of a negative operand is
an operand error (42_floating_point R734, R743).
FCMP orders finite operands as their values, with the infinities below and above all of them: after it EQ, GT and LT (IEEE
predicates 1, 2, 4) hold exactly when the destination equals, exceeds, is below the source (42_floating_point R745, R760).
These are the results and codes by which an instruction computes (`calculate`): on operands that are no NANs it rounds and
range-checks the result before rounding, and FCMP sets the codes of the order and nothing else. FCMP with a NAN operand sets the
NAN code alone, and SNAN where one is signaling; FTST sets the codes of its operand's sign and class (42_floating_point R708,
R745, R746). -/
def Obligations.FloatResultsHaveTheirValues : Prop :=
  (∀ (rnd : Rnd) (a b : Fpr), (a.cls = .norm ∨ a.cls = .zero) → (b.cls = .norm ∨ b.cls = .zero) →
    (∀ p ∈ ([(.add, a.value + b.value), (.sub, a.value - b.value), (.mul, a.value * b.value), (.move, b.value),
        (.abs, |b.value|), (.neg, -b.value)] : List (FpOp × ℚ)), (rawOf p.1 rnd a b).Is p.2) ∧
    (a.cls = .norm → b = { a with s := !a.s } →
      rawOf .add rnd a b = .value (Fpr.zeroOf (decide (rnd = .rm)))) ∧
    (b.cls = .norm → ∃ v, 0 < v.n ∧
      (a.cls = .norm → rawOf .div rnd a b = .finite (a.s != b.s) v) ∧
      (a.cls = .zero → rawOf .div rnd a b = .value (Fpr.zeroOf (a.s != b.s))) ∧
      ∀ p : Prec, a.cls = .norm →
        RoundsTo p.bits rnd (a.s != b.s) ((|a.value / b.value| : ℚ) : ℝ) (roundTo p.bits rnd (a.s != b.s) v)) ∧
    (b.cls = .norm → b.s = false → ∃ v, 0 < v.n ∧ rawOf .sqrt rnd a b = .finite false v ∧
      ∀ p : Prec, RoundsTo p.bits rnd false (Real.sqrt (b.value : ℝ)) (roundTo p.bits rnd false v)) ∧
    (b.cls = .norm → b.s = true → rawOf .sqrt rnd a b = .operandError) ∧
    (b.cls = .zero → rawOf .sqrt rnd a b = .value (Fpr.zeroOf b.s))) ∧
  (∀ (rnd : Rnd) (a b : Fpr),
    let finite (x : Fpr) : Prop := x.cls = .norm ∨ x.cls = .zero
    let gives (op : FpOp) (s : Bool) : Prop := rawOf op rnd a b = .value ⟨s, 0x7FFF, 0⟩
    (a.cls = .inf → finite b → gives .add a.s ∧ gives .sub a.s ∧ gives .div (a.s != b.s)) ∧
    (finite a → b.cls = .inf →
      gives .add b.s ∧ gives .sub (!b.s) ∧ rawOf .div rnd a b = .value (Fpr.zeroOf (a.s != b.s))) ∧
    (a.cls = .inf → b.cls = .inf → (a.s = b.s → gives .add a.s) ∧ (a.s ≠ b.s → gives .sub a.s)) ∧
    (a.cls = .inf ∧ (b.cls = .norm ∨ b.cls = .inf) ∨ a.cls = .norm ∧ b.cls = .inf → gives .mul (a.s != b.s)) ∧
    (b.cls = .inf → gives .move b.s ∧ gives .abs false ∧ gives .neg (!b.s) ∧ (b.s = false → gives .sqrt false))) ∧
  (∀ (a b : Fpr) (fpsr : Long), (a.cls = .norm ∨ a.cls = .zero ∨ a.cls = .inf) →
    (b.cls = .norm ∨ b.cls = .zero ∨ b.cls = .inf) →
    let v (x : Fpr) : EReal := if x.cls = .inf then (if x.s then ⊥ else ⊤) else ((x.value : ℝ) : EReal)
    let t := updateFpsr fpsr 0 (some (compareCc a b))
    (fpTruth 1 t = true ↔ v a = v b) ∧ (fpTruth 2 t = true ↔ v b < v a) ∧
    (fpTruth 4 t = true ↔ v a < v b) ∧ fpTruth 8 t = false) ∧
  (∀ (p : Prec) (rnd : Rnd) (enable : BitVec 8) (a b : Fpr),
    let nan := a.isNan = true ∨ b.isNan = true
    (¬ nan → (∀ op ∈ ([.move, .sqrt, .abs, .neg, .div, .add, .mul, .sub] : List FpOp),
        calculate op p rnd enable (if op.dyadic then some a else none) b = finish p rnd enable (rawOf op rnd a b)) ∧
      calculate .cmp p rnd enable (some a) b = ⟨0, none, some (compareCc a b), .none⟩) ∧
    (nan → calculate .cmp p rnd enable (some a) b =
      ⟨if a.cls = .snan ∨ b.cls = .snan then 0x40 else 0, none, some 1, .none⟩) ∧
    calculate .tst p rnd enable none b = ⟨if b.cls = .snan then 0x40 else 0, none,
      some (BitVec.ofBool b.s ++ BitVec.ofBool (b.cls = .zero) ++ BitVec.ofBool (b.cls = .inf) ++
        BitVec.ofBool (b.cls = .qnan ∨ b.cls = .snan)), .none⟩)

/-- The arithmetic instructions of the FPU with no exception pending. Where both operands are of a type the hardware
accepts, FPIAR is the instruction's address, FPSR and FPn are what the operation gives at the precision the instruction
or FPCR names, and the reported exception, if one is, is pending. Where an operand is not, vector 55 is pending and FPn
and FPSR keep their values. Memory, the integer registers but for the addressing mode's, and FPCR do not change
(42_floating_point R701, R715, R720 to R746, 61_fp_exceptions R1202, R1204; that FPIAR is loaded also with every
exception disabled is log 15). That the accrued byte is updated also where an enabled exception leaves FPn unwritten is the
model's choice between 42_floating_point R707 and 92 D20 (log 53).
The source operand is an FP register, or the bits of a data register, an immediate or as many bytes of memory as the format has,
converted to extended precision (`FpConverts`): an integer exactly, S and D by their sign, exponent and fraction, X bit by bit;
the hardware does not accept a denormalized or unnormalized one, nor a packed decimal one (42_floating_point R687, R688, R692). -/
def Obligations.FloatArithmeticInstructions : Prop :=
  (∀ (s : State) (src : FpSrc) (dn : BitVec 3), Ready s → s.fpu.pending = none →
    ∃ x e a, FpReads s src x e a ∧
    ∀ p ∈ ([(.fmoveEaFpmFpn src dn, .move, none), (.fsmove src dn, .move, some .single),
        (.fdmove src dn, .move, some .double), (.fsqrt src dn, .sqrt, none), (.fssqrt src dn, .sqrt, some .single),
        (.fdsqrt src dn, .sqrt, some .double), (.fabs src dn, .abs, none), (.fsabs src dn, .abs, some .single),
        (.fdabs src dn, .abs, some .double), (.fneg src dn, .neg, none), (.fsneg src dn, .neg, some .single),
        (.fdneg src dn, .neg, some .double), (.fdiv src dn, .div, none), (.fsdiv src dn, .div, some .single),
        (.fddiv src dn, .div, some .double), (.fadd src dn, .add, none), (.fsadd src dn, .add, some .single),
        (.fdadd src dn, .add, some .double), (.fmul src dn, .mul, none), (.fsmul src dn, .mul, some .single),
        (.fdmul src dn, .mul, some .double), (.fsub src dn, .sub, none), (.fssub src dn, .sub, some .single),
        (.fdsub src dn, .sub, some .double), (.fcmp src dn, .cmp, none), (.ftst src dn, .tst, none)] :
        List (Instr × FpOp × Option Prec)),
    let dst := if p.2.1.dyadic then some (s.getFp dn) else none
    let accepted := x.unsupported = false ∧ ∀ d, dst = some d → d.cls ≠ .denorm ∧ d.cls ≠ .unnorm
    ∃ t, exec p.1 s = .next t ∧ CompletesAs { s with a := a, fpu := t.fpu } (s.after (fpLength src)) t ∧ SameBytes s t ∧
      t.fpu.fpiar = s.pc ∧ t.fpu.fpcr = s.fpu.fpcr ∧
      (accepted → ∃ q, PrecisionIs s p.2.2 q ∧
        (let enable := s.fpu.fpcr.extractLsb' 8 8
         let o := calculate p.2.1 q (rndOf s.fpu.fpcr) enable dst x.v
         t.fpu.fpsr = updateFpsr s.fpu.fpsr o.exc o.cc ∧
         t.fpu.fp = (match o.result with | some r => s.fpu.fp.set dn r | none => s.fpu.fp) ∧
         t.fpu.pending = reported o.exc enable 0x18)) ∧
      (¬ accepted → t.fpu.pending = some 55 ∧ t.fpu.fp = s.fpu.fp ∧ t.fpu.fpsr = s.fpu.fpsr)) ∧
  (∀ (s : State) (m : BitVec 3) (ea : Ea), Ready s →
    (∃ x, FpReads s (.fp m) x none s.a ∧ x.v = s.getFp m ∧
      (x.unsupported = true ↔ (s.getFp m).cls = .denorm ∨ (s.getFp m).cls = .unnorm)) ∧
    ∀ p ∈ ([(.b, 1), (.w, 2), (.l, 4), (.s, 4), (.d, 8), (.x, 12), (.p, 12)] : List (FpFmt × Nat)),
    ∃ l a x, Evaluates s ea p.2 2 l a ∧
      match l with
      | .mem y => FpReads s (.ea p.1 ea) x (some y) a ∧
          FpConverts p.1 (BitVec.ofNat 96 ((s.bytesAt y p.2).foldl (fun v b => 256 * v + b.toNat) 0)) x
      | .d r => FpReads s (.ea p.1 ea) x none a ∧ FpConverts p.1 ((s.getD r).zeroExtend 96) x
      | .imm v => FpReads s (.ea p.1 ea) x none a ∧ FpConverts p.1 v x
      | .a _ => True)

/-- What an operation does outside the range of its precision: a result that rounds to a magnitude of at least
2^maxExp sets OVFL (and INEX2 if inexact), a smaller exact magnitude than 2^minExp sets UNFL; both leave the destination
and the condition codes and are always reported; a division of a nonzero value by zero gives, with DZ disabled, an infinity with
the sign of the quotient, and with DZ enabled leaves the destination and is reported; an infinity or a zero that is the result
raises nothing and sets I or Z and N as its sign (42_floating_point R705, R706, R708, R710, R736, R743).
An operand error is a quotient of two zeros or two infinities, a product of a zero and an infinity, a sum of opposite or a
difference of like infinities, and the root of a negative normalized number or of minus infinity: with OPERR disabled it gives the
default NAN, with OPERR enabled it leaves the destination and the condition codes and is reported (42_floating_point R734, R736,
R737, R739, R741, R743).
A NAN operand gives the destination's NAN if it is one, else the source's, made nonsignaling, its sign kept, also by FABS and FNEG;
the condition codes are NAN and the NAN's sign. A signaling one sets SNAN, and with SNAN enabled the destination and the condition
codes keep their values and the exception is reported; for FMOVE, FABS, FNEG, FSQRT, FADD, FSUB, FMUL and FDIV
(42_floating_point R703, R708, 61_fp_exceptions R1216). -/
def Obligations.FloatExceptionsOfOperations : Prop :=
  (∀ (p : Prec) (rnd : Rnd) (enable : BitVec 8) (s : Bool) (v : Exact) (a b : Fpr), 0 < v.n →
    let o := finish p rnd enable (.finite s v)
    let r := roundTo p.bits rnd s v
    (v.value < (2 : ℚ) ^ p.minExp → o.exc = 0x08 ∧ o.result = none ∧ o.cc = none ∧ reported o.exc enable 0x18 = some 51) ∧
    ((2 : ℚ) ^ p.minExp ≤ v.value → (2 : ℚ) ^ p.maxExp ≤ r.value →
      o.exc = (if r.inexact then 0x12 else 0x10) ∧ o.result = none ∧ o.cc = none ∧
      reported o.exc enable 0x18 = some 53) ∧
    ((2 : ℚ) ^ p.minExp ≤ v.value → r.value < (2 : ℚ) ^ p.maxExp →
      ∃ x, o = ⟨if r.inexact then 0x02 else 0, some x, some (BitVec.ofBool s ++ 0#3), .none⟩ ∧ x.cls = .norm ∧
        x.value = (if s then -1 else 1) * r.value) ∧
    (a.cls = .norm → b.cls = .zero → enable.getLsbD 2 = false →
      calculate .div p rnd enable (some a) b =
        ⟨0x04, some ⟨a.s != b.s, 0x7FFF, 0⟩, some (BitVec.ofBool (a.s != b.s) ++ 0b010#3), .none⟩) ∧
    (a.cls = .norm → b.cls = .zero → enable.getLsbD 2 = true →
      calculate .div p rnd enable (some a) b = ⟨0x04, none, none, .none⟩ ∧ reported 0x04 enable 0x18 = some 50) ∧
    (∀ x ∈ ([(⟨s, 0x7FFF, 0⟩, 0b010), (⟨s, 0, 0⟩, 0b100)] : List (Fpr × BitVec 3)),
      finish p rnd enable (.value x.1) = ⟨0, some x.1, some (BitVec.ofBool s ++ x.2), .none⟩)) ∧
  (∀ (p : Prec) (rnd : Rnd) (enable : BitVec 8) (a b : Fpr),
    ∀ q ∈ ([(.div, a.cls = .zero ∧ b.cls = .zero ∨ a.cls = .inf ∧ b.cls = .inf),
        (.mul, a.cls = .zero ∧ b.cls = .inf ∨ a.cls = .inf ∧ b.cls = .zero),
        (.add, a.cls = .inf ∧ b.cls = .inf ∧ a.s ≠ b.s), (.sub, a.cls = .inf ∧ b.cls = .inf ∧ a.s = b.s),
        (.sqrt, (b.cls = .norm ∨ b.cls = .inf) ∧ b.s = true)] : List (FpOp × Prop)), q.2 →
    let o := calculate q.1 p rnd enable (if q.1.dyadic then some a else none) b
    (enable.getLsbD 5 = false → o = ⟨0x20, some ⟨false, 0x7FFF, 0xFFFFFFFFFFFFFFFF⟩, some 1, .none⟩) ∧
    (enable.getLsbD 5 = true → o = ⟨0x20, none, none, .none⟩ ∧ reported o.exc enable 0x18 = some 52)) ∧
  (∀ (p : Prec) (rnd : Rnd) (enable : BitVec 8) (a b : Fpr),
    ∀ op ∈ ([.add, .sub, .mul, .div, .move, .abs, .neg, .sqrt] : List FpOp),
    (op.dyadic = true ∧ a.isNan = true) ∨ b.isNan = true →
    let signaling : Bool := (op.dyadic = true ∧ a.cls = .snan) ∨ b.cls = .snan
    let n := if op.dyadic && a.isNan then a else b
    let o := calculate op p rnd enable (if op.dyadic then some a else none) b
    o.exc = (if signaling then 0x40 else 0) ∧
    (signaling = true ∧ enable.getLsbD 6 = true →
      o.result = none ∧ o.cc = none ∧ reported o.exc enable 0x18 = some 54) ∧
    (signaling = false ∨ enable.getLsbD 6 = false →
      o.cc = some (BitVec.ofBool n.s ++ 1#3) ∧
      ∃ x, o.result = some x ∧ x.cls = .qnan ∧ x.s = n.s ∧ x.m &&& 0xBFFFFFFFFFFFFFFF = n.m &&& 0xBFFFFFFFFFFFFFFF))

/-- A pending floating-point exception is taken by the next floating-point instruction, any but FSAVE and FRESTORE, before
it does anything: its vector, the pc of that instruction, a format $0 frame; the exception stays pending until FSAVE or
FRESTORE (61_fp_exceptions R1201, R1202, 42_floating_point R701). That the frame has format $0 also where the instruction is
FMOVE FPm,<ea> is the model's choice (log 47). -/
def Obligations.PendingFloatExceptionIsTaken : Prop :=
  ∀ (s : State) (src : FpSrc) (m n : BitVec 3) (ea : Ea) (pred : BitVec 5) (off : BitVec 7) (d : BitVec 16)
    (e : BitVec 32) (mode : BitVec 2) (l : BitVec 8) (v : BitVec 8), Flat s → s.fpu.pending = some v →
    ∀ i ∈ ([.fmoveEaFpmFpn src n, .fsmove src n, .fdmove src n, .fsqrt src n, .fssqrt src n, .fdsqrt src n, .fabs src n,
        .fsabs src n, .fdabs src n, .fneg src n, .fsneg src n, .fdneg src n, .fdiv src n, .fsdiv src n, .fddiv src n,
        .fadd src n, .fsadd src n, .fdadd src n, .fmul src n, .fsmul src n, .fdmul src n, .fsub src n, .fssub src n,
        .fdsub src n, .fcmp src n, .ftst src n, .fintUnimplemented src n, .fsinhUnimplemented src n,
        .fintrzUnimplemented src n, .flognp1Unimplemented src n, .fetoxm1Unimplemented src n,
        .ftanhUnimplemented src n, .fatanUnimplemented src n, .fasinUnimplemented src n, .fatanhUnimplemented src n,
        .fsinUnimplemented src n, .ftanUnimplemented src n, .fetoxUnimplemented src n, .ftwotoxUnimplemented src n,
        .ftentoxUnimplemented src n, .flognUnimplemented src n, .flog10Unimplemented src n,
        .flog2Unimplemented src n, .fcoshUnimplemented src n, .facosUnimplemented src n, .fcosUnimplemented src n,
        .fgetexpUnimplemented src n, .fgetmanUnimplemented src n, .fmodUnimplemented src n,
        .fsgldivUnimplemented src n, .fremUnimplemented src n, .fscaleUnimplemented src n,
        .fsglmulUnimplemented src n, .fsincosUnimplemented src n m, .fmovecrUnimplemented n off, .fmoveLFpmEa m ea,
        .fmoveSFpmEa m ea, .fmoveXFpmEa m ea, .fmoveWFpmEa m ea, .fmoveDFpmEa m ea, .fmoveBFpmEa m ea,
        .fmovePKFpmEa m off ea, .fmovePDnFpmEa m n ea, .fmoveLEaFpcr ea, .fmoveLEaFpsr ea, .fmoveLEaFpiar ea,
        .fmoveLFpcrEa ea, .fmoveLFpsrEa ea, .fmoveLFpiarEa ea, .fmovemLEaCtrlList n ea, .fmovemLCtrlListEa n ea,
        .fmovemXEaList mode l ea, .fmovemXListEa mode l ea, .fscc pred ea, .fdbcc pred n d, .ftrapccW pred d,
        .ftrapccL pred e, .ftrapcc pred, .fnop, .fbccW pred d, .fbccL pred e] : List Instr),
    ∃ t, exec i s = .next t ∧ Takes s v 0 s.pc [] t ∧ t.fpu = s.fpu

/-- The instructions left to software fetch their operand and take vector 11 with the next instruction's address in a
format $2 frame that shows the operand's address if it is in memory; FP registers, FPSR, FPCR and FPIAR keep their values
and the FPU holds the unimplemented-instruction condition (42_floating_point R775, 61_fp_exceptions R1202). -/
def Obligations.UnimplementedFloatInstructionsTrap : Prop :=
  ∀ (s : State) (src : FpSrc) (dn dc : BitVec 3) (off : BitVec 7), Ready s → s.fpu.pending = none →
    let traps (i : Instr) (a : AddrRegs) (n : Nat) (e : Option Long) : Prop :=
      ∃ t u b, exec i s = .next t ∧ Takes u 11 2 (s.after n) (toBytes b 4) t ∧ (∀ x, e = some x → b = x) ∧
        u = { s with a := a, fpu := { s.fpu with kind := .unimp, frame := u.fpu.frame }
                     mem := { s.mem with draws := u.mem.draws } }
    traps (.fmovecrUnimplemented dn off) s.a 2 none ∧
    ∃ x e a, FpReads s src x e a ∧
      ∀ i ∈ ([.fintUnimplemented src dn, .fsinhUnimplemented src dn, .fintrzUnimplemented src dn,
        .flognp1Unimplemented src dn, .fetoxm1Unimplemented src dn, .ftanhUnimplemented src dn,
        .fatanUnimplemented src dn, .fasinUnimplemented src dn, .fatanhUnimplemented src dn, .fsinUnimplemented src dn,
        .ftanUnimplemented src dn, .fetoxUnimplemented src dn, .ftwotoxUnimplemented src dn, .ftentoxUnimplemented src dn,
        .flognUnimplemented src dn, .flog10Unimplemented src dn, .flog2Unimplemented src dn, .fcoshUnimplemented src dn,
        .facosUnimplemented src dn, .fcosUnimplemented src dn, .fgetexpUnimplemented src dn, .fgetmanUnimplemented src dn,
        .fmodUnimplemented src dn, .fsgldivUnimplemented src dn, .fremUnimplemented src dn, .fscaleUnimplemented src dn,
        .fsglmulUnimplemented src dn, .fsincosUnimplemented src dn dc] : List Instr),
      traps i a (fpLength src) e

/-- FMOVE from FPm to memory or Dn with no exception pending: a source the format can hold is stored, rounded, big-endian
and no other byte changes; FPSR's exception bytes are updated and its condition codes kept. A reported exception is
taken after the store, with the next instruction's address and the destination's in a format $3 frame. Packed decimal,
and a source type the hardware does not accept, take vector 55 and store nothing; (An)+ and -(An) step An all the same, the
model's choice (log 55) (42_floating_point R723 to R725, 61_fp_exceptions R1203; FPIAR as in log 15). That a store makes an FPU in
the unimplemented condition idle is the model's choice (log 33), and a null one too (log 42).
The bits stored in S and D: sign, biased exponent and fraction of the value rounded to 24 or 53 bits, inexact if it is another;
below 2^-126 or 2^-1022 in magnitude an underflow, rounded to 2^128 or 2^1024 or more an overflow, and then any bits; a zero, an
infinity, a NAN truncated to the fraction. In X the register's own. A signaling NAN is stored nonsignaling and sets SNAN
(42_floating_point R704 to R706, R723). -/
def Obligations.FloatStores : Prop :=
  (∀ (s : State) (m dn : BitVec 3) (k : BitVec 7) (ea : Ea), Ready s → s.fpu.pending = none →
    let x := s.getFp m
    let n := 2 + Ea.words 1 ea
    let kind : FpuKind := if s.fpu.kind = .null ∨ s.fpu.kind = .unimp then .idle else s.fpu.kind
    let stops (i : Instr) (l : Loc) (a : AddrRegs) : Prop :=
      let f := { s.fpu with fpiar := s.pc, kind := .busy }
      ∃ u t y, exec i s = .next t ∧ (∀ z, l = .mem z → y = z) ∧ Takes u 55 3 (s.after n) (toBytes y 4) t ∧
        u = { s with a := a, fpu := { f with frame := u.fpu.frame }, mem := { s.mem with draws := u.mem.draws } }
    (∀ p ∈ ([(.fmoveBFpmEa m ea, .b), (.fmoveWFpmEa m ea, .w), (.fmoveLFpmEa m ea, .l), (.fmoveSFpmEa m ea, .s),
        (.fmoveDFpmEa m ea, .d), (.fmoveXFpmEa m ea, .x)] : List (Instr × FpFmt)),
      ea.wf p.2.dstModes 1 = true →
      ∃ l a, Evaluates s ea (fmtBytes p.2) 2 l a ∧
        (x.cls ≠ .denorm → x.cls ≠ .unnorm →
          StoresFloat p.1 s { s with a := a, fpu := { s.fpu with fpiar := s.pc, kind := kind } } p.2 x l n) ∧
        (x.cls = .denorm ∨ x.cls = .unnorm → stops p.1 l a)) ∧
    (∀ i ∈ ([.fmovePKFpmEa m k ea, .fmovePDnFpmEa m dn ea] : List Instr), ea.wf .memAlt 1 = true →
      ∃ y a, Evaluates s ea 12 2 (.mem y) a ∧ stops i (.mem y) a)) ∧
  (∀ (rnd : Rnd) (x : Fpr),
    (let o := storeOf .x rnd x
     let m := if x.cls = .snan then x.m ||| 0x4000000000000000 else x.m
     o.bits = some (BitVec.ofBool x.s ++ x.e ++ 0#16 ++ m) ∧ o.exc = if x.cls = .snan then 0x40 else 0) ∧
    ∀ p ∈ ([(.s, .single, 8, 23), (.d, .double, 11, 52)] : List (FpFmt × Prec × Nat × Nat)),
    let ew := p.2.2.1
    let fw := p.2.2.2
    let o := storeOf p.1 rnd x
    let fields (e m : Nat) : BitVec 96 := BitVec.ofNat 96 ((x.s.toNat * 2 ^ ew + e) * 2 ^ fw + m)
    let fraction := x.m.toNat / 2 ^ (63 - fw) % 2 ^ fw
    let least : ℚ := 2 ^ (2 - (2 : Int) ^ (ew - 1))
    let bound : ℚ := 2 ^ ((2 : Int) ^ (ew - 1))
    (x.cls = .zero → o.bits = some (fields 0 0) ∧ o.exc = 0) ∧
    (x.cls = .inf → o.bits = some (fields (2 ^ ew - 1) 0) ∧ o.exc = 0) ∧
    (x.cls = .qnan → o.bits = some (fields (2 ^ ew - 1) fraction) ∧ o.exc = 0) ∧
    (x.cls = .snan → o.bits = some (fields (2 ^ ew - 1) (2 ^ (fw - 1) + fraction)) ∧ o.exc = 0x40) ∧
    (x.cls = .norm → |x.value| < least → o.bits = none ∧ o.exc = 0x08) ∧
    (x.cls = .norm → least ≤ |x.value| → ∃ r, RoundsTo (fw + 1) rnd x.s ((|x.value| : ℚ) : ℝ) r ∧
      let inexact : BitVec 8 := if r.value = |x.value| then 0 else 0x02
      (bound ≤ r.value → o.bits = none ∧ o.exc = 0x10 ||| inexact) ∧
      (r.value < bound → ∃ e m : Nat, 0 < e ∧ e < 2 ^ ew - 1 ∧ m < 2 ^ fw ∧
        r.value = ((2 ^ fw + m : Nat) : ℚ) * (2 : ℚ) ^ ((e : Int) - (2 ^ (ew - 1) - 1) - fw) ∧
        o.bits = some (fields e m) ∧ o.exc = inexact)))

/-- The integer a floating-point store gives: within half of the source for RN, even if just half away, truncated for RZ, on
the side the mode names for RM and RP. In range, the most negative integer excepted (the hardware's erratum), it is stored,
inexact if it is not the source; out of range it is an operand error and the stored value is free. A zero gives 0; an infinity
and a nonsignaling NAN are operand errors, a signaling one sets SNAN, and the stored value is free
(42_floating_point R704, R724). -/
def Obligations.FloatToInteger : Prop :=
  ∀ (f : FpFmt) (n : Nat) (rnd : Rnd) (x : Fpr), (f, n) ∈ [(FpFmt.b, 8), (.w, 16), (.l, 32)] →
    let o := storeOf f rnd x
    (x.cls = .zero → o.bits = some 0 ∧ o.exc = 0) ∧
    (x.cls = .inf ∨ x.cls = .qnan → o.bits = none ∧ o.exc = 0x20) ∧
    (x.cls = .snan → o.bits = none ∧ o.exc = 0x40) ∧
    (x.cls = .norm → ∃ i : Int, |(i : ℚ) - x.value| < 1 ∧
      (rnd = .rn → |(i : ℚ) - x.value| ≤ 1 / 2 ∧ (|(i : ℚ) - x.value| = 1 / 2 → i % 2 = 0)) ∧
      (rnd = .rz → |(i : ℚ)| ≤ |x.value|) ∧ (rnd = .rm → (i : ℚ) ≤ x.value) ∧ (rnd = .rp → x.value ≤ i) ∧
      (let inexact : BitVec 8 := if (i : ℚ) = x.value then 0 else 0x02
       if -(2 : Int) ^ (n - 1) < i ∧ i < (2 : Int) ^ (n - 1) then o.bits = some (BitVec.ofInt 96 i) ∧ o.exc = inexact
       else o.bits = none ∧ o.exc = 0x20 ||| inexact)) ∧
    (x.cls = .norm → (2 : ℚ) ^ (n - 1) ≤ |x.value| → o.bits = none ∧ o.exc.getLsbD 5 = true)

/-- Moves of the floating-point control registers: a load keeps the implemented bits of FPCR and all of FPSR and FPIAR, a
store writes the register; several registers are moved in the order FPCR, FPSR, FPIAR to rising addresses
(42_floating_point R726, R728, 10_state R74, R76, R77, R82). That the FPU leaves the null state for the idle one at these
moves is the model's choice (10_state R83, log 42). -/
def Obligations.FloatControlRegisterMoves : Prop :=
  ∀ (s : State) (ea : Ea) (regs : BitVec 3), Ready s → s.fpu.pending = none →
    let kind : FpuKind := if s.fpu.kind = .null then .idle else s.fpu.kind
    let f := { s.fpu with kind := kind }
    LeavesFrom (.fmoveLEaFpcr ea) s .l ea 2 (fun v a => { s with a := a, fpu := { f with fpcr := v &&& 0xFFF0 } }) ∧
    LeavesFrom (.fmoveLEaFpsr ea) s .l ea 2 (fun v a => { s with a := a, fpu := { f with fpsr := v } }) ∧
    LeavesFrom (.fmoveLEaFpiar ea) s .l ea 2 (fun v a => { s with a := a, fpu := { f with fpiar := v } }) ∧
    (∀ p ∈ ([(.fmoveLFpcrEa ea, s.fpu.fpcr), (.fmoveLFpsrEa ea, s.fpu.fpsr), (.fmoveLFpiarEa ea, s.fpu.fpiar)] :
        List (Instr × Long)),
      ∃ l a t, Evaluates s ea 4 2 l a ∧ exec p.1 s = .next t ∧
        CompletesAs { s.put a s.sr .l l p.2 with fpu := f } (s.after (2 + Ea.words 2 ea)) t ∧ StoresTo s t l 4 p.2) ∧
    (let k := ctrlCount regs
     let place (i : Nat) : Long := BitVec.ofNat 32 (4 * ctrlCount (regs >>> i))
     let loaded (v : Nat → Long) : Fpu := { f with
       fpcr := if regs.getLsbD 2 then v 3 &&& 0xFFF0 else s.fpu.fpcr
       fpsr := if regs.getLsbD 1 then v 2 else s.fpu.fpsr
       fpiar := if regs.getLsbD 0 then v 1 else s.fpu.fpiar }
     (∀ b : BitVec 96, Leaves (.fmovemLEaCtrlList regs (.imm b)) s (2 + 2 * k)
       { s with fpu := loaded fun i => (b >>> (32 * (k - 1 - ctrlCount (regs >>> i)))).extractLsb' 0 32 }) ∧
     (ea.wf 0x7FC 1 = true → ∃ x a, Evaluates s ea (4 * k) 2 (.mem x) a ∧
       Leaves (.fmovemLEaCtrlList regs ea) s (2 + Ea.words (2 * k) ea)
         { s with a := a, fpu := loaded fun i => s.valueAt (x + place i) 4 }) ∧
     (ea.wf .memAlt 1 = true → ∃ x a, Evaluates s ea (4 * k) 2 (.mem x) a ∧
       ∃ t, exec (.fmovemLCtrlListEa regs ea) s = .next t ∧
         CompletesAs { s with a := a, fpu := f, mem := { s.mem with ram := t.mem.ram } } (s.after (2 + Ea.words 1 ea)) t ∧
         SameBytesBut s t x (4 * k) ∧
         (Memory.wf s.mem →
           (regs.getLsbD 2 = true → t.valueAt (x + place 3) 4 = s.fpu.fpcr) ∧
           (regs.getLsbD 1 = true → t.valueAt (x + place 2) 4 = s.fpu.fpsr) ∧
           (regs.getLsbD 0 = true → t.valueAt (x + place 1) 4 = s.fpu.fpiar))))

/-- FMOVEM of data registers: each listed register, lowest number at the lowest address, is twelve bytes, sign and
exponent, sixteen zero bits, mantissa; the list of the predecrement form is reversed and may come from Dn; a load brings
the same registers back; no flag changes (42_floating_point R695, R727). That the FPU leaves the null state for the idle one
is the model's choice (10_state R83, log 42). -/
def Obligations.FmovemMovesDataRegisters : Prop :=
  ∀ (s : State) (mode : BitVec 2) (list : BitVec 8) (ea : Ea) (r : BitVec 3), Ready s → s.fpu.pending = none →
    let mask := if mode.getLsbD 0 then (s.getD (list.extractLsb' 4 3)).extractLsb' 0 8 else list
    let names (p : Nat → Bool) : List (BitVec 3) := ((List.range 8).filter p).map (BitVec.ofNat 3)
    let f := { s.fpu with kind := if s.fpu.kind = .null then .idle else s.fpu.kind }
    let image (ns : List (BitVec 3)) : List Byte := ns.flatMap fun n =>
      let x := s.getFp n
      bytesOf96 (BitVec.ofBool x.s ++ x.e ++ 0#16 ++ x.m) 12
    let stores (i : Instr) (ns : List (BitVec 3)) (x : Long) (a : AddrRegs) (len : Nat) : Prop :=
      ∃ t, exec i s = .next t ∧
        CompletesAs { s with a := a, fpu := f, mem := { s.mem with ram := t.mem.ram } } (s.after len) t ∧
        SameBytesBut s t x (12 * ns.length) ∧ (Memory.wf s.mem → t.bytesAt x (12 * ns.length) = image ns)
    let up := names fun n => mask.getLsbD (7 - n)
    let down := names fun n => mask.getLsbD n
    let below := s.getA r - BitVec.ofNat 32 (12 * down.length)
    let loaded (x : Long) (fp : Bank Fpr) : Prop :=
      (∀ j n, up[j]? = some n →
        let y := x + BitVec.ofNat 32 (12 * j)
        fp.get n = ⟨(s.valueAt y 4).getLsbD 31, (s.valueAt y 4).extractLsb' 16 15, s.valueAt (y + 4) 4 ++ s.valueAt (y + 8) 4⟩) ∧
      (∀ n, n ∉ up → fp.get n = s.getFp n)
    (ea.wf .controlAlt 1 = true → ∃ x, Evaluates s ea (12 * up.length) 2 (.mem x) s.a ∧
      stores (.fmovemXListEa mode list ea) up x s.a (2 + Ea.words 1 ea)) ∧
    stores (.fmovemXListEa mode list (.pre r)) down below (s.a.set s.sr r below) 2 ∧
    (ea.wf .movemLoad 1 = true → ∃ x a fp, Evaluates s ea (12 * up.length) 2 (.mem x) a ∧ loaded x fp ∧
      Leaves (.fmovemXEaList mode list ea) s (2 + Ea.words 1 ea) { s with a := a, fpu := { f with fp := fp } })

/-- The floating-point conditionals with no exception pending and no signaling predicate on a NAN condition: FBcc and
FDBcc branch to an even target, FScc writes all ones or zeros, FTRAPcc takes vector 7 or goes on, FNOP goes on
(42_floating_point R760 to R765).
A predicate with bit 4 set on a NAN condition sets EXC.BSUN and no other bit of FPSR; with BSUN enabled the
instruction takes vector 48 with its own address in a format $0 frame and FPIAR kept, with it disabled the condition
decides as usual. Shown for FTRAPcc and FBcc (42_floating_point R760, 61_fp_exceptions R1215). That the FPU leaves the null
state for the idle one at all of these is the model's choice (10_state R83, log 42). -/
def Obligations.FloatConditionals : Prop :=
  (∀ (s : State) (pred : BitVec 5) (ea : Ea) (dn : BitVec 3) (d w : BitVec 16) (e l : BitVec 32), Ready s →
    s.fpu.pending = none → (pred.getLsbD 4 = false ∨ s.fpu.fpsr.getLsbD 24 = false) →
    let s' := { s with fpu := { s.fpu with kind := if s.fpu.kind = .null then .idle else s.fpu.kind } }
    let c := fpTruth pred s.fpu.fpsr
    let count := (s.getD dn).extractLsb' 0 16 - 1
    let u := { s' with d := s.d.set dn ((s.getD dn).extractLsb' 16 16 ++ count) }
    (∀ p ∈ ([(.fbccW pred d, d.signExtend 32, 2), (.fbccL pred e, e, 3)] : List (Instr × Long × Nat)),
      (s.pc + 2 + p.2.1).getLsbD 0 = false →
        GoesTo p.1 s (if c then s.pc + 2 + p.2.1 else s.after p.2.2) s') ∧
    (c = true → Leaves (.fdbcc pred dn d) s 3 s') ∧
    (c = false → count = 0xFFFF → Leaves (.fdbcc pred dn d) s 3 u) ∧
    (c = false → count ≠ 0xFFFF → (s.pc + 4 + d.signExtend 32).getLsbD 0 = false →
      GoesTo (.fdbcc pred dn d) s (s.pc + 4 + d.signExtend 32) u) ∧
    (∃ x a t, Evaluates s ea 1 2 x a ∧ exec (.fscc pred ea) s = .next t ∧
      CompletesAs { s.put a s.sr .b x (if c then 0xFF else 0) with fpu := s'.fpu } (s.after (2 + Ea.words 1 ea)) t ∧
      StoresTo s t x 1 (if c then 0xFF else 0)) ∧
    (∀ p ∈ ([(.ftrapcc pred, 2), (.ftrapccW pred w, 3), (.ftrapccL pred l, 4)] : List (Instr × Nat)),
      (c = false → Leaves p.1 s p.2 s') ∧
      (c = true → ∃ t, exec p.1 s = .next t ∧ Takes s' 7 2 (s.after p.2) (toBytes s.pc 4) t)) ∧
    Leaves .fnop s 2 s') ∧
  (∀ (s : State) (pred : BitVec 5) (d : BitVec 16), Ready s → s.fpu.pending = none → pred.getLsbD 4 = true →
    s.fpu.fpsr.getLsbD 24 = true →
    (s.fpu.fpcr.getLsbD 15 = true → ∀ i ∈ ([.ftrapcc pred, .fbccW pred d] : List Instr),
      ∃ t u, exec i s = .next t ∧ Takes u 48 0 s.pc [] t ∧ u.fpu.fpsr = s.fpu.fpsr ||| 0x8000 ∧
        u.fpu.fpiar = s.fpu.fpiar ∧ u.fpu.fp = s.fpu.fp ∧ u.fpu.fpcr = s.fpu.fpcr ∧ u.fpu.pending = none ∧ u = { s with fpu := u.fpu, mem := { s.mem with draws := u.mem.draws } }) ∧
    (s.fpu.fpcr.getLsbD 15 = false →
      let c := fpTruth pred s.fpu.fpsr
      let s' := { s with fpu := { s.fpu with
        fpsr := s.fpu.fpsr ||| 0x8000
        kind := if s.fpu.kind = .null then .idle else s.fpu.kind } }
      (c = false → Leaves (.ftrapcc pred) s 2 s') ∧
      (c = true → ∃ t, exec (.ftrapcc pred) s = .next t ∧ Takes s' 7 2 (s.after 2) (toBytes s.pc 4) t) ∧
      ((s.pc + 2 + d.signExtend 32).getLsbD 0 = false →
        GoesTo (.fbccW pred d) s (if c then s.pc + 2 + d.signExtend 32 else s.after 2) s')))

/-- FSAVE in supervisor state writes the frame of the FPU's condition, a long word of zero for a null FPU, else version
and size and as many long words of the frame as the size says, at the evaluated address and nowhere else; nothing stays
pending (42_floating_point R770, 61_fp_exceptions R1260).
FRESTORE in supervisor state: a null frame resets the FPU, an idle frame leaves its registers and clears what is
pending; an unimplemented-instruction or busy frame loads the frame's fields, and if E1 or E3 is set its exception is
pending again, else the FPU is idle; a busy frame with both clear and the CU_SAVEPC of a continuation completes the
instruction of its command word, an arithmetic one with the operands in ETEMP and FPTEMP, or a store, but not a packed one,
which the hardware never makes (20_memory R156); (An)+ moves past the frame; a frame of another version or size is a format
error, vector 14 (42_floating_point R771, 61_fp_exceptions R1204, R1260). The model's choices: the form of the first long word
(log 43), the layout (log 16), the vector and the destination that a frame holds, and that the frame of a store which the
hardware does not make leaves the FPU idle (log 34, 35), that the accrued byte of a completed instruction is updated also where
an enabled exception leaves the register unwritten (log 53), and that the post-instruction vector waiting behind a CP bit of a
format $7 frame stays as it is through FSAVE and through FRESTORE of a frame that is not null, and is dropped by a null one
(log 60). The completion of a continuing busy frame whose command word is that of FMOVECR is not covered. -/
def Obligations.FloatStateFrames : Prop :=
  (∀ (s : State) (ea : Ea), Ready s → s.super = true → ea.wf .movemStore 1 = true →
    let k := match s.fpu.kind with | .null | .idle => 0 | .unimp => 10 | .busy => 24
    ∃ x a t free, Evaluates s ea (4 + 4 * k) 1 (.mem x) a ∧ exec (.fsave ea) s = .next t ∧
      CompletesAs { s with
        a := a
        fpu := { s.fpu with pending := none, kind := if s.fpu.kind = .null then .null else .idle }
        mem := { s.mem with ram := t.mem.ram } } (s.after (1 + Ea.words 1 ea)) t ∧
      SameBytesBut s t x (4 + 4 * k) ∧
      (Memory.wf s.mem →
        (s.fpu.kind = .null → t.valueAt x 4 = 0) ∧
        (s.fpu.kind ≠ .null → (t.valueAt x 4).extractLsb' 16 16 = Config.fpuVersion ++ BitVec.ofNat 8 (4 * k)) ∧
        ∀ j < k, t.valueAt (x + 4 + BitVec.ofNat 32 (4 * j)) 4 =
          (frameImage s.fpu.kind s.fpu.frame free).extractLsb' (32 * (k - 1 - j)) 32)) ∧
  (∀ (s : State) (ea : Ea), Ready s → s.super = true → ea.wf .movemLoad 1 = true →
    let n := 1 + Ea.words 1 ea
    let after (n : Nat) : AddrRegs :=
      match ea with
      | .post r => s.a.set s.sr r (s.getA r + BitVec.ofNat 32 n)
      | _ => s.a
    let reaches (k : Nat) (f : Fpu) : Prop := Leaves (.frestore ea) s n { s with a := after k, fpu := f }
    ∃ x, Evaluates s ea 0 1 (.mem x) s.a ∧
      (let version := (s.valueAt x 4).extractLsb' 24 8
       let size := (s.valueAt x 4).extractLsb' 16 8
       let image (k : Nat) : BitVec 768 := (List.range k).foldl
         (fun v j => (v <<< 32) ||| (s.valueAt (x + 4 + BitVec.ofNat 32 (4 * j)) 4).zeroExtend 768) 0
       let restored (f : FpuFrame) : Fpu :=
         if f.e1 || f.e3 then { s.fpu with pending := some f.vectorOf, kind := .busy, frame := f }
         else { s.fpu with pending := none, kind := .idle, frame := f }
       (version = 0 → reaches 4 Fpu.reset) ∧
       (version = Config.fpuVersion → version ≠ 0 → size = 0x00 →
         reaches 4 { s.fpu with pending := none, kind := .idle }) ∧
       (version = Config.fpuVersion → version ≠ 0 → size = 0x28 →
         reaches 44 (restored (loadFrame 320 unimpOffset (image 10) s.fpu.frame))) ∧
       (version = Config.fpuVersion → version ≠ 0 → size = 0x60 →
         let f := loadFrame 768 busyOffset (image 24) s.fpu.frame
         let opclass := f.cmd1.extractLsb' 13 3
         let completes := f.e1 = false ∧ f.e3 = false ∧ f.cuSavePc = Config.cuSavePcContinue
         let fmt := FpFmt.ofCode (f.cmd1.extractLsb' 10 3)
         let b : State := { s with a := after 100, fpu := { restored f with fpiar := f.fpiarcu } }
         (¬ completes → reaches 100 (restored f)) ∧
         (completes → opclass = 3 → fmt ≠ .p → StoresFloat (.frestore ea) s b fmt (canonical f.etemp) f.loc n) ∧
         (completes → opclass = 3 → fmt = .p → reaches 100 (restored f)) ∧
         (completes → opclass ≠ 3 → (opclass ≠ 0 ∧ opclass ≠ 2) ∨ fpOpOf (f.cmd1.extractLsb' 0 7) = none →
           reaches 100 (restored f)) ∧
         (∀ op forced, completes → opclass = 0 ∨ opclass = 2 → f.cmd1.extractLsb' 10 6 ≠ 0b010111#6 →
           fpOpOf (f.cmd1.extractLsb' 0 7) = some (op, forced) →
           ∃ t q, exec (.frestore ea) s = .next t ∧ CompletesAs { b with fpu := t.fpu } (s.after n) t ∧ SameBytes s t ∧
             PrecisionIs s forced q ∧ t.fpu.fpiar = f.fpiarcu ∧ t.fpu.fpcr = s.fpu.fpcr ∧
             (let enable := s.fpu.fpcr.extractLsb' 8 8
              let o := calculate op q (rndOf s.fpu.fpcr) enable (if op.dyadic then some (canonical f.fptemp) else none)
                (canonical f.etemp)
              t.fpu.fpsr = updateFpsr s.fpu.fpsr o.exc o.cc ∧
              t.fpu.fp = (match o.result with | some r => s.fpu.fp.set (f.cmd1.extractLsb' 7 3) r | none => s.fpu.fp) ∧
              t.fpu.pending = reported o.exc enable 0x18))) ∧
       (version ≠ 0 → version ≠ Config.fpuVersion ∨ size ∉ [0x00#8, 0x28#8, 0x60#8] →
         ∃ t, exec (.frestore ea) s = .next t ∧ Takes s 14 0 s.pc [] t)))

/-! ### Caches -/

/-- Accesses through the data cache, its page cachable, nothing else on the bus (22_caches_bus R331 to R335, R337, R340).
Reads: a hit gives the bytes of the line; a miss gives those of memory and puts the whole line, clean, in the first free way.
Writes: writethrough writes memory, and the line if it hits; copyback changes the line and marks its long words dirty, not
memory, the line being read first on a miss. A noncachable or locked access that hits pushes a dirty line and invalidates it.
Snoops (22_caches_bus R337, R345, R348): a read marked invalidate drops the lines it hits in both caches; a write marked so,
or of a line, drops them and reaches memory; a write marked to be sunk goes into a dirty line instead; an inhibited one
leaves the caches as they are.
The fetch of an instruction word: a hit in the instruction cache gives the word of the line; a miss gives that of memory and
puts the whole line in the first free way; a noncachable one reads memory and invalidates the line it hits
(22_caches_bus R333, R336, R339, R340). That a noncachable fetch leaves the replacement counter as it is, is the model's choice
(log 27). A miss in a set with no free way and an access over two lines are not covered. -/
def Obligations.CacheAccessesAndSnoops : Prop :=
  (∀ (c : Control) (m : MemSys) (tm : BitVec 3) (locked : Bool) (pa : Long) (cm : BitVec 2) (bs : List Byte),
    c.dcacheOn m = true → m.quiet = true → m.inhibit = [] → m.pushFaults = [] → bs ≠ [] →
    lineOffset pa + bs.length ≤ 16 →
    let n := bs.length
    let off := lineOffset pa
    let a : Access := ⟨0, tm, locked, true, none⟩
    let read := pieceRead c m a pa cm n
    let write := pieceWrite c m a pa cm bs
    let holds (l : List (Nat × CacheLine)) (k : Nat) (data : List Byte) (dirty : Nat → Bool) : Prop :=
      ∃ x, findLine l pa = some (k, x) ∧ x.bytes 0 16 = data ∧ (∀ i < 4, x.dirty.getLsbD i = dirty i) ∧
        (∀ q ∈ m.dcache, q.1 ≠ k → q ∈ l)
    let merged (data : List Byte) : List Byte := data.take off ++ bs ++ data.drop (off + n)
    let touched (i : Nat) : Bool := decide (4 * i < off + n) && decide (off < 4 * i + 4)
    let memory := getBytes m.ram 0 (lineBase pa) 16
    let written := putBytes m.ram 0 pa bs
    let cached := locked = false ∧ cm.getLsbD 1 = false
    (∀ k x, findLine m.dcache pa = some (k, x) →
      (cached → ∃ m', read = .ok (x.bytes off n) m' ∧ m' = { m with dcacheCtr := m'.dcacheCtr }) ∧
      (cached → cm = 0 → ∃ m', write = .ok () m' ∧ m'.ram = written ∧
        holds m'.dcache k (merged (x.bytes 0 16)) fun i => x.dirty.getLsbD i) ∧
      (cached → cm = 1 → ∃ m', write = .ok () m' ∧ m'.ram = m.ram ∧
        holds m'.dcache k (merged (x.bytes 0 16)) fun i => x.dirty.getLsbD i || touched i) ∧
      (¬ cached →
        let p := pushOf k x locked
        let pushed := if x.dirty = 0 then m.ram else putBytes m.ram 0 p.addr p.bytes
        (∃ m', read = .ok (getBytes pushed 0 pa n) m' ∧ m'.ram = pushed ∧ m'.dcache = tabDel m.dcache k) ∧
        ∃ m', write = .ok () m' ∧ m'.ram = putBytes pushed 0 pa bs ∧ m'.dcache = tabDel m.dcache k)) ∧
    (findLine m.dcache pa = none →
      (∀ w, freeWay m.dcache (cacheSet pa) = some w →
        (cached → ∃ m', read = .ok (getBytes m.ram 0 pa n) m' ∧ m'.ram = m.ram ∧
          holds m'.dcache (4 * cacheSet pa + w) memory fun _ => false) ∧
        (cached → cm = 1 → ∃ m', write = .ok () m' ∧ m'.ram = m.ram ∧
          holds m'.dcache (4 * cacheSet pa + w) (merged memory) touched)) ∧
      (¬ cached → ∃ m', read = .ok (getBytes m.ram 0 pa n) m' ∧ m'.ram = m.ram ∧ m'.dcache = m.dcache) ∧
      (¬ cached ∨ cm = 0 → ∃ m', write = .ok () m' ∧ m'.ram = written ∧ m'.dcache = m.dcache))) ∧
  (∀ (s : State) (es : List Event) (pa : Long) (size : BusSize) (sc : BitVec 2) (data : BitVec 128),
    s.mem.quiet = true →
    let drop (l : List (Nat × CacheLine)) : List (Nat × CacheLine) :=
      match findLine l pa with | some (k, _) => tabDel l k | none => l
    let bs := bytesOfLine data size.bytes
    (s.inputs = .snoopRead pa size sc :: es → ∃ t, step s = .next t ∧
      t = { s with inputs := es, mem := if sc = 2 then { s.mem with dcache := drop s.mem.dcache, icache := drop s.mem.icache }
        else s.mem }) ∧
    (s.inputs = .snoopWrite pa size sc data :: es → size.align pa = pa →
      ∃ t p, step s = .next t ∧ t = { s with inputs := es, mem := { s.mem with
          ram := t.mem.ram, dcache := t.mem.dcache, icache := t.mem.icache, stale := p } } ∧
        (t.mem.icache = if sc = 1 ∨ sc = 2 then drop s.mem.icache else s.mem.icache) ∧
        (sc ≠ 1 ∧ sc ≠ 2 → t.mem.ram = putBytes s.mem.ram 0 pa bs ∧ t.mem.dcache = s.mem.dcache) ∧
        (sc = 2 ∨ (sc = 1 ∧ ∀ k x, findLine s.mem.dcache pa = some (k, x) → x.dirty = 0 ∨ size = .line) →
          t.mem.ram = putBytes s.mem.ram 0 pa bs ∧ t.mem.dcache = drop s.mem.dcache) ∧
        (∀ k x, sc = 1 → findLine s.mem.dcache pa = some (k, x) → x.dirty ≠ 0 → size ≠ .line → t.mem.ram = s.mem.ram ∧
          ∃ y, findLine t.mem.dcache pa = some (k, y) ∧ y.bytes 0 16 =
            (x.bytes 0 16).take (lineOffset pa) ++ bs ++ (x.bytes 0 16).drop (lineOffset pa + bs.length)))) ∧
  (∀ (c : Control) (m : MemSys) (super : Bool) (pa : Long) (cm : BitVec 2),
    c.icacheOn m = true → m.quiet = true → m.inhibit = [] → pa.getLsbD 0 = false →
    let fetch := fetchPiece c m super pa cm 2
    let memory := getBytes m.ram 0 pa 2
    let drop (l : List (Nat × CacheLine)) : List (Nat × CacheLine) :=
      match findLine l pa with | some (k, _) => tabDel l k | none => l
    (cm.getLsbD 1 = false → ∀ k x, findLine m.icache pa = some (k, x) →
      ∃ m', fetch = .ok (x.bytes (lineOffset pa) 2) m' ∧ m' = { m with icacheCtr := m'.icacheCtr }) ∧
    (cm.getLsbD 1 = false → findLine m.icache pa = none → ∀ w, freeWay m.icache (cacheSet pa) = some w →
      ∃ m' x, fetch = .ok memory m' ∧ m' = { m with icache := m'.icache, icacheCtr := m'.icacheCtr, fillBuffer := m'.fillBuffer } ∧
        findLine m'.icache pa = some (4 * cacheSet pa + w, x) ∧ x.bytes 0 16 = getBytes m.ram 0 (lineBase pa) 16 ∧
        ∀ q ∈ m.icache, q.1 ≠ 4 * cacheSet pa + w → q ∈ m'.icache) ∧
    (cm.getLsbD 1 = true → ∃ m', fetch = .ok memory m' ∧ m' = { m with icache := drop m.icache }))
end

