-- ==== Sys2Proof/Laws/Memory.lean ====
section
/-! SUPPORT. The laws of memory cells: the canonical form is kept, a byte written is read back, and every other byte
stays. -/

namespace Sys2Proof.Machine

/-! ### The canonical form -/

theorem cellsAbove_mono {a b : Nat} (h : a ≤ b) : ∀ {l : List Host.Cell}, cellsAbove b l = true → cellsAbove a l = true
  | [], _ => rfl
  | (k, v) :: r, hl => by
    simp only [cellsAbove, Bool.and_eq_true, decide_eq_true_eq] at hl ⊢
    exact ⟨⟨by omega, hl.1.2⟩, hl.2⟩

theorem cellsWf_of_above {a : Nat} {l : List Host.Cell} (h : cellsAbove a l = true) : cellsWf l = true := by
  cases l with
  | nil => rfl
  | cons c r =>
    simp only [cellsAbove, cellsWf, Bool.and_eq_true] at h ⊢
    exact ⟨h.1.2, h.2⟩

theorem cellCons_above {a b : Nat} {v : Byte} {r : List Host.Cell} (hab : b < a) (h : cellsAbove a r = true) :
    cellsAbove b (cellCons a v r) = true := by
  unfold cellCons
  split
  · exact cellsAbove_mono (by omega) h
  · simp_all [cellsAbove]

theorem cellPut_above {a b : Nat} {v : Byte} (hab : b < a) :
    ∀ {l : List Host.Cell}, cellsAbove b l = true → cellsAbove b (cellPut l a v) = true
  | [], _ => cellCons_above hab rfl
  | (k, x) :: r, h => by
    simp only [cellsAbove, Bool.and_eq_true, decide_eq_true_eq] at h
    unfold cellPut
    split
    · exact cellCons_above hab (by simp_all [cellsAbove])
    · split
      · subst_vars
        exact cellCons_above hab h.2
      · have := cellPut_above (l := r) (v := v) (a := a) (b := k) (by omega) h.2
        simp_all [cellsAbove]

/-- A write of one byte keeps the canonical form. -/
theorem cellPut_wf {a : Nat} {v : Byte} {l : List Host.Cell} (h : cellsWf l = true) : cellsWf (cellPut l a v) = true := by
  cases l with
  | nil => unfold cellPut cellCons; split <;> simp_all [cellsWf, cellsAbove]
  | cons c r =>
    obtain ⟨k, x⟩ := c
    simp only [cellsWf, Bool.and_eq_true] at h
    unfold cellPut
    split
    · rename_i hlt
      unfold cellCons
      split <;> simp_all [cellsWf, cellsAbove]
    · split
      · subst_vars
        unfold cellCons
        split
        · exact cellsWf_of_above h.2
        · simp_all [cellsWf]
      · have := cellPut_above (l := r) (v := v) (a := a) (b := k) (by omega) h.2
        simp_all [cellsWf]

/-- Storing bytes keeps the canonical form. -/
theorem putBytes_wf {base : Nat} : ∀ {bs : List Byte} {l : List Host.Cell} {a : Long},
    cellsWf l = true → cellsWf (putBytes l base a bs) = true
  | [], _, _, h => h
  | _ :: bs, _, _, h => putBytes_wf (bs := bs) (cellPut_wf h)

/-! ### Reading after writing -/

theorem cellGet_below : ∀ {l : List Host.Cell} {a b : Nat}, cellsAbove a l = true → b ≤ a → cellGet l b = unlisted
  | [], _, _, _, _ => rfl
  | (k, v) :: r, a, b, h, hb => by
    simp only [cellsAbove, Bool.and_eq_true, decide_eq_true_eq] at h
    unfold cellGet
    rw [if_neg (by omega)]
    exact cellGet_below h.2 (by omega)

theorem cellGet_cellCons_of_ne {a b : Nat} (h : b ≠ a) (v : Byte) (r : List Host.Cell) :
    cellGet (cellCons a v r) b = cellGet r b := by
  unfold cellCons
  split
  · rfl
  · simp [cellGet, h]

/-- A write leaves every other byte alone. -/
theorem cellGet_cellPut_of_ne {a b : Nat} (h : b ≠ a) (v : Byte) :
    ∀ l : List Host.Cell, cellGet (cellPut l a v) b = cellGet l b
  | [] => cellGet_cellCons_of_ne h v []
  | (k, x) :: r => by
    unfold cellPut
    split
    · exact cellGet_cellCons_of_ne h v _
    · split
      · subst_vars
        rw [cellGet_cellCons_of_ne h]
        simp [cellGet, h]
      · simp [cellGet, cellGet_cellPut_of_ne h v r]

theorem cellGet_cellCons_self {a : Nat} {r : List Host.Cell} (h : cellsAbove a r = true) (v : Byte) :
    cellGet (cellCons a v r) a = v := by
  unfold cellCons
  split
  · rename_i hv
    rw [cellGet_below h (Nat.le_refl a), hv]
  · simp [cellGet]

theorem cellGet_cellPut_above {a b : Nat} (v : Byte) (hab : b < a) :
    ∀ {l : List Host.Cell}, cellsAbove b l = true → cellGet (cellPut l a v) a = v
  | [], _ => cellGet_cellCons_self rfl v
  | (k, x) :: r, h => by
    simp only [cellsAbove, Bool.and_eq_true, decide_eq_true_eq] at h
    unfold cellPut
    split
    · exact cellGet_cellCons_self (by simp_all [cellsAbove]) v
    · split
      · subst_vars
        exact cellGet_cellCons_self h.2 v
      · have := cellGet_cellPut_above v (a := a) (b := k) (by omega) h.2
        rw [cellGet, if_neg (by omega), this]

/-- A byte written is read back. -/
theorem cellGet_cellPut_self {a : Nat} (v : Byte) {l : List Host.Cell} (h : cellsWf l = true) :
    cellGet (cellPut l a v) a = v := by
  cases l with
  | nil => exact cellGet_cellCons_self rfl v
  | cons c r =>
    obtain ⟨k, x⟩ := c
    simp only [cellsWf, Bool.and_eq_true] at h
    unfold cellPut
    split
    · exact cellGet_cellCons_self (by simp_all [cellsAbove]) v
    · split
      · subst_vars
        exact cellGet_cellCons_self h.2 v
      · have := cellGet_cellPut_above v (a := a) (b := k) (by omega) h.2
        rw [cellGet, if_neg (by omega), this]

theorem not_inRange_succ {a b : Long} {n : Nat} (h : ¬ inRange a (n + 1) b) : b ≠ a ∧ ¬ inRange (a + 1) n b := by
  unfold inRange at *
  constructor
  · rintro rfl
    simp at h
  · intro hc
    apply h
    have e : b - a = (b - (a + 1)) + 1 := by bv_omega
    rw [e, BitVec.toNat_add]
    have h1 : (1 : Long).toNat = 1 := rfl
    rw [h1]
    have := Nat.mod_le ((b - (a + 1)).toNat + 1) (2 ^ 32)
    omega

/-- Storing bytes leaves every byte outside their range alone. -/
theorem cellGet_putBytes_of_not_inRange {base : Nat} {b : Long} : ∀ {bs : List Byte} {l : List Host.Cell} {a : Long},
    ¬ inRange a bs.length b → cellGet (putBytes l base a bs) (base + b.toNat) = cellGet l (base + b.toNat)
  | [], _, _, _ => rfl
  | x :: bs, l, a, h => by
    have h' := not_inRange_succ (n := bs.length) h
    rw [putBytes, cellGet_putBytes_of_not_inRange h'.2]
    apply cellGet_cellPut_of_ne
    intro e
    apply h'.1
    exact BitVec.eq_of_toNat_eq (by omega)

theorem getBytes_congr {base : Nat} : ∀ {n : Nat} {l l' : List Host.Cell} {a : Long},
    (∀ b, inRange a n b → cellGet l' (base + b.toNat) = cellGet l (base + b.toNat)) → n ≤ 2 ^ 32 →
    getBytes l' base a n = getBytes l base a n
  | 0, _, _, _, _, _ => rfl
  | n + 1, l, l', a, h, hn => by
    unfold getBytes
    rw [h a (by simp [inRange]), getBytes_congr (l := l) (fun b hb => h b ?_) (by omega)]
    unfold inRange at *
    have e : b - a = (b - (a + 1)) + 1 := by bv_omega
    rw [e, BitVec.toNat_add]
    have h1 : (1 : Long).toNat = 1 := rfl
    rw [h1]
    have := Nat.mod_le ((b - (a + 1)).toNat + 1) (2 ^ 32)
    omega

/-- Bytes stored are read back. -/
theorem getBytes_putBytes {base : Nat} : ∀ {bs : List Byte} {l : List Host.Cell} {a : Long},
    cellsWf l = true → bs.length ≤ 2 ^ 32 → getBytes (putBytes l base a bs) base a bs.length = bs
  | [], _, _, _, _ => rfl
  | x :: bs, l, a, h, hn => by
    rw [putBytes, List.length_cons, getBytes, getBytes_putBytes (cellPut_wf h) (by simp at hn; omega)]
    have hnot : ¬ inRange (a + 1) bs.length a := by
      unfold inRange
      have e : a - (a + 1) = -1 := by bv_omega
      rw [e]
      have : (-1 : Long).toNat = 2 ^ 32 - 1 := by decide
      simp at hn
      omega
    rw [cellGet_putBytes_of_not_inRange hnot, cellGet_cellPut_self _ h]

@[simp] theorem getBytes_length (l : List Host.Cell) (base : Nat) : ∀ (n : Nat) (a : Long), (getBytes l base a n).length = n
  | 0, _ => rfl
  | n + 1, a => by simp [getBytes, getBytes_length l base n]

@[simp] theorem toBytes_length (v : Long) : ∀ n : Nat, (toBytes v n).length = n
  | 0 => rfl
  | n + 1 => by simp [toBytes, toBytes_length v n]

/-- Reading in two pieces is reading at once. -/
theorem getBytes_append (l : List Host.Cell) (base : Nat) : ∀ (k n : Nat) (a : Long),
    getBytes l base a k ++ getBytes l base (a + BitVec.ofNat 32 k) n = getBytes l base a (k + n)
  | 0, n, a => by simp [getBytes]
  | k + 1, n, a => by
    have e : a + BitVec.ofNat 32 (k + 1) = (a + 1) + BitVec.ofNat 32 k := by
      rw [show k + 1 = 1 + k by omega, BitVec.ofNat_add]
      rw [BitVec.add_assoc]; rfl
    rw [show k + 1 + n = (k + n) + 1 by omega, getBytes, getBytes, e, List.cons_append, getBytes_append l base k n]

/-- Storing in two pieces is storing at once. -/
theorem putBytes_append (base : Nat) : ∀ (xs ys : List Byte) (l : List Host.Cell) (a : Long),
    putBytes (putBytes l base a xs) base (a + BitVec.ofNat 32 xs.length) ys = putBytes l base a (xs ++ ys)
  | [], ys, l, a => by simp [putBytes]
  | x :: xs, ys, l, a => by
    have e : a + BitVec.ofNat 32 (xs.length + 1) = (a + 1) + BitVec.ofNat 32 xs.length := by
      rw [show xs.length + 1 = 1 + xs.length by omega, BitVec.ofNat_add, BitVec.add_assoc]; rfl
    rw [List.length_cons, putBytes, List.cons_append, putBytes, e, putBytes_append base xs ys]

end Sys2Proof.Machine
end

