-- ==== Sys2Proof/Laws/MemoryForm.lean ====
section
/-! SUPPORT. Every operation of the memory system keeps the canonical form of memory. -/

namespace Sys2Proof.Machine

/-- The memory system a physical access leaves. -/
def PRes.mem {α : Type} : PRes α → MemSys
  | .ok _ m => m
  | .err _ m => m

/-- The memory system a logical access leaves. -/
def MRes.mem {α : Type} : MRes α → MemSys
  | .ok _ m => m
  | .fail _ m => m

/-- The memory system a translation leaves. -/
def Trans.mem : Trans → MemSys
  | .ok _ _ m => m
  | .fault m => m
  | .push _ m => m

/-- The memory system a line fill leaves. -/
def Fill.mem : Fill → MemSys
  | .error m => m
  | .bypass _ m => m
  | .cached _ m => m

variable {m : MemSys} {c : Control}

theorem PRes.bind_wf {α β : Type} {r : PRes α} {k : α → MemSys → PRes β} (h : Memory.wf r.mem)
    (hk : ∀ a m, Memory.wf m → Memory.wf (k a m).mem) : Memory.wf (r.bind k).mem := by
  cases r with
  | ok a m => exact hk a m h
  | err f m => exact h

theorem MRes.bind_wf {α β : Type} {r : MRes α} {k : α → MemSys → MRes β} (h : Memory.wf r.mem)
    (hk : ∀ a m, Memory.wf m → Memory.wf (k a m).mem) : Memory.wf (r.bind k).mem := by
  cases r with
  | ok a m => exact hk a m h
  | fail f m => exact h

/-! ### The bus and the caches -/

theorem draw_wf {w : Nat} (h : Memory.wf m) : Memory.wf (m.draw w).2 := h

theorem noted_wf {m' : MemSys} {pa : Long} {n : Nat} (h : Memory.wf m') : Memory.wf (m'.noted m pa n) := h

theorem store_wf {pa : Long} {bs : List Byte} (h : Memory.wf m) : Memory.wf (m.store pa bs) := ⟨putBytes_wf h.1, h.2⟩

theorem maintain_wf {p : Long → Bool} (h : Memory.wf m) : Memory.wf (m.maintain p) := h

theorem notedWindow_wf {pa : Long} {bs : List Byte} (h : Memory.wf m) : Memory.wf (m.notedWindow pa bs) := h

theorem flushPipe_wf (h : Memory.wf m) : Memory.wf m.flushPipe := h

theorem unpipe_wf {la : Long} (h : Memory.wf m) : Memory.wf (m.unpipe la) := h

theorem synchronize_wf (h : Memory.wf m) : Memory.wf m.synchronize := h

theorem refill_wf (h : Memory.wf m) : Memory.wf m.refill := h

theorem alternateWrite_wf {pa : Long} {z : BusSize} {d : BitVec 128} (h : Memory.wf m) :
    Memory.wf (m.alternateWrite pa z d) := by
  unfold MemSys.alternateWrite
  extract_lets bs
  split
  · exact notedWindow_wf (by exact h)
  · exact store_wf h

theorem snoopIcache_wf {pa : Long} (h : Memory.wf m) : Memory.wf (m.snoopIcache pa) := by
  unfold MemSys.snoopIcache
  split <;> exact h

theorem snoopDrop_wf {pa : Long} (h : Memory.wf m) : Memory.wf (m.snoopDrop pa) := by
  unfold MemSys.snoopDrop
  extract_lets m1
  have h1 : Memory.wf m1 := by simp only [m1]; split <;> exact h
  split <;> exact h1

theorem snoopRead_wf {pa : Long} {sc : BitVec 2} (h : Memory.wf m) : Memory.wf (snoopRead m pa sc) := by
  unfold snoopRead
  split
  · exact snoopIcache_wf (snoopDrop_wf h)
  · exact h

theorem snoopWrite_wf {pa : Long} {z : BusSize} {sc : BitVec 2} {d : BitVec 128} (h : Memory.wf m) :
    Memory.wf (snoopWrite m pa z sc d) := by
  unfold snoopWrite
  extract_lets pa' bs sinks m1 m2
  have h1 : Memory.wf m1 := snoopIcache_wf h
  split
  · refine maintain_wf ?_
    simp only [m2]
    split
    · split
      · exact h1
      · exact alternateWrite_wf (snoopDrop_wf h1)
    · split
      · exact h1
      · exact alternateWrite_wf (snoopDrop_wf h1)
    · exact alternateWrite_wf h1
  · exact alternateWrite_wf h

theorem apply_wf {e : BusEvent} (h : Memory.wf m) : Memory.wf (e.apply m) := by
  cases e with
  | reset modes => exact h
  | pins cdis mdis => exact h
  | snoopRead pa size sc => exact snoopRead_wf h
  | snoopWrite pa size sc data => exact snoopWrite_wf h

theorem runDue_wf {wait : Bool} : ∀ {l : List (Nat × BusEvent)} {m : MemSys}, Memory.wf m → Memory.wf (runDue m wait l)
  | [], _, h => h
  | (n, e) :: r, m, h => by
    unfold runDue
    split
    · exact h
    · split
      · exact runDue_wf (apply_wf h)
      · exact runDue_wf (apply_wf h)
      · split
        · exact h
        · exact runDue_wf (apply_wf h)
      · exact h

theorem tick_wf {lk : Bool} (h : Memory.wf m) : Memory.wf (m.tick lk) := by
  unfold MemSys.tick
  split
  · exact h
  · exact runDue_wf (l := m.due) (wait := m.lock && lk && Config.arbiterHonoursLock) h

theorem beginLocked_wf (h : Memory.wf m) : Memory.wf m.beginLocked := by
  unfold MemSys.beginLocked
  split <;> exact h

theorem pinsDue_wf : ∀ {l : List (Nat × BusEvent)} {m : MemSys}, Memory.wf m → Memory.wf (pinsDue m l)
  | [], _, h => h
  | x :: r, m, h => by
    unfold pinsDue
    split
    · rename_i e
      obtain ⟨-, rfl⟩ := List.cons.inj e
      exact pinsDue_wf (by exact h)
    · exact h

theorem cacheTick_wf (h : Memory.wf m) : Memory.wf m.cacheTick := by
  unfold MemSys.cacheTick
  split
  · exact h
  · exact runDue_wf (l := m.due) h

theorem betweenHalves_wf (h : Memory.wf m) : Memory.wf m.betweenHalves := pinsDue_wf h

theorem answer_wf {c : Cycle} {k n : Nat} {rd : Bool} {bs : List Byte} (h : Memory.wf m) :
    Memory.wf (m.answer c k n rd bs).2 := h

theorem ask_wf {c : Cycle} {k n : Nat} {rd : Bool} {bs : List Byte} (h : Memory.wf m) :
    Memory.wf (m.ask c k n rd bs).2 := h

theorem readCycle_wf {c : Cycle} {pa : Long} {n : Nat} (h : Memory.wf m) : Memory.wf (m.readCycle c pa n).2 := by
  unfold MemSys.readCycle
  extract_lets m1 key
  have h1 : Memory.wf m1 := by
    simp only [m1]
    split
    · exact h
    · exact tick_wf h
  split
  · exact h1
  · split
    · exact ask_wf h1
    · exact h1

theorem acknowledge_wf {tm : BitVec 3} {pa : Long} (h : Memory.wf m) : Memory.wf (m.acknowledge tm pa).2 := by
  have h1 : Memory.wf (m.tick false) := tick_wf h
  unfold MemSys.acknowledge
  extract_lets m1
  split
  · exact answer_wf h1
  · exact h1

theorem put_wf {c : Cycle} {pa : Long} {bs : List Byte} (h : Memory.wf m) : Memory.wf (m.put c pa bs) := by
  unfold MemSys.put
  split
  · exact ⟨h.1, putBytes_wf h.2⟩
  · exact store_wf h

theorem writeCycle_wf {c : Cycle} {pa : Long} {bs : List Byte} (h : Memory.wf m) : Memory.wf (m.writeCycle c pa bs).2 := by
  unfold MemSys.writeCycle
  extract_lets m1 key
  have h1 : Memory.wf m1 := by
    simp only [m1]
    split
    · exact h
    · exact tick_wf h
  have h2 : Memory.wf
      (if m1.struck.isSome && !c.later then (decide ((m1.draw 1).1 = 1), (m1.draw 1).2) else (true, m1) :
        Bool × MemSys).2 := by
    split
    · exact draw_wf (w := 1) h1
    · exact h1
  split
  rename_i made m2 e
  rw [e] at h2
  split
  · exact h2
  · split
    · have h3 := ask_wf (c := c) (k := key) (n := bs.length) (rd := false) (bs := bs) h2
      split
      rename_i e3
      rw [e3] at h3
      simp only
      split
      · exact h3
      · exact notedWindow_wf h3
    · split
      · exact h2
      · exact put_wf h2

theorem busReads_wf : ∀ {fuel : Nat} {m : MemSys} {c : Cycle} {pa : Long} {n : Nat}, Memory.wf m →
    Memory.wf (busReads fuel m c pa n).2
  | 0, _, _, _, _, h => h
  | fuel + 1, m, c, pa, n, h => by
    have hc := readCycle_wf (c := c) (pa := pa) (n := transferLength pa.toNat n) h
    unfold busReads
    split
    · exact h
    · simp only
      split
      · exact hc
      · exact busReads_wf hc

theorem busWrites_wf : ∀ {fuel : Nat} {m : MemSys} {c : Cycle} {pa : Long} {bs : List Byte}, Memory.wf m →
    Memory.wf (busWrites fuel m c pa bs).2
  | 0, _, _, _, _, h => h
  | fuel + 1, m, c, pa, bs, h => by
    have hc := writeCycle_wf (c := c) (pa := pa) (bs := bs.take (transferLength pa.toNat bs.length)) h
    unfold busWrites
    split
    · exact h
    · simp only
      split
      · exact hc
      · split
        · exact hc
        · exact busWrites_wf hc

theorem lineReads_wf : ∀ {fuel : Nat} {m : MemSys} {c : Cycle} {base : Long} {k : Nat}, Memory.wf m →
    Memory.wf (lineReads fuel m c base k)
  | 0, _, _, _, _, h => h
  | fuel + 1, m, c, base, k, h => by
    have hc := readCycle_wf (c := c) (pa := base + BitVec.ofNat 32 (4 * (k % 4))) (n := 4) h
    unfold lineReads
    simp only
    split
    · exact hc
    · exact lineReads_wf (by exact hc)

theorem lineRead_wf {c : Cycle} {pa : Long} (h : Memory.wf m) : Memory.wf (m.lineRead c pa) := lineReads_wf (by exact h)

theorem pushBuffered_wf {lk : Bool} (h : Memory.wf m) : Memory.wf (pushBuffered m lk).mem := by
  unfold pushBuffered
  split
  · exact h
  · extract_lets m1
    have h1 : Memory.wf m1 := tick_wf h
    split
    · exact h1
    · extract_lets p
      have hb := busWrites_wf (fuel := p.bytes.length) (c := Cycle.push p.line lk) (pa := p.addr) (bs := p.bytes) h1
      unfold MemSys.busWrite
      split <;> (rename_i e; rw [e] at hb; exact hb)

theorem pushLine_wf {k : Nat} {x : CacheLine} {lk : Bool} (h : Memory.wf m) : Memory.wf (pushLine m k x lk).mem := by
  unfold pushLine
  split
  · exact h
  · exact pushBuffered_wf h

theorem postponed_wf {r : PRes Unit} (h : Memory.wf r.mem) : Memory.wf r.postponed.mem := by
  unfold PRes.postponed
  split
  · exact h
  · exact h
  · split <;> exact h

theorem evictMatch_wf {pa : Long} {lk : Bool} (h : Memory.wf m) : Memory.wf (evictMatch m pa lk).mem := by
  unfold evictMatch
  split
  · exact h
  · split
    · exact h
    · exact postponed_wf (pushLine_wf (by exact h))

theorem busReadP_wf {a : Access} {pa : Long} {n : Nat} (h : Memory.wf m) : Memory.wf (busReadP m a pa n).mem := by
  have hb := busReads_wf (fuel := n) (c := a.cycle) (pa := pa) (n := n) h
  unfold busReadP MemSys.busRead
  split <;> (rename_i e; rw [e] at hb; exact hb)

theorem busWriteP_wf {a : Access} {pa : Long} {bs : List Byte} (h : Memory.wf m) : Memory.wf (busWriteP m a pa bs).mem := by
  have hb := busWrites_wf (fuel := bs.length) (c := a.cycle) (pa := pa) (bs := bs) h
  unfold busWriteP MemSys.busWrite
  split <;> (rename_i e; rw [e] at hb; exact hb)

theorem install_wf {k : Nat} {x : CacheLine} {pa : Long} {wr : Option (List Byte)} (h : Memory.wf m) :
    Memory.wf (m.install k x pa wr) := by
  unfold MemSys.install
  simp only
  split <;> exact h

theorem restoreVictim_wf (h : Memory.wf m) : Memory.wf m.restoreVictim := by
  unfold MemSys.restoreVictim
  split <;> exact h

theorem pushVictim_wf (h : Memory.wf m) : Memory.wf m.pushVictim := by
  have hp := pushBuffered_wf (lk := false) h
  unfold MemSys.pushVictim
  split <;> (rename_i e; rw [e] at hp; exact hp)

theorem fillDcache_wf {a : Access} {pa : Long} {n : Nat} {wr : Option (List Byte)} (h : Memory.wf m) :
    Memory.wf (fillDcache m a pa n wr).mem := by
  unfold fillDcache
  extract_lets set key victim dirty m1 m2 m3 b m4
  have h1 : Memory.wf m1 := by simp only [m1]; split <;> exact h
  have h2 : Memory.wf m2 := h1
  have h4 : Memory.wf m4 := lineRead_wf h2
  split
  · exact restoreVictim_wf h4
  · split
    · exact restoreVictim_wf h4
    · exact pushVictim_wf (install_wf h4)

theorem dataTick_wf {a : Access} {cm : BitVec 2} (h : Memory.wf m) : Memory.wf (m.dataTick c a cm) := by
  unfold MemSys.dataTick
  split
  · exact cacheTick_wf h
  · exact h

theorem pieceRead_wf {a : Access} {pa : Long} {cm : BitVec 2} {n : Nat} (h : Memory.wf m) :
    Memory.wf (pieceRead c m a pa cm n).mem := by
  unfold pieceRead
  extract_lets m0 m1
  have h0 : Memory.wf m0 := dataTick_wf h
  split
  · exact busReadP_wf h0
  · split
    · exact PRes.bind_wf (evictMatch_wf h0) fun _ _ h => busReadP_wf h
    · have h1 : Memory.wf m1 := h0
      split
      · exact h1
      · split
        · exact busReadP_wf h1
        · have hf := fillDcache_wf (a := a) (pa := pa) (n := n) (wr := none) h1
          split <;> (rename_i e; rw [e] at hf; exact hf)

theorem pieceWriteMade_wf {a : Access} {pa : Long} {cm : BitVec 2} {bs : List Byte} (h : Memory.wf m) :
    Memory.wf (pieceWriteMade c m a pa cm bs).mem := by
  unfold pieceWriteMade
  split
  · exact busWriteP_wf h
  · split
    · exact PRes.bind_wf (evictMatch_wf h) fun _ _ h => busWriteP_wf h
    · split
      · split
        · exact busWriteP_wf (by exact h)
        · exact busWriteP_wf h
      · split
        · extract_lets m1
          split <;> exact busWriteP_wf (by exact h)
        · extract_lets m1
          have h1 : Memory.wf m1 := h
          split
          · exact h1
          · split
            · exact busWriteP_wf h1
            · have hf := fillDcache_wf (a := a) (pa := pa) (n := bs.length) (wr := some bs) h1
              split <;> (rename_i e; rw [e] at hf)
              · exact hf
              · exact busWriteP_wf hf
              · exact hf

theorem pieceWrite_wf {a : Access} {pa : Long} {cm : BitVec 2} {bs : List Byte} (h : Memory.wf m) :
    Memory.wf (pieceWrite c m a pa cm bs).mem := by
  unfold pieceWrite
  extract_lets m0
  have h0 : Memory.wf m0 := dataTick_wf h
  split
  · exact pieceWriteMade_wf h0
  · split
    · exact draw_wf h0
    · exact pieceWriteMade_wf (draw_wf h0)

theorem physRead_wf {a : Access} {pa : Long} {cm : BitVec 2} {n : Nat} (h : Memory.wf m) :
    Memory.wf (physRead c m a pa cm n).mem := by
  unfold physRead
  extract_lets k
  split
  · exact pieceRead_wf h
  · exact PRes.bind_wf (pieceRead_wf h) fun _ _ h => PRes.bind_wf (pieceRead_wf (betweenHalves_wf h)) fun _ _ h => h

theorem physWrite_wf {a : Access} {pa : Long} {cm : BitVec 2} {bs : List Byte} (h : Memory.wf m) :
    Memory.wf (physWrite c m a pa cm bs).mem := by
  unfold physWrite
  extract_lets k
  split
  · exact pieceWrite_wf h
  · exact PRes.bind_wf (pieceWrite_wf h) fun _ _ h => pieceWrite_wf (betweenHalves_wf h)

theorem instrTick_wf {cm : BitVec 2} (h : Memory.wf m) : Memory.wf (m.instrTick c cm) := by
  unfold MemSys.instrTick
  split
  · exact cacheTick_wf h
  · exact h

theorem fetchPieceMade_wf {su : Bool} {pa : Long} {cm : BitVec 2} {n : Nat} (h : Memory.wf m) :
    Memory.wf (fetchPieceMade c m su pa cm n).mem := by
  unfold fetchPieceMade
  extract_lets busWord m1 set free key m2 m3 b m4
  have hb : ∀ m, Memory.wf m → Memory.wf (busWord m).mem := by
    intro m h
    have hr := readCycle_wf (c := Cycle.single 0 (fetchMode su) false) (pa := pa &&& 0xFFFFFFFC) (n := 4) h
    simp only [busWord]
    split <;> exact hr
  have h2 : Memory.wf m2 := by simp only [m2]; split <;> exact h
  have h4 : Memory.wf m4 := lineRead_wf (by exact h2)
  split
  · exact hb _ h
  · split
    · split <;> exact hb _ (by exact h)
    · split
      · exact h
      · split
        · exact h4
        · split <;> exact h4

theorem fetchPiece_wf {su : Bool} {pa : Long} {cm : BitVec 2} {n : Nat} (h : Memory.wf m) :
    Memory.wf (fetchPiece c m su pa cm n).mem := fetchPieceMade_wf (instrTick_wf h)

theorem prefetchChoice_wf {pa : Long} {bs : List Byte} (h : Memory.wf m) : Memory.wf (prefetchChoice m pa bs).2 := by
  unfold prefetchChoice
  split
  · exact h
  · exact draw_wf (w := 32) h

theorem searchRead_wf {i : Bool} {pa : Long} (h : Memory.wf m) : Memory.wf (searchRead c m i pa).mem :=
  PRes.bind_wf (physRead_wf h) fun _ _ h => h

theorem searchWrite_wf {i : Bool} {pa v : Long} (h : Memory.wf m) : Memory.wf (searchWrite c m i pa v).mem := physWrite_wf h

theorem searchLocked_wf {i : Bool} {pa v : Long} (h : Memory.wf m) : Memory.wf (searchLocked c m i pa v).mem :=
  PRes.bind_wf (physRead_wf (beginLocked_wf h)) fun _ _ h => physWrite_wf h

theorem pushSelected_wf {sc : Scope} : ∀ {l : List Nat} {m : MemSys}, Memory.wf m → Memory.wf (pushSelected sc l m).mem
  | [], _, h => h
  | key :: r, m, h => by
    unfold pushSelected
    split
    · exact PRes.bind_wf (pushLine_wf (by exact h)) fun _ _ h => pushSelected_wf h
    · exact pushSelected_wf h

/-! ### Translation -/

theorem setAtc_wf {i : Bool} {l : List (Nat × AtcEntry)} (h : Memory.wf m) : Memory.wf (m.setAtc i l) := by
  unfold MemSys.setAtc
  split <;> exact h

theorem bumpAtc_wf {i : Bool} (h : Memory.wf m) : Memory.wf (m.bumpAtc i) := by
  unfold MemSys.bumpAtc
  split <;> exact h

theorem atcPick_wf (h : Memory.wf m) : ∀ ks, Memory.wf (atcPick m ks).2
  | [] => h
  | [_] => h
  | _ :: _ :: _ => h

theorem atcLookup_wf {i : Bool} {la : Long} {fc : Bool} (h : Memory.wf m) : Memory.wf (atcLookup c m i la fc).2 := by
  unfold atcLookup
  exact atcPick_wf (bumpAtc_wf h) _

theorem loadAtc_wf {i : Bool} {la : Long} {hit : Option Nat} {e : AtcEntry} (h : Memory.wf m) :
    Memory.wf (loadAtc c m i la hit e) := setAtc_wf h

theorem markTable_wf {i : Bool} {a d : Long} (h : Memory.wf m) : Memory.wf (markTable c m i a d).mem := by
  unfold markTable
  split
  · exact h
  · exact searchWrite_wf h

theorem markPage_wf {i : Bool} {a pd : Long} {wp wr sv : Bool} (h : Memory.wf m) :
    Memory.wf (markPage c m i a pd wp wr sv).mem := by
  unfold markPage
  extract_lets setM
  split
  · exact PRes.bind_wf (searchWrite_wf h) fun _ _ h => h
  · split
    · exact h
    · exact PRes.bind_wf (searchLocked_wf h) fun _ _ h => h

theorem tableWalk_wf {i : Bool} {la : Long} {fc wr : Bool} (h : Memory.wf m) :
    Memory.wf (tableWalk c m i la fc wr).mem := by
  unfold tableWalk
  extract_lets root a1
  refine PRes.bind_wf (searchRead_wf h) fun d1 m h => ?_
  split
  · exact h
  refine PRes.bind_wf (markTable_wf h) fun _ m h => ?_
  refine PRes.bind_wf (searchRead_wf h) fun d2 m h => ?_
  split
  · exact h
  refine PRes.bind_wf (markTable_wf h) fun _ m h => ?_
  refine PRes.bind_wf (searchRead_wf h) fun d3 m h => ?_
  have hf : ∀ (a pd : Long) (m : MemSys) (wp : Bool), Memory.wf m → Memory.wf
      (if pdt pd = 1 then (markPage c m i a pd wp wr (!fc && pd.getLsbD 7)).bind fun pd m => .ok (.page pd wp) m
        else .ok (.invalid (wp)) m : PRes SearchEnd).mem := by
    intro a pd m wp h
    split
    · exact PRes.bind_wf (markPage_wf h) fun _ _ h => h
    · exact h
  split
  · refine PRes.bind_wf (searchRead_wf h) fun pd m h => ?_
    simp only
    split
    · exact PRes.bind_wf (markPage_wf h) fun _ _ h => h
    · exact h
  · simp only
    split
    · exact PRes.bind_wf (markPage_wf h) fun _ _ h => h
    · exact h

theorem searchEnd_wf {i : Bool} {la : Long} {fc : Bool} {hit : Option Nat} {e : SearchEnd} (h : Memory.wf m) :
    Memory.wf (searchEnd c m i la fc hit e).mem := by
  unfold searchEnd
  extract_lets d
  split
  · exact loadAtc_wf h
  · exact loadAtc_wf (draw_wf (w := 28) h)

theorem tableSearch_wf {i : Bool} {la : Long} {fc wr : Bool} {hit : Option Nat} (h : Memory.wf m) :
    Memory.wf (tableSearch c m i la fc wr hit).mem := by
  have hw := tableWalk_wf (c := c) (i := i) (la := la) (fc := fc) (wr := wr) h
  unfold tableSearch
  split <;> (rename_i e; rw [e] at hw)
  · exact searchEnd_wf hw
  · exact searchEnd_wf hw
  · exact hw

theorem Trans.after_wf {r : PRes SearchEnd} {k : MemSys → Trans} (h : Memory.wf r.mem)
    (hk : ∀ m, Memory.wf m → Memory.wf (k m).mem) : Memory.wf (Trans.after r k).mem := by
  unfold Trans.after
  split
  · exact hk _ h
  · exact h
  · exact h

theorem useEntry_wf {la : Long} {wr : Bool} {e : AtcEntry} (h : Memory.wf m) : Memory.wf (useEntry c m la wr e).mem := by
  unfold useEntry
  split <;> exact h

theorem translate_wf {i : Bool} {la : Long} {fc wr : Bool} (h : Memory.wf m) :
    Memory.wf (translate c m i la fc wr).mem := by
  unfold translate
  split
  · split <;> exact h
  · split
    · exact h
    · have hl := atcLookup_wf (c := c) (i := i) (la := la) (fc := fc) h
      split <;> (rename_i e; rw [e] at hl)
      · split
        · refine Trans.after_wf (tableSearch_wf hl) fun m2 ht => ?_
          split
          · exact useEntry_wf ht
          · exact ht
        · exact useEntry_wf hl
      · refine Trans.after_wf (tableSearch_wf hl) fun m2 ht => ?_
        have hl2 := atcLookup_wf (c := c) (i := i) (la := la) (fc := fc) ht
        split <;> (rename_i e3; rw [e3] at hl2)
        · exact useEntry_wf hl2
        · exact hl2

theorem flushAll_wf {b : Bool} (h : Memory.wf m) : Memory.wf (flushAll m b) := h

theorem flushAddr_wf {la : Long} {f b : Bool} (h : Memory.wf m) : Memory.wf (flushAddr c m la f b) := h

theorem ptest_wf {la : Long} {wr : Bool} (h : Memory.wf m) : Memory.wf (ptest c m la wr).mem := by
  unfold ptest
  extract_lets fc instr m1
  split
  · exact h
  · have h1 : Memory.wf m1 := by
      simp only [m1]
      generalize atcHits c m instr la fc = ks
      revert h
      generalize m = m0
      intro h
      induction ks generalizing m0 with
      | nil => exact h
      | cons k ks ih => exact ih _ (setAtc_wf h)
    exact PRes.bind_wf (tableSearch_wf h1) fun _ _ h => h

/-! ### Logical accesses -/

theorem altRead_wf {a : Access} {la : Long} {n : Nat} (h : Memory.wf m) : Memory.wf (altRead c m a la n).mem := by
  have hp := physRead_wf (c := c) (a := a) (pa := la) (cm := 0) (n := n) h
  unfold altRead
  split <;> (rename_i e; rw [e] at hp; exact hp)

theorem altWrite_wf {a : Access} {la : Long} {bs : List Byte} (h : Memory.wf m) :
    Memory.wf (altWrite c m a la bs).mem := by
  have hp := physWrite_wf (c := c) (a := a) (pa := la) (cm := 0) (bs := bs) h
  unfold altWrite
  split <;> (rename_i e; rw [e] at hp; exact hp)

theorem pageRead_wf {a : Access} {fa : Long} {t : Nat} {sec : Bool} {la : Long} {n : Nat} (h : Memory.wf m) :
    Memory.wf (pageRead c m a fa t sec la n).mem := by
  have ht := translate_wf (c := c) (i := false) (la := la) (fc := a.fc2) (wr := a.locked) h
  unfold pageRead
  split <;> (rename_i e; rw [e] at ht)
  · exact ht
  · exact ht
  · rename_i pa cm m1
    have hp := physRead_wf (c := c) (a := a) (pa := pa) (cm := cm) (n := n) (show Memory.wf m1 from ht)
    split <;> (rename_i e; rw [e] at hp; exact hp)

theorem pageWrite_wf {a : Access} {fa : Long} {t : Nat} {sec : Bool} {la : Long} {bs : List Byte} (h : Memory.wf m) :
    Memory.wf (pageWrite c m a fa t sec la bs).mem := by
  have ht := translate_wf (c := c) (i := false) (la := la) (fc := a.fc2) (wr := true) h
  unfold pageWrite
  split <;> (rename_i e; rw [e] at ht)
  · exact ht
  · exact ht
  · rename_i pa cm m1
    replace ht : Memory.wf m1 := ht
    have hp := physWrite_wf (c := c) (a := a) (pa := pa) (cm := cm) (bs := bs) ht
    split <;> (rename_i e; rw [e] at hp; exact hp)

theorem lockedCheck_wf {a : Access} {la : Long} {n : Nat} (h : Memory.wf m) : Memory.wf (lockedCheck c m a la n).mem := by
  have ht := translate_wf (c := c) (i := false) (la := la) (fc := a.fc2) (wr := true) h
  unfold lockedCheck
  split <;> (rename_i e; rw [e] at ht)
  · exact ht
  · exact ht
  · extract_lets k
    split
    · exact ht
    · have ht2 := translate_wf (c := c) (i := false) (la := la + BitVec.ofNat 32 k) (fc := a.fc2) (wr := true)
        (betweenHalves_wf ht)
      simp only [Trans.mem] at ht2
      split <;> (rename_i e; rw [e] at ht2; exact ht2)

theorem lockedChecks_wf {a : Access} : ∀ {l : List (Long × Nat)} {m : MemSys}, Memory.wf m →
    Memory.wf (lockedChecks c a m l).mem
  | [], _, h => h
  | (_, _) :: _, _, h => MRes.bind_wf (lockedCheck_wf h) fun _ _ h => MRes.bind_wf (lockedChecks_wf h) fun _ _ h => h

theorem lockedPush_wf {a : Access} : ∀ {l : List Long} {m : MemSys}, Memory.wf m → Memory.wf (lockedPush c a m l).mem
  | [], _, h => h
  | pa :: r, m, h => by
    unfold lockedPush
    split
    · exact lockedPush_wf h
    · have he := evictMatch_wf (pa := pa) (lk := true) h
      split <;> (rename_i e; rw [e] at he)
      · exact lockedPush_wf he
      · exact he

/-- Beginning a locked sequence keeps the canonical form. -/
theorem lockedBegin_wf {a : Access} {l : List (Long × Nat)} (h : Memory.wf m) : Memory.wf (lockedBegin c m a l).mem :=
  MRes.bind_wf (lockedChecks_wf h) fun _ _ h => lockedPush_wf (beginLocked_wf h)

/-- Reading an operand keeps the canonical form. -/
theorem dataRead_wf {a : Access} {la : Long} {n : Nat} (h : Memory.wf m) : Memory.wf (dataRead c m a la n).mem := by
  unfold dataRead
  extract_lets k
  split
  · exact altRead_wf h
  · split
    · exact pageRead_wf h
    · exact MRes.bind_wf (pageRead_wf h) fun _ _ h => MRes.bind_wf (pageRead_wf (betweenHalves_wf h)) fun _ _ h => h

/-- Writing an operand keeps the canonical form. -/
theorem dataWrite_wf {a : Access} {la : Long} {bs : List Byte} (h : Memory.wf m) :
    Memory.wf (dataWrite c m a la bs).mem := by
  unfold dataWrite
  extract_lets k
  split
  · exact altWrite_wf h
  · split
    · exact pageWrite_wf h
    · exact MRes.bind_wf (pageWrite_wf h) fun _ _ h => pageWrite_wf (betweenHalves_wf h)

theorem fetchBytes_wf {su : Bool} {la : Long} {n : Nat} (h : Memory.wf m) : Memory.wf (fetchBytes c m su la n).mem := by
  have ht := translate_wf (c := c) (i := true) (la := la) (fc := su) (wr := false) h
  unfold fetchBytes
  split <;> (rename_i e; rw [e] at ht)
  · exact ht
  · exact ht
  · rename_i pa cm m1
    have hp := fetchPiece_wf (c := c) (su := su) (pa := pa) (cm := cm) (n := n) (show Memory.wf m1 from ht)
    split <;> (rename_i e; rw [e] at hp; exact hp)

theorem takeWord_wf {pa : Long} {bs : List Byte} (h : Memory.wf m) : Memory.wf (takeWord m pa bs).mem :=
  prefetchChoice_wf h

/-- Fetching a word keeps the canonical form. -/
theorem fetchWord_wf {su : Bool} {la : Long} (h : Memory.wf m) : Memory.wf (fetchWord c m su la).mem := by
  unfold fetchWord
  split
  · exact takeWord_wf (unpipe_wf h)
  · exact unpipe_wf h
  · exact MRes.bind_wf (fetchBytes_wf h) fun _ _ h => takeWord_wf h

/-- Prefetching keeps the canonical form. -/
theorem prefetch_wf {su : Bool} {la : Long} {o : Bool} (h : Memory.wf m) : Memory.wf (prefetch c m su la o) := by
  unfold prefetch
  extract_lets la' hold
  have hh : ∀ m x y, Memory.wf m → Memory.wf (hold m x y) := by
    intro m x y h
    simp only [hold]
    split <;> exact h
  have hf := fetchBytes_wf (c := c) (su := su) (la := la') (n := 4) h
  split <;> (rename_i e; rw [e] at hf)
  · exact hh _ _ _ hf
  · split
    · exact hf
    · exact hh _ _ _ hf

theorem prefetchRow_wf {su : Bool} : ∀ {k : Nat} {m : MemSys} {la : Long}, Memory.wf m → Memory.wf (prefetchRow c su k m la)
  | 0, _, _, h => h
  | k + 1, m, la, h => by
    unfold prefetchRow
    split
    · exact h
    · exact prefetchRow_wf (prefetch_wf h)

/-- The memory of the reset state is canonical. -/
theorem reset_wf : Memory.wf State.reset.mem := ⟨rfl, rfl⟩

end Sys2Proof.Machine
end

