-- ==== Sys2Proof/Laws/Flat.lean ====
section
/-! SUPPORT. In the flat configuration every access is made, and is an access of physical memory at the logical
address. -/

namespace Sys2Proof.Machine

variable {s : State}

theorem Flat.ttrMatch (h : Flat s) (i : Bool) (la : Long) (fc : Bool) : ttrMatch s.ctl i la fc = none := by
  unfold Sys2Proof.Machine.ttrMatch ttrMatches
  cases i <;> simp only [h.itt0, h.itt1, h.dtt0, h.dtt1, Bool.false_and, if_true, if_false, Bool.false_eq_true]

theorem Flat.paging (h : Flat s) (m : MemSys) : s.ctl.paging m = false := by
  simp only [Control.paging, h.tc, Bool.false_and]

theorem Flat.dcacheOn (h : Flat s) (m : MemSys) : s.ctl.dcacheOn m = false := by
  simp only [Control.dcacheOn, h.de, Bool.false_and]

theorem Flat.icacheOn (h : Flat s) (m : MemSys) : s.ctl.icacheOn m = false := by
  simp only [Control.icacheOn, h.ie, Bool.false_and]

/-- Flat depends on the control registers, the bus, the pushes that wait and the mark of a serialized read only. -/
theorem Flat.of_eq (h : Flat s) {t : State} (hc : t.ctl = s.ctl) (hb : t.mem.quiet = s.mem.quiet)
    (hp : t.mem.pushFaults = s.mem.pushFaults) (hr : t.mem.serialized = s.mem.serialized := by rfl) : Flat t := by
  obtain ⟨h1, h2, h3, h4, h5, h6, h7, h8, h9, h10⟩ := h
  exact ⟨hc ▸ h1, hc ▸ h2, hc ▸ h3, hc ▸ h4, hc ▸ h5, hc ▸ h6, hc ▸ h7, hb ▸ h8, hp ▸ h9, hr ▸ h10⟩

/-- Where no serialized page has been read, the start of an instruction changes nothing. -/
theorem started_of_unserialized (h : s.mem.serialized = false) : s.started = s := by
  simp only [State.started, ← h]

/-- The translation is the identity. -/
theorem Flat.translate (h : Flat s) (m : MemSys) (i : Bool) (la : Long) (fc wr : Bool) :
    translate s.ctl m i la fc wr = .ok la 0 m := by
  unfold Sys2Proof.Machine.translate
  rw [h.ttrMatch, h.paging]
  rfl

/-! ### The bus -/

/-- What a quiet bus is. -/
theorem quiet_iff {m : MemSys} : m.quiet = true ↔
    m.busErrors = [] ∧ m.windows = [] ∧ m.due = [] ∧ m.struck = none ∧ m.pushBuffer = none := by
  simp [MemSys.quiet, and_assoc]

theorem store_quiet {m : MemSys} (pa : Long) (bs : List Byte) : (m.store pa bs).quiet = m.quiet := rfl

/-- A bus on which every write is made: no bus error of a write, no window, nothing due, no reset. A quiet bus is one. -/
structure MemSys.Writable (m : MemSys) : Prop where
  errors : ∀ e ∈ m.busErrors, e.write = false
  windows : m.windows = []
  due : m.due = []
  struck : m.struck = none

theorem writable_of_quiet {m : MemSys} (h : m.quiet = true) : m.Writable := by
  obtain ⟨h1, h2, h3, h4, -⟩ := quiet_iff.1 h
  exact ⟨by simp [h1], h2, h3, h4⟩

theorem tick_quiet {m : MemSys} (h : m.quiet = true) (lk : Bool) : m.tick lk = m := by
  simp [MemSys.tick, (quiet_iff.1 h).2.2.1]

theorem cacheTick_of_due {m : MemSys} (hd : m.due = []) : m.cacheTick = m := by simp [MemSys.cacheTick, hd]

theorem dataTick_of_due {m : MemSys} (hd : m.due = []) (c : Control) (a : Access) (cm : BitVec 2) : m.dataTick c a cm = m := by
  simp [MemSys.dataTick, cacheTick_of_due hd]

theorem instrTick_of_due {m : MemSys} (hd : m.due = []) (c : Control) (cm : BitVec 2) : m.instrTick c cm = m := by
  simp [MemSys.instrTick, cacheTick_of_due hd]

theorem betweenHalves_of_due {m : MemSys} (hd : m.due = []) : m.betweenHalves = m := by
  cases m
  simp only at hd
  subst hd
  rfl

theorem betweenHalves_quiet {m : MemSys} (h : m.quiet = true) : m.betweenHalves = m :=
  betweenHalves_of_due (quiet_iff.1 h).2.2.1

/-- On a quiet bus the beginning of a locked sequence changes nothing. -/
theorem beginLocked_quiet {m : MemSys} (h : m.quiet = true) : m.beginLocked = m := by
  rw [MemSys.beginLocked, if_pos (quiet_iff.1 h).2.2.1]

/-- An acknowledge cycle on a quiet bus has no answer of MEM. -/
theorem acknowledge_quiet {m : MemSys} (h : m.quiet = true) (tm : BitVec 3) (pa : Long) :
    m.acknowledge tm pa = (none, m) := by
  simp [MemSys.acknowledge, tick_quiet h, MemSys.windowed, (quiet_iff.1 h).2.1]

theorem readCycle_quiet {m : MemSys} (h : m.quiet = true) {c : Cycle} (hc : c.tt ≠ 2) (pa : Long) (n : Nat) :
    m.readCycle c pa n = (⟨false, getBytes m.ram 0 pa n, false, m.tci pa.toNat, false⟩, m) := by
  obtain ⟨h1, h2, -, h4, -⟩ := quiet_iff.1 h
  have hc : c.tt ≠ 2#2 := hc
  simp [MemSys.readCycle, tick_quiet h, h4, MemSys.windowed, h2, MemSys.tea, h1, MemSys.cells, hc, Cycle.base]

theorem writeCycle_writable {m : MemSys} (h : m.Writable) {c : Cycle} (hc : c.tt ≠ 2) (pa : Long) (bs : List Byte) :
    m.writeCycle c pa bs = (⟨false, [], false, false, false⟩, m.store pa bs) := by
  obtain ⟨h1, h2, h3, h4⟩ := h
  have hc : c.tt ≠ 2#2 := hc
  have he : ∀ key n, m.tea false key n = false := by
    intro key n
    simp only [MemSys.tea, Bool.false_eq_true, if_false, List.any_eq_false]
    intro e h
    simp [h1 e h]
  have ht : m.tick c.locked = m := by simp [MemSys.tick, h3]
  simp [MemSys.writeCycle, ht, h4, MemSys.windowed, h2, he, MemSys.put, hc]

theorem Cycle.then_tt (c : Cycle) (b : Bool) : (c.then b).tt = c.tt := by
  unfold Cycle.then
  split <;> rfl

theorem transferLength_pos (k n : Nat) (h : 0 < n) : 0 < transferLength k n ∧ transferLength k n ≤ n := by
  unfold transferLength
  split
  · omega
  · split <;> omega

/-- A read on a quiet bus gives the bytes of memory. -/
theorem busReads_quiet {m : MemSys} (h : m.quiet = true) : ∀ (fuel : Nat) {c : Cycle} (_ : c.tt ≠ 2) (pa : Long) (n : Nat),
    n ≤ fuel → busReads fuel m c pa n = (some (getBytes m.ram 0 pa n), m)
  | 0, _, _, _, n, hn => by
    obtain rfl : n = 0 := by omega
    rfl
  | fuel + 1, c, hc, pa, n, hn => by
    unfold busReads
    split
    · subst_vars; rfl
    · rename_i h0
      obtain ⟨t1, t2⟩ := transferLength_pos pa.toNat n (by omega)
      simp only [readCycle_quiet h hc, Bool.false_eq_true, if_false]
      rw [busReads_quiet h fuel (by rw [Cycle.then_tt]; exact hc) _ _ (by omega)]
      simp only [Option.map_some, getBytes_append]
      rw [show transferLength pa.toNat n + (n - transferLength pa.toNat n) = n by omega]

/-- Two memory systems that differ in physical memory and in the stale instruction words only. -/
def Stored (m m' : MemSys) (ram : List Host.Cell) : Prop := ∃ p, m' = { m with ram := ram, stale := p }

/-- A write on a bus that takes it stores its bytes. -/
theorem busWrites_writable : ∀ (fuel : Nat) {m : MemSys} (_ : m.Writable) {c : Cycle} (_ : c.tt ≠ 2) (pa : Long)
    (bs : List Byte), bs.length ≤ fuel →
    ∃ m', busWrites fuel m c pa bs = (false, m') ∧ Stored m m' (putBytes m.ram 0 pa bs)
  | 0, m, _, _, _, _, bs, hn => by
    obtain rfl : bs = [] := List.length_eq_zero_iff.1 (by omega)
    exact ⟨m, rfl, m.stale, rfl⟩
  | fuel + 1, m, h, c, hc, pa, [], hn => ⟨m, rfl, m.stale, rfl⟩
  | fuel + 1, m, h, c, hc, pa, b :: bs, hn => by
    obtain ⟨t1, t2⟩ := transferLength_pos pa.toNat (b :: bs).length (by simp)
    unfold busWrites
    simp only [writeCycle_writable h hc, Bool.false_eq_true, Bool.false_and, if_false]
    generalize transferLength pa.toNat (b :: bs).length = k at t1 t2
    obtain ⟨m', e, p, hm⟩ := busWrites_writable fuel (m := m.store pa ((b :: bs).take k)) ⟨h.errors, h.windows, h.due, h.struck⟩
      (c := c.then false) (by rw [Cycle.then_tt]; exact hc) (pa + BitVec.ofNat 32 k)
      ((b :: bs).drop k) (by simp only [List.length_drop]; omega)
    refine ⟨m', e, p, ?_⟩
    have hl : ((b :: bs).take k).length = k := by simp only [List.length_take]; omega
    have := putBytes_append 0 ((b :: bs).take k) ((b :: bs).drop k) m.ram pa
    rw [hl, List.take_append_drop] at this
    rw [hm]
    simp [MemSys.store, MemSys.noted, this]

theorem Access.cycle_tt (a : Access) : a.cycle.tt = a.tt := by
  unfold Access.cycle
  split <;> rfl

theorem busReadP_flat {m : MemSys} (h : m.quiet = true) {a : Access} (ha : a.tt ≠ 2) (pa : Long) (n : Nat) :
    busReadP m a pa n = .ok (getBytes m.ram 0 pa n) m := by
  simp [busReadP, MemSys.busRead, busReads_quiet h n (c := a.cycle) (by rw [Access.cycle_tt]; exact ha) pa n (Nat.le_refl n)]

theorem busWriteP_flat {m : MemSys} (h : m.Writable) {a : Access} (ha : a.tt ≠ 2) (pa : Long) (bs : List Byte) :
    ∃ m', busWriteP m a pa bs = .ok () m' ∧ Stored m m' (putBytes m.ram 0 pa bs) := by
  obtain ⟨m', e, hs⟩ := busWrites_writable bs.length h (c := a.cycle) (by rw [Access.cycle_tt]; exact ha) pa bs
    (Nat.le_refl _)
  exact ⟨m', by simp [busWriteP, MemSys.busWrite, e], hs⟩

theorem Stored.writable {m m' : MemSys} {ram : List Host.Cell} (h : Stored m m' ram) (hq : m.Writable) : m'.Writable := by
  obtain ⟨p, rfl⟩ := h
  exact ⟨hq.errors, hq.windows, hq.due, hq.struck⟩

theorem Stored.trans {m m1 m2 : MemSys} {r1 r2 : List Host.Cell} (h1 : Stored m m1 r1) (h2 : Stored m1 m2 r2) :
    Stored m m2 r2 := by
  obtain ⟨p, rfl⟩ := h1
  obtain ⟨q, rfl⟩ := h2
  exact ⟨q, rfl⟩

theorem Stored.ram {m m' : MemSys} {ram : List Host.Cell} (h : Stored m m' ram) : m'.ram = ram := by
  obtain ⟨p, rfl⟩ := h
  rfl

theorem Flat.pieceRead (h : Flat s) {m : MemSys} (hb : m.quiet = true) {a : Access} (ha : a.tt ≠ 2) (pa : Long)
    (cm : BitVec 2) (n : Nat) : pieceRead s.ctl m a pa cm n = .ok (getBytes m.ram 0 pa n) m := by
  simp [Sys2Proof.Machine.pieceRead, dataTick_of_due (quiet_iff.1 hb).2.2.1, h.dcacheOn, busReadP_flat hb ha]

theorem Flat.pieceWrite (h : Flat s) {m : MemSys} (hb : m.Writable) {a : Access} (ha : a.tt ≠ 2) (pa : Long)
    (cm : BitVec 2) (bs : List Byte) :
    ∃ m', pieceWrite s.ctl m a pa cm bs = .ok () m' ∧ Stored m m' (putBytes m.ram 0 pa bs) := by
  obtain ⟨m', e, hs⟩ := busWriteP_flat hb ha pa bs
  exact ⟨m', by simp [Sys2Proof.Machine.pieceWrite, pieceWriteMade, dataTick_of_due hb.due, hb.struck, h.dcacheOn, e], hs⟩

theorem Flat.physRead (h : Flat s) {m : MemSys} (hb : m.quiet = true) {a : Access} (ha : a.tt ≠ 2) (pa : Long)
    (cm : BitVec 2) (n : Nat) : physRead s.ctl m a pa cm n = .ok (getBytes m.ram 0 pa n) m := by
  unfold Sys2Proof.Machine.physRead
  extract_lets k
  split
  · exact h.pieceRead hb ha pa cm n
  · rw [h.pieceRead hb ha, PRes.bind, betweenHalves_quiet hb, h.pieceRead hb ha, PRes.bind]
    have hk : k ≤ n := by simp [k, lineRoom]
    rw [getBytes_append, show k + (n - k) = n by omega]

theorem Flat.physWrite (h : Flat s) {m : MemSys} (hb : m.Writable) {a : Access} (ha : a.tt ≠ 2) (pa : Long)
    (cm : BitVec 2) (bs : List Byte) :
    ∃ m', physWrite s.ctl m a pa cm bs = .ok () m' ∧ Stored m m' (putBytes m.ram 0 pa bs) := by
  unfold Sys2Proof.Machine.physWrite
  extract_lets k
  split
  · exact h.pieceWrite hb ha pa cm bs
  · obtain ⟨m1, e1, h1⟩ := h.pieceWrite hb ha pa cm (bs.take k)
    obtain ⟨m2, e2, h2⟩ := h.pieceWrite (h1.writable hb) ha (pa + BitVec.ofNat 32 k) cm (bs.drop k)
    refine ⟨m2, by rw [e1, PRes.bind, betweenHalves_of_due (h1.writable hb).due, e2], ?_⟩
    have hl : (bs.take k).length = k := by
      have : k ≤ bs.length := by simp [k, lineRoom]
      simp [this]
    have := putBytes_append 0 (bs.take k) (bs.drop k) m.ram pa
    rw [hl, List.take_append_drop] at this
    rw [h1.ram, this] at h2
    exact h1.trans h2

/-- The read of a page that is not serialized leaves no mark. -/
theorem readMade_of_ne {m : MemSys} {cm : BitVec 2} (h : cm ≠ 2) : m.readMade cm = m := by
  simp only [MemSys.readMade, beq_eq_false_iff_ne.2 h, Bool.or_false]

theorem Flat.pageRead (h : Flat s) {m : MemSys} (hb : m.quiet = true) {a : Access} (ha : a.tt ≠ 2) (fa : Long) (t : Nat)
    (sec : Bool) (la : Long) (n : Nat) : pageRead s.ctl m a fa t sec la n = .ok (getBytes m.ram 0 la n) m := by
  simp [Sys2Proof.Machine.pageRead, h.translate, readMade_of_ne (show (0#2 : BitVec 2) ≠ 2 by decide), h.physRead hb ha]

theorem Flat.pageWrite (h : Flat s) {m : MemSys} (hb : m.Writable) {a : Access} (ha : a.tt ≠ 2) (fa : Long)
    (t : Nat) (sec : Bool) (la : Long) (bs : List Byte) :
    ∃ m', pageWrite s.ctl m a fa t sec la bs = .ok () m' ∧ Stored m m' (putBytes m.ram 0 la bs) := by
  obtain ⟨m', e, hs⟩ := h.physWrite hb ha la 0 bs
  exact ⟨m', by simp only [Sys2Proof.Machine.pageWrite, h.translate, e], hs⟩

/-- Reading an operand gives the bytes of physical memory and changes nothing. -/
theorem Flat.dataRead (h : Flat s) {m : MemSys} (hb : m.quiet = true) {a : Access} (ha : a.tt ≠ 2) (la : Long)
    (n : Nat) : dataRead s.ctl m a la n = .ok (getBytes m.ram 0 la n) m := by
  unfold Sys2Proof.Machine.dataRead
  extract_lets k
  rw [if_neg ha]
  split
  · exact h.pageRead hb ha la n false la n
  · rw [h.pageRead hb ha, MRes.bind, betweenHalves_quiet hb, h.pageRead hb ha, MRes.bind]
    have hk : k ≤ n := by simp [k, pageRoom]
    rw [getBytes_append, show k + (n - k) = n by omega]

/-- Writing an operand stores its bytes in physical memory. -/
theorem Flat.dataWrite (h : Flat s) {m : MemSys} (hb : m.Writable) {a : Access} (ha : a.tt ≠ 2) (la : Long)
    (bs : List Byte) : ∃ m', dataWrite s.ctl m a la bs = .ok () m' ∧ Stored m m' (putBytes m.ram 0 la bs) := by
  unfold Sys2Proof.Machine.dataWrite
  extract_lets k
  rw [if_neg ha]
  split
  · exact h.pageWrite hb ha la bs.length false la bs
  · obtain ⟨m1, e1, h1⟩ := h.pageWrite hb ha la bs.length false la (bs.take k)
    obtain ⟨m2, e2, h2⟩ := h.pageWrite (h1.writable hb) ha la bs.length true (la + BitVec.ofNat 32 k) (bs.drop k)
    refine ⟨m2, by rw [e1, MRes.bind, betweenHalves_of_due (h1.writable hb).due, e2], ?_⟩
    have hl : (bs.take k).length = k := by
      have : k ≤ bs.length := by simp [k, pageRoom]
      simp [this]
    have := putBytes_append 0 (bs.take k) (bs.drop k) m.ram la
    rw [hl, List.take_append_drop] at this
    rw [h1.ram, this] at h2
    exact h1.trans h2

theorem Flat.lockedCheck (h : Flat s) {m : MemSys} (hb : m.quiet = true) (a : Access) (la : Long) (n : Nat) :
    ∃ l, lockedCheck s.ctl m a la n = .ok l m := by
  simp only [Sys2Proof.Machine.lockedCheck, h.translate, betweenHalves_quiet hb]
  split <;> exact ⟨_, rfl⟩

theorem Flat.lockedChecks (h : Flat s) {m : MemSys} (hb : m.quiet = true) (a : Access) :
    ∀ ops : List (Long × Nat), ∃ l, lockedChecks s.ctl a m ops = .ok l m
  | [] => ⟨[], rfl⟩
  | (la, n) :: r => by
    obtain ⟨x, hx⟩ := h.lockedCheck hb a la n
    obtain ⟨y, hy⟩ := h.lockedChecks hb a r
    exact ⟨x ++ y, by simp [Sys2Proof.Machine.lockedChecks, hx, hy, MRes.bind]⟩

theorem Flat.lockedPush (h : Flat s) (m : MemSys) (a : Access) : ∀ l : List Long, lockedPush s.ctl a m l = .ok () m
  | [] => rfl
  | _ :: r => by simp [Sys2Proof.Machine.lockedPush, h.dcacheOn, h.lockedPush m a r]

/-! ### As an instruction sees memory -/

theorem Flat.readVia (h : Flat s) {a : Access} (ha : a.tt ≠ 2) (la : Long) (n : Nat) :
    s.readVia a la n = .ok (ofBytes (getBytes s.mem.ram 0 la n)) s := by
  simp [State.readVia, State.lift, h.dataRead h.bus ha, Res.bind]

/-- An operand read gives the bytes of physical memory and leaves the state as it is. -/
theorem Flat.read (h : Flat s) (la : Long) (n : Nat) : s.read la n = .ok (ofBytes (getBytes s.mem.ram 0 la n)) s :=
  h.readVia (by simp [State.access]) la n

theorem Flat.readLocked (h : Flat s) (la : Long) (n : Nat) :
    s.readLocked la n = .ok (ofBytes (getBytes s.mem.ram 0 la n)) s :=
  h.readVia (by simp [State.lockedAccess]) la n

/-- A locked sequence begins with no effect. -/
theorem Flat.beginLocked (h : Flat s) (l : List (Long × Nat)) : s.beginLocked l = .ok () s := by
  obtain ⟨x, hx⟩ := h.lockedChecks h.bus s.lockedAccess l
  simp [State.beginLocked, State.lift, lockedBegin, hx, MRes.bind, beginLocked_quiet h.bus, h.lockedPush]

/-- The state after a store of bytes in the flat configuration: physical memory, and the stale instruction
words. -/
def State.stored (s : State) (ram : List Host.Cell) (p : List StaleWord) : State :=
  { s with mem := { s.mem with ram := ram, stale := p } }

theorem Flat.stored (h : Flat s) (ram : List Host.Cell) (p : List StaleWord) : Flat (s.stored ram p) := h.of_eq rfl rfl rfl

/-- A write stores its bytes in physical memory and changes nothing else a program sees, in every state with the control
registers of a flat one and a bus that takes writes. -/
theorem Flat.write_of (h : Flat s) {u : State} (hc : u.ctl = s.ctl) (hb : u.mem.Writable) (w : Write) (hw : w.acc.tt ≠ 2) :
    ∃ p, u.write w = .ok () (u.stored (putBytes u.mem.ram 0 w.addr w.bytes) p) := by
  obtain ⟨m', e, p, hm⟩ := h.dataWrite hb hw w.addr w.bytes
  exact ⟨p, by simp [State.write, State.lift, hc, e, hm, State.stored]⟩

/-- A write stores its bytes in physical memory and changes nothing else a program sees. -/
theorem Flat.write (h : Flat s) (w : Write) (hw : w.acc.tt ≠ 2) :
    ∃ p, s.write w = .ok () (s.stored (putBytes s.mem.ram 0 w.addr w.bytes) p) :=
  h.write_of rfl (writable_of_quiet h.bus) w hw

/-- Every write of an instruction is made, in order. -/
theorem Flat.writeAll : ∀ {ws : List Write} {s : State}, Flat s → (∀ w ∈ ws, w.acc.tt ≠ 2) →
    ∃ p, writeAll s ws = .all (s.stored (ramAfter s.mem.ram ws) p)
  | [], s, _, _ => ⟨s.mem.stale, rfl⟩
  | w :: ws, s, h, hw => by
    obtain ⟨p, e⟩ := h.write w (hw w (by simp))
    obtain ⟨q, e'⟩ := Flat.writeAll (ws := ws) (h.stored (putBytes s.mem.ram 0 w.addr w.bytes) p)
      (fun x hx => hw x (by simp [hx]))
    exact ⟨q, by simp only [Sys2Proof.Machine.writeAll, e, e']; rfl⟩

/-! ### Instruction fetch -/

/-- The address of the long word that an address lies in. -/
theorem toNat_longBase (pa : Long) : (pa &&& 0xFFFFFFFC#32).toNat = 4 * (pa.toNat / 4) := by
  apply Nat.eq_of_testBit_eq
  intro i
  have h1 : (0xFFFFFFFC#32).toNat = 2 ^ 2 * (2 ^ 30 - 1) := rfl
  rw [BitVec.toNat_and, Nat.testBit_and, h1, show 4 * (pa.toNat / 4) = 2 ^ 2 * (pa.toNat / 2 ^ 2) from rfl,
    Nat.testBit_two_pow_mul, Nat.testBit_two_pow_mul, Nat.testBit_two_pow_sub_one, Nat.testBit_div_two_pow]
  by_cases hi : 2 ≤ i
  · rw [show i - 2 + 2 = i by omega]
    by_cases h32 : i < 32
    · simp [hi, show i - 2 < 30 by omega]
    · simp [Nat.testBit_lt_two_pow (Nat.lt_of_lt_of_le pa.isLt (Nat.pow_le_pow_right (by omega) (by omega : 32 ≤ i)))]
  · simp [hi]

/-- An even address is that of one of the two words of its long word. -/
theorem word_of_long (ram : List Host.Cell) (pa : Long) (he : pa.getLsbD 0 = false) :
    ((getBytes ram 0 (pa &&& 0xFFFFFFFC#32) 4).drop (pa.toNat % 4)).take 2 = getBytes ram 0 pa 2 := by
  have h2 : pa.toNat % 2 = 0 := by
    have := he
    simp only [BitVec.getLsbD, Nat.testBit_zero, decide_eq_false_iff_not] at this
    omega
  have hl := toNat_longBase pa
  generalize pa &&& 0xFFFFFFFC#32 = b at hl ⊢
  rcases (by omega : pa.toNat % 4 = 0 ∨ pa.toNat % 4 = 2) with h | h
  · obtain rfl : b = pa := BitVec.eq_of_toNat_eq (by omega)
    rw [h]
    rfl
  · have e : b + 1 + 1 = pa := BitVec.eq_of_toNat_eq (by
      have := pa.isLt
      have h1 : (1 : Long).toNat = 1 := rfl
      simp only [BitVec.toNat_add, h1, hl]
      omega)
    rw [h, ← e]
    rfl

theorem Flat.fetchPiece (h : Flat s) {m : MemSys} (hb : m.quiet = true) (su : Bool) {pa : Long}
    (he : pa.getLsbD 0 = false) (cm : BitVec 2) : fetchPiece s.ctl m su pa cm 2 = .ok (getBytes m.ram 0 pa 2) m := by
  simp [Sys2Proof.Machine.fetchPiece, fetchPieceMade, instrTick_of_due (quiet_iff.1 hb).2.2.1, h.icacheOn, readCycle_quiet hb, Cycle.single, word_of_long m.ram pa he]

/-- The pipeline does not change where it holds no word of an address. -/
theorem unpipe_of_not_piped {m : MemSys} {la : Long} (h : m.piped la = none) : m.unpipe la = m := by
  have hf : m.pipe.filter (·.la ≠ la) = m.pipe := by
    rw [List.filter_eq_self]
    intro x hx
    simp only [MemSys.piped, Option.map_eq_none_iff, List.find?_eq_none, beq_iff_eq] at h
    simpa using h x hx
  rw [MemSys.unpipe, hf]

/-- With no stale instruction words, the word that the pipeline or memory has for an address is fetched, and taken from the
pipeline. -/
theorem Flat.fetchWord (h : Flat s) {m : MemSys} (hb : m.quiet = true) (hp : m.stale = []) (su : Bool) {la : Long}
    (he : la.getLsbD 0 = false) {w : Word} (hw : ({ s with mem := m } : State).wordAt la = some w) :
    fetchWord s.ctl m su la = .ok w (m.unpipe la) := by
  have ho : ∀ (m' : MemSys) (pa : Long), m'.stale = [] → m'.olds pa = [] := fun m' pa e => by simp [MemSys.olds, e]
  unfold Sys2Proof.Machine.fetchWord
  rcases hq : m.piped la with _ | ⟨pa, bs⟩ | b
  · have e : ((State.valueAt { s with mem := m } la 2).extractLsb' 0 16) = w := by
      simpa only [State.wordAt, hq, Option.some.injEq] using hw
    rw [unpipe_of_not_piped hq]
    simp [fetchBytes, h.translate, h.fetchPiece hb su he, MRes.bind, takeWord, prefetchChoice, ho m _ hp, ← e,
      State.valueAt, State.bytesAt]
  · have e : (ofBytes bs).extractLsb' 0 16 = w := by simpa only [State.wordAt, hq, Option.some.injEq] using hw
    simp [takeWord, prefetchChoice, ho (m.unpipe la) _ hp, e]
  · simp [State.wordAt, hq] at hw

/-! ### Prefetch -/

theorem longBase_longBase (pa : Long) : (pa &&& 0xFFFFFFFC#32) &&& 0xFFFFFFFC#32 = pa &&& 0xFFFFFFFC#32 := by
  rw [BitVec.and_assoc, BitVec.and_self]

theorem longBase_add (pa : Long) (k : Nat) :
    (pa + BitVec.ofNat 32 (4 * k)) &&& 0xFFFFFFFC#32 = (pa &&& 0xFFFFFFFC#32) + BitVec.ofNat 32 (4 * k) :=
  BitVec.eq_of_toNat_eq (by
    have := pa.isLt
    rw [toNat_longBase, BitVec.toNat_add, BitVec.toNat_add, toNat_longBase]
    simp only [BitVec.toNat_ofNat]
    omega)

/-- The fetch of an aligned long word gives its bytes. -/
theorem Flat.fetchLong (h : Flat s) {m : MemSys} (hb : m.quiet = true) (su : Bool) {b : Long}
    (hz : b &&& 0xFFFFFFFC#32 = b) : fetchBytes s.ctl m su b 4 = .ok (b, getBytes m.ram 0 b 4) m := by
  have hm : b.toNat % 4 = 0 := by rw [← hz, toNat_longBase]; omega
  simp [fetchBytes, h.translate, Sys2Proof.Machine.fetchPiece, fetchPieceMade, instrTick_of_due (quiet_iff.1 hb).2.2.1,
      h.icacheOn, readCycle_quiet hb, Cycle.single, hz, hm,
    List.take_of_length_le]

/-- A prefetch puts the two words of its long word in the pipeline and changes nothing else. -/
theorem Flat.prefetch (h : Flat s) {m : MemSys} (hb : m.quiet = true) (su : Bool) {la b : Long}
    (hl : la &&& 0xFFFFFFFC#32 = b) :
    prefetch s.ctl m su la false = { m with pipe := ((m.unpipe b).unpipe (b + 2#32)).pipe ++
      [⟨b, .word b (getBytes m.ram 0 b 2)⟩, ⟨b + 2#32, .word (b + 2#32) (getBytes m.ram 0 (b + 2#32) 2)⟩] } := by
  have h1 : (getBytes m.ram 0 b 4).take 2 = getBytes m.ram 0 b 2 := rfl
  have h2 : (getBytes m.ram 0 b 4).drop 2 = getBytes m.ram 0 (b + 2#32) 2 := by
    rw [show b + 2#32 = b + 1 + 1 by bv_omega]
    rfl
  have e := h.fetchLong hb su (b := b) (by rw [← hl, longBase_longBase])
  unfold Sys2Proof.Machine.prefetch
  extract_lets la' hold
  obtain rfl : la' = b := hl
  simp only [e, h1, h2]
  rfl

/-- One long word of a row of prefetches. -/
theorem Flat.prefetchRow_succ (h : Flat s) {m : MemSys} (hb : m.quiet = true) (hf : m.pushFaults = []) (su : Bool) (k : Nat)
    (p : List PipeWord) {la b : Long} (hl : la &&& 0xFFFFFFFC#32 = b) :
    prefetchRow s.ctl su (k + 1) { m with pipe := p } la =
      prefetchRow s.ctl su k { m with pipe := (p.filter (·.la ≠ b)).filter (·.la ≠ b + 2#32) ++
        [⟨b, .word b (getBytes m.ram 0 b 2)⟩, ⟨b + 2#32, .word (b + 2#32) (getBytes m.ram 0 (b + 2#32) 2)⟩] } (la + 4) := by
  have hs := (quiet_iff.1 hb).2.2.2.1
  rw [prefetchRow, if_neg (by simp [hs, hf]), h.prefetch (by exact hb) su hl]
  rfl

/-- The refill that ends exception processing leaves the words of the first four long words in the pipeline. -/
theorem Flat.fillPipe (h : Flat s) :
    s.fillPipe = { s with mem := { s.mem with
      pipe := handlerPipe s.mem.ram s.pc, stale := s.mem.stale.filter (·.stage ≠ .synchronized) } } := by
  have next : ∀ {a b : Long}, a &&& 0xFFFFFFFC#32 = b → (a + 4) &&& 0xFFFFFFFC#32 = b + 4#32 := fun {a b} e => by
    rw [← e]; exact longBase_add a 1
  have e0 : s.pc &&& 0xFFFFFFFC#32 = s.pc &&& 0xFFFFFFFC := rfl
  have e1 := next e0
  have e2 := next e1
  have e3 := next e2
  rw [State.fillPipe, show s.mem.refill = { s.mem.refill with pipe := [] } from rfl,
    h.prefetchRow_succ (m := s.mem.refill) h.bus h.push _ 3 _ e0,
    h.prefetchRow_succ (m := s.mem.refill) h.bus h.push _ 2 _ e1,
    h.prefetchRow_succ (m := s.mem.refill) h.bus h.push _ 1 _ e2,
    h.prefetchRow_succ (m := s.mem.refill) h.bus h.push _ 0 _ e3]
  simp only [prefetchRow, handlerPipe]
  generalize s.pc &&& 0xFFFFFFFC = b
  simp [BitVec.add_assoc, List.range, List.range.loop, MemSys.refill, MemSys.flushPipe]

/-- The words of `handlerPipe` are those of memory, the first four long words from an aligned pc. -/
theorem handlerPipe_refilled (ram : List Host.Cell) (pc : Long) : Refilled ram pc (handlerPipe ram pc) := by
  refine ⟨fun w hw => ?_, fun hp => ?_⟩
  · obtain ⟨k, -, rfl⟩ := List.mem_map.1 hw
    rfl
  · have e : pc &&& 0xFFFFFFFC#32 = pc := by
      have h : pc.toNat % 4 = 0 := by simpa using congrArg BitVec.toNat hp
      exact BitVec.eq_of_toNat_eq (by rw [toNat_longBase]; omega)
    simp [handlerPipe, e]

end Sys2Proof.Machine
end

