-- ==== Sys2Proof/Laws/State.lean ====
section
/-! SUPPORT. One lemma per field per update of the state, and the laws of the registers. -/

namespace Sys2Proof.Machine

variable (s : State)

/-! ### setD -/

@[simp] theorem setD_a (n : BitVec 3) (v : Long) : (s.setD n v).a = s.a := rfl
@[simp] theorem setD_pc (n : BitVec 3) (v : Long) : (s.setD n v).pc = s.pc := rfl
@[simp] theorem setD_sr (n : BitVec 3) (v : Long) : (s.setD n v).sr = s.sr := rfl
@[simp] theorem setD_ctl (n : BitVec 3) (v : Long) : (s.setD n v).ctl = s.ctl := rfl
@[simp] theorem setD_fpu (n : BitVec 3) (v : Long) : (s.setD n v).fpu = s.fpu := rfl
@[simp] theorem setD_mem (n : BitVec 3) (v : Long) : (s.setD n v).mem = s.mem := rfl
@[simp] theorem setD_run (n : BitVec 3) (v : Long) : (s.setD n v).run = s.run := rfl
@[simp] theorem setD_trace (n : BitVec 3) (v : Long) : (s.setD n v).trace = s.trace := rfl
@[simp] theorem setD_movemEa (n : BitVec 3) (v : Long) : (s.setD n v).movemEa = s.movemEa := rfl
@[simp] theorem setD_fpDue (n : BitVec 3) (v : Long) : (s.setD n v).fpDue = s.fpDue := rfl
@[simp] theorem setD_ipl (n : BitVec 3) (v : Long) : (s.setD n v).ipl = s.ipl := rfl
@[simp] theorem setD_iplSample (n : BitVec 3) (v : Long) : (s.setD n v).iplSample = s.iplSample := rfl
@[simp] theorem setD_nmiLatch (n : BitVec 3) (v : Long) : (s.setD n v).nmiLatch = s.nmiLatch := rfl
@[simp] theorem setD_iack (n : BitVec 3) (v : Long) : (s.setD n v).iack = s.iack := rfl
@[simp] theorem setD_rsto (n : BitVec 3) (v : Long) : (s.setD n v).rsto = s.rsto := rfl
@[simp] theorem setD_modePins (n : BitVec 3) (v : Long) : (s.setD n v).modePins = s.modePins := rfl
@[simp] theorem setD_inputs (n : BitVec 3) (v : Long) : (s.setD n v).inputs = s.inputs := rfl

/-! ### setDz -/

@[simp] theorem setDz_a (z : Size) (n : BitVec 3) (v : Long) : (s.setDz z n v).a = s.a := rfl
@[simp] theorem setDz_pc (z : Size) (n : BitVec 3) (v : Long) : (s.setDz z n v).pc = s.pc := rfl
@[simp] theorem setDz_sr (z : Size) (n : BitVec 3) (v : Long) : (s.setDz z n v).sr = s.sr := rfl
@[simp] theorem setDz_ctl (z : Size) (n : BitVec 3) (v : Long) : (s.setDz z n v).ctl = s.ctl := rfl
@[simp] theorem setDz_fpu (z : Size) (n : BitVec 3) (v : Long) : (s.setDz z n v).fpu = s.fpu := rfl
@[simp] theorem setDz_mem (z : Size) (n : BitVec 3) (v : Long) : (s.setDz z n v).mem = s.mem := rfl
@[simp] theorem setDz_run (z : Size) (n : BitVec 3) (v : Long) : (s.setDz z n v).run = s.run := rfl
@[simp] theorem setDz_trace (z : Size) (n : BitVec 3) (v : Long) : (s.setDz z n v).trace = s.trace := rfl
@[simp] theorem setDz_movemEa (z : Size) (n : BitVec 3) (v : Long) : (s.setDz z n v).movemEa = s.movemEa := rfl
@[simp] theorem setDz_fpDue (z : Size) (n : BitVec 3) (v : Long) : (s.setDz z n v).fpDue = s.fpDue := rfl
@[simp] theorem setDz_ipl (z : Size) (n : BitVec 3) (v : Long) : (s.setDz z n v).ipl = s.ipl := rfl
@[simp] theorem setDz_iplSample (z : Size) (n : BitVec 3) (v : Long) : (s.setDz z n v).iplSample = s.iplSample := rfl
@[simp] theorem setDz_nmiLatch (z : Size) (n : BitVec 3) (v : Long) : (s.setDz z n v).nmiLatch = s.nmiLatch := rfl
@[simp] theorem setDz_iack (z : Size) (n : BitVec 3) (v : Long) : (s.setDz z n v).iack = s.iack := rfl
@[simp] theorem setDz_rsto (z : Size) (n : BitVec 3) (v : Long) : (s.setDz z n v).rsto = s.rsto := rfl
@[simp] theorem setDz_modePins (z : Size) (n : BitVec 3) (v : Long) : (s.setDz z n v).modePins = s.modePins := rfl
@[simp] theorem setDz_inputs (z : Size) (n : BitVec 3) (v : Long) : (s.setDz z n v).inputs = s.inputs := rfl

/-! ### setA -/

@[simp] theorem setA_d (n : BitVec 3) (v : Long) : (s.setA n v).d = s.d := rfl
@[simp] theorem setA_pc (n : BitVec 3) (v : Long) : (s.setA n v).pc = s.pc := rfl
@[simp] theorem setA_sr (n : BitVec 3) (v : Long) : (s.setA n v).sr = s.sr := rfl
@[simp] theorem setA_ctl (n : BitVec 3) (v : Long) : (s.setA n v).ctl = s.ctl := rfl
@[simp] theorem setA_fpu (n : BitVec 3) (v : Long) : (s.setA n v).fpu = s.fpu := rfl
@[simp] theorem setA_mem (n : BitVec 3) (v : Long) : (s.setA n v).mem = s.mem := rfl
@[simp] theorem setA_run (n : BitVec 3) (v : Long) : (s.setA n v).run = s.run := rfl
@[simp] theorem setA_trace (n : BitVec 3) (v : Long) : (s.setA n v).trace = s.trace := rfl
@[simp] theorem setA_movemEa (n : BitVec 3) (v : Long) : (s.setA n v).movemEa = s.movemEa := rfl
@[simp] theorem setA_fpDue (n : BitVec 3) (v : Long) : (s.setA n v).fpDue = s.fpDue := rfl
@[simp] theorem setA_ipl (n : BitVec 3) (v : Long) : (s.setA n v).ipl = s.ipl := rfl
@[simp] theorem setA_iplSample (n : BitVec 3) (v : Long) : (s.setA n v).iplSample = s.iplSample := rfl
@[simp] theorem setA_nmiLatch (n : BitVec 3) (v : Long) : (s.setA n v).nmiLatch = s.nmiLatch := rfl
@[simp] theorem setA_iack (n : BitVec 3) (v : Long) : (s.setA n v).iack = s.iack := rfl
@[simp] theorem setA_rsto (n : BitVec 3) (v : Long) : (s.setA n v).rsto = s.rsto := rfl
@[simp] theorem setA_modePins (n : BitVec 3) (v : Long) : (s.setA n v).modePins = s.modePins := rfl
@[simp] theorem setA_inputs (n : BitVec 3) (v : Long) : (s.setA n v).inputs = s.inputs := rfl

/-! ### setSr -/

@[simp] theorem setSr_d (v : Word) : (s.setSr v).d = s.d := rfl
@[simp] theorem setSr_a (v : Word) : (s.setSr v).a = s.a := rfl
@[simp] theorem setSr_pc (v : Word) : (s.setSr v).pc = s.pc := rfl
@[simp] theorem setSr_ctl (v : Word) : (s.setSr v).ctl = s.ctl := rfl
@[simp] theorem setSr_fpu (v : Word) : (s.setSr v).fpu = s.fpu := rfl
@[simp] theorem setSr_mem (v : Word) : (s.setSr v).mem = s.mem := rfl
@[simp] theorem setSr_run (v : Word) : (s.setSr v).run = s.run := rfl
@[simp] theorem setSr_trace (v : Word) : (s.setSr v).trace = s.trace := rfl
@[simp] theorem setSr_movemEa (v : Word) : (s.setSr v).movemEa = s.movemEa := rfl
@[simp] theorem setSr_fpDue (v : Word) : (s.setSr v).fpDue = s.fpDue := rfl
@[simp] theorem setSr_ipl (v : Word) : (s.setSr v).ipl = s.ipl := rfl
@[simp] theorem setSr_iplSample (v : Word) : (s.setSr v).iplSample = s.iplSample := rfl
@[simp] theorem setSr_nmiLatch (v : Word) : (s.setSr v).nmiLatch = s.nmiLatch := rfl
@[simp] theorem setSr_iack (v : Word) : (s.setSr v).iack = s.iack := rfl
@[simp] theorem setSr_rsto (v : Word) : (s.setSr v).rsto = s.rsto := rfl
@[simp] theorem setSr_modePins (v : Word) : (s.setSr v).modePins = s.modePins := rfl
@[simp] theorem setSr_inputs (v : Word) : (s.setSr v).inputs = s.inputs := rfl

/-! ### setCcr -/

@[simp] theorem setCcr_d (v : Word) : (s.setCcr v).d = s.d := rfl
@[simp] theorem setCcr_a (v : Word) : (s.setCcr v).a = s.a := rfl
@[simp] theorem setCcr_pc (v : Word) : (s.setCcr v).pc = s.pc := rfl
@[simp] theorem setCcr_ctl (v : Word) : (s.setCcr v).ctl = s.ctl := rfl
@[simp] theorem setCcr_fpu (v : Word) : (s.setCcr v).fpu = s.fpu := rfl
@[simp] theorem setCcr_mem (v : Word) : (s.setCcr v).mem = s.mem := rfl
@[simp] theorem setCcr_run (v : Word) : (s.setCcr v).run = s.run := rfl
@[simp] theorem setCcr_trace (v : Word) : (s.setCcr v).trace = s.trace := rfl
@[simp] theorem setCcr_movemEa (v : Word) : (s.setCcr v).movemEa = s.movemEa := rfl
@[simp] theorem setCcr_fpDue (v : Word) : (s.setCcr v).fpDue = s.fpDue := rfl
@[simp] theorem setCcr_ipl (v : Word) : (s.setCcr v).ipl = s.ipl := rfl
@[simp] theorem setCcr_iplSample (v : Word) : (s.setCcr v).iplSample = s.iplSample := rfl
@[simp] theorem setCcr_nmiLatch (v : Word) : (s.setCcr v).nmiLatch = s.nmiLatch := rfl
@[simp] theorem setCcr_iack (v : Word) : (s.setCcr v).iack = s.iack := rfl
@[simp] theorem setCcr_rsto (v : Word) : (s.setCcr v).rsto = s.rsto := rfl
@[simp] theorem setCcr_modePins (v : Word) : (s.setCcr v).modePins = s.modePins := rfl
@[simp] theorem setCcr_inputs (v : Word) : (s.setCcr v).inputs = s.inputs := rfl

/-! ### setXNZVC -/

@[simp] theorem setXNZVC_d (x n z v c : Bool) : (s.setXNZVC x n z v c).d = s.d := rfl
@[simp] theorem setXNZVC_a (x n z v c : Bool) : (s.setXNZVC x n z v c).a = s.a := rfl
@[simp] theorem setXNZVC_pc (x n z v c : Bool) : (s.setXNZVC x n z v c).pc = s.pc := rfl
@[simp] theorem setXNZVC_ctl (x n z v c : Bool) : (s.setXNZVC x n z v c).ctl = s.ctl := rfl
@[simp] theorem setXNZVC_fpu (x n z v c : Bool) : (s.setXNZVC x n z v c).fpu = s.fpu := rfl
@[simp] theorem setXNZVC_mem (x n z v c : Bool) : (s.setXNZVC x n z v c).mem = s.mem := rfl
@[simp] theorem setXNZVC_run (x n z v c : Bool) : (s.setXNZVC x n z v c).run = s.run := rfl
@[simp] theorem setXNZVC_trace (x n z v c : Bool) : (s.setXNZVC x n z v c).trace = s.trace := rfl
@[simp] theorem setXNZVC_movemEa (x n z v c : Bool) : (s.setXNZVC x n z v c).movemEa = s.movemEa := rfl
@[simp] theorem setXNZVC_fpDue (x n z v c : Bool) : (s.setXNZVC x n z v c).fpDue = s.fpDue := rfl
@[simp] theorem setXNZVC_ipl (x n z v c : Bool) : (s.setXNZVC x n z v c).ipl = s.ipl := rfl
@[simp] theorem setXNZVC_iplSample (x n z v c : Bool) : (s.setXNZVC x n z v c).iplSample = s.iplSample := rfl
@[simp] theorem setXNZVC_nmiLatch (x n z v c : Bool) : (s.setXNZVC x n z v c).nmiLatch = s.nmiLatch := rfl
@[simp] theorem setXNZVC_iack (x n z v c : Bool) : (s.setXNZVC x n z v c).iack = s.iack := rfl
@[simp] theorem setXNZVC_rsto (x n z v c : Bool) : (s.setXNZVC x n z v c).rsto = s.rsto := rfl
@[simp] theorem setXNZVC_modePins (x n z v c : Bool) : (s.setXNZVC x n z v c).modePins = s.modePins := rfl
@[simp] theorem setXNZVC_inputs (x n z v c : Bool) : (s.setXNZVC x n z v c).inputs = s.inputs := rfl

/-! ### setNZVC -/

@[simp] theorem setNZVC_d (n z v c : Bool) : (s.setNZVC n z v c).d = s.d := rfl
@[simp] theorem setNZVC_a (n z v c : Bool) : (s.setNZVC n z v c).a = s.a := rfl
@[simp] theorem setNZVC_pc (n z v c : Bool) : (s.setNZVC n z v c).pc = s.pc := rfl
@[simp] theorem setNZVC_ctl (n z v c : Bool) : (s.setNZVC n z v c).ctl = s.ctl := rfl
@[simp] theorem setNZVC_fpu (n z v c : Bool) : (s.setNZVC n z v c).fpu = s.fpu := rfl
@[simp] theorem setNZVC_mem (n z v c : Bool) : (s.setNZVC n z v c).mem = s.mem := rfl
@[simp] theorem setNZVC_run (n z v c : Bool) : (s.setNZVC n z v c).run = s.run := rfl
@[simp] theorem setNZVC_trace (n z v c : Bool) : (s.setNZVC n z v c).trace = s.trace := rfl
@[simp] theorem setNZVC_movemEa (n z v c : Bool) : (s.setNZVC n z v c).movemEa = s.movemEa := rfl
@[simp] theorem setNZVC_fpDue (n z v c : Bool) : (s.setNZVC n z v c).fpDue = s.fpDue := rfl
@[simp] theorem setNZVC_ipl (n z v c : Bool) : (s.setNZVC n z v c).ipl = s.ipl := rfl
@[simp] theorem setNZVC_iplSample (n z v c : Bool) : (s.setNZVC n z v c).iplSample = s.iplSample := rfl
@[simp] theorem setNZVC_nmiLatch (n z v c : Bool) : (s.setNZVC n z v c).nmiLatch = s.nmiLatch := rfl
@[simp] theorem setNZVC_iack (n z v c : Bool) : (s.setNZVC n z v c).iack = s.iack := rfl
@[simp] theorem setNZVC_rsto (n z v c : Bool) : (s.setNZVC n z v c).rsto = s.rsto := rfl
@[simp] theorem setNZVC_modePins (n z v c : Bool) : (s.setNZVC n z v c).modePins = s.modePins := rfl
@[simp] theorem setNZVC_inputs (n z v c : Bool) : (s.setNZVC n z v c).inputs = s.inputs := rfl

/-! ### setLogic -/

@[simp] theorem setLogic_d (z : Size) (r : Long) : (s.setLogic z r).d = s.d := rfl
@[simp] theorem setLogic_a (z : Size) (r : Long) : (s.setLogic z r).a = s.a := rfl
@[simp] theorem setLogic_pc (z : Size) (r : Long) : (s.setLogic z r).pc = s.pc := rfl
@[simp] theorem setLogic_ctl (z : Size) (r : Long) : (s.setLogic z r).ctl = s.ctl := rfl
@[simp] theorem setLogic_fpu (z : Size) (r : Long) : (s.setLogic z r).fpu = s.fpu := rfl
@[simp] theorem setLogic_mem (z : Size) (r : Long) : (s.setLogic z r).mem = s.mem := rfl
@[simp] theorem setLogic_run (z : Size) (r : Long) : (s.setLogic z r).run = s.run := rfl
@[simp] theorem setLogic_trace (z : Size) (r : Long) : (s.setLogic z r).trace = s.trace := rfl
@[simp] theorem setLogic_movemEa (z : Size) (r : Long) : (s.setLogic z r).movemEa = s.movemEa := rfl
@[simp] theorem setLogic_fpDue (z : Size) (r : Long) : (s.setLogic z r).fpDue = s.fpDue := rfl
@[simp] theorem setLogic_ipl (z : Size) (r : Long) : (s.setLogic z r).ipl = s.ipl := rfl
@[simp] theorem setLogic_iplSample (z : Size) (r : Long) : (s.setLogic z r).iplSample = s.iplSample := rfl
@[simp] theorem setLogic_nmiLatch (z : Size) (r : Long) : (s.setLogic z r).nmiLatch = s.nmiLatch := rfl
@[simp] theorem setLogic_iack (z : Size) (r : Long) : (s.setLogic z r).iack = s.iack := rfl
@[simp] theorem setLogic_rsto (z : Size) (r : Long) : (s.setLogic z r).rsto = s.rsto := rfl
@[simp] theorem setLogic_modePins (z : Size) (r : Long) : (s.setLogic z r).modePins = s.modePins := rfl
@[simp] theorem setLogic_inputs (z : Size) (r : Long) : (s.setLogic z r).inputs = s.inputs := rfl

/-! ### setZ -/

@[simp] theorem setZ_d (z : Bool) : (s.setZ z).d = s.d := rfl
@[simp] theorem setZ_a (z : Bool) : (s.setZ z).a = s.a := rfl
@[simp] theorem setZ_pc (z : Bool) : (s.setZ z).pc = s.pc := rfl
@[simp] theorem setZ_ctl (z : Bool) : (s.setZ z).ctl = s.ctl := rfl
@[simp] theorem setZ_fpu (z : Bool) : (s.setZ z).fpu = s.fpu := rfl
@[simp] theorem setZ_mem (z : Bool) : (s.setZ z).mem = s.mem := rfl
@[simp] theorem setZ_run (z : Bool) : (s.setZ z).run = s.run := rfl
@[simp] theorem setZ_trace (z : Bool) : (s.setZ z).trace = s.trace := rfl
@[simp] theorem setZ_movemEa (z : Bool) : (s.setZ z).movemEa = s.movemEa := rfl
@[simp] theorem setZ_fpDue (z : Bool) : (s.setZ z).fpDue = s.fpDue := rfl
@[simp] theorem setZ_ipl (z : Bool) : (s.setZ z).ipl = s.ipl := rfl
@[simp] theorem setZ_iplSample (z : Bool) : (s.setZ z).iplSample = s.iplSample := rfl
@[simp] theorem setZ_nmiLatch (z : Bool) : (s.setZ z).nmiLatch = s.nmiLatch := rfl
@[simp] theorem setZ_iack (z : Bool) : (s.setZ z).iack = s.iack := rfl
@[simp] theorem setZ_rsto (z : Bool) : (s.setZ z).rsto = s.rsto := rfl
@[simp] theorem setZ_modePins (z : Bool) : (s.setZ z).modePins = s.modePins := rfl
@[simp] theorem setZ_inputs (z : Bool) : (s.setZ z).inputs = s.inputs := rfl

/-! ### setArith -/

@[simp] theorem setArith_d (z : Size) (t : Sum) : (s.setArith z t).d = s.d := rfl
@[simp] theorem setArith_a (z : Size) (t : Sum) : (s.setArith z t).a = s.a := rfl
@[simp] theorem setArith_pc (z : Size) (t : Sum) : (s.setArith z t).pc = s.pc := rfl
@[simp] theorem setArith_ctl (z : Size) (t : Sum) : (s.setArith z t).ctl = s.ctl := rfl
@[simp] theorem setArith_fpu (z : Size) (t : Sum) : (s.setArith z t).fpu = s.fpu := rfl
@[simp] theorem setArith_mem (z : Size) (t : Sum) : (s.setArith z t).mem = s.mem := rfl
@[simp] theorem setArith_run (z : Size) (t : Sum) : (s.setArith z t).run = s.run := rfl
@[simp] theorem setArith_trace (z : Size) (t : Sum) : (s.setArith z t).trace = s.trace := rfl
@[simp] theorem setArith_movemEa (z : Size) (t : Sum) : (s.setArith z t).movemEa = s.movemEa := rfl
@[simp] theorem setArith_fpDue (z : Size) (t : Sum) : (s.setArith z t).fpDue = s.fpDue := rfl
@[simp] theorem setArith_ipl (z : Size) (t : Sum) : (s.setArith z t).ipl = s.ipl := rfl
@[simp] theorem setArith_iplSample (z : Size) (t : Sum) : (s.setArith z t).iplSample = s.iplSample := rfl
@[simp] theorem setArith_nmiLatch (z : Size) (t : Sum) : (s.setArith z t).nmiLatch = s.nmiLatch := rfl
@[simp] theorem setArith_iack (z : Size) (t : Sum) : (s.setArith z t).iack = s.iack := rfl
@[simp] theorem setArith_rsto (z : Size) (t : Sum) : (s.setArith z t).rsto = s.rsto := rfl
@[simp] theorem setArith_modePins (z : Size) (t : Sum) : (s.setArith z t).modePins = s.modePins := rfl
@[simp] theorem setArith_inputs (z : Size) (t : Sum) : (s.setArith z t).inputs = s.inputs := rfl

/-! ### setArithX -/

@[simp] theorem setArithX_d (z : Size) (t : Sum) : (s.setArithX z t).d = s.d := rfl
@[simp] theorem setArithX_a (z : Size) (t : Sum) : (s.setArithX z t).a = s.a := rfl
@[simp] theorem setArithX_pc (z : Size) (t : Sum) : (s.setArithX z t).pc = s.pc := rfl
@[simp] theorem setArithX_ctl (z : Size) (t : Sum) : (s.setArithX z t).ctl = s.ctl := rfl
@[simp] theorem setArithX_fpu (z : Size) (t : Sum) : (s.setArithX z t).fpu = s.fpu := rfl
@[simp] theorem setArithX_mem (z : Size) (t : Sum) : (s.setArithX z t).mem = s.mem := rfl
@[simp] theorem setArithX_run (z : Size) (t : Sum) : (s.setArithX z t).run = s.run := rfl
@[simp] theorem setArithX_trace (z : Size) (t : Sum) : (s.setArithX z t).trace = s.trace := rfl
@[simp] theorem setArithX_movemEa (z : Size) (t : Sum) : (s.setArithX z t).movemEa = s.movemEa := rfl
@[simp] theorem setArithX_fpDue (z : Size) (t : Sum) : (s.setArithX z t).fpDue = s.fpDue := rfl
@[simp] theorem setArithX_ipl (z : Size) (t : Sum) : (s.setArithX z t).ipl = s.ipl := rfl
@[simp] theorem setArithX_iplSample (z : Size) (t : Sum) : (s.setArithX z t).iplSample = s.iplSample := rfl
@[simp] theorem setArithX_nmiLatch (z : Size) (t : Sum) : (s.setArithX z t).nmiLatch = s.nmiLatch := rfl
@[simp] theorem setArithX_iack (z : Size) (t : Sum) : (s.setArithX z t).iack = s.iack := rfl
@[simp] theorem setArithX_rsto (z : Size) (t : Sum) : (s.setArithX z t).rsto = s.rsto := rfl
@[simp] theorem setArithX_modePins (z : Size) (t : Sum) : (s.setArithX z t).modePins = s.modePins := rfl
@[simp] theorem setArithX_inputs (z : Size) (t : Sum) : (s.setArithX z t).inputs = s.inputs := rfl

/-! ### setCompare -/

@[simp] theorem setCompare_d (z : Size) (t : Sum) : (s.setCompare z t).d = s.d := rfl
@[simp] theorem setCompare_a (z : Size) (t : Sum) : (s.setCompare z t).a = s.a := rfl
@[simp] theorem setCompare_pc (z : Size) (t : Sum) : (s.setCompare z t).pc = s.pc := rfl
@[simp] theorem setCompare_ctl (z : Size) (t : Sum) : (s.setCompare z t).ctl = s.ctl := rfl
@[simp] theorem setCompare_fpu (z : Size) (t : Sum) : (s.setCompare z t).fpu = s.fpu := rfl
@[simp] theorem setCompare_mem (z : Size) (t : Sum) : (s.setCompare z t).mem = s.mem := rfl
@[simp] theorem setCompare_run (z : Size) (t : Sum) : (s.setCompare z t).run = s.run := rfl
@[simp] theorem setCompare_trace (z : Size) (t : Sum) : (s.setCompare z t).trace = s.trace := rfl
@[simp] theorem setCompare_movemEa (z : Size) (t : Sum) : (s.setCompare z t).movemEa = s.movemEa := rfl
@[simp] theorem setCompare_fpDue (z : Size) (t : Sum) : (s.setCompare z t).fpDue = s.fpDue := rfl
@[simp] theorem setCompare_ipl (z : Size) (t : Sum) : (s.setCompare z t).ipl = s.ipl := rfl
@[simp] theorem setCompare_iplSample (z : Size) (t : Sum) : (s.setCompare z t).iplSample = s.iplSample := rfl
@[simp] theorem setCompare_nmiLatch (z : Size) (t : Sum) : (s.setCompare z t).nmiLatch = s.nmiLatch := rfl
@[simp] theorem setCompare_iack (z : Size) (t : Sum) : (s.setCompare z t).iack = s.iack := rfl
@[simp] theorem setCompare_rsto (z : Size) (t : Sum) : (s.setCompare z t).rsto = s.rsto := rfl
@[simp] theorem setCompare_modePins (z : Size) (t : Sum) : (s.setCompare z t).modePins = s.modePins := rfl
@[simp] theorem setCompare_inputs (z : Size) (t : Sum) : (s.setCompare z t).inputs = s.inputs := rfl

/-! ### setField -/

@[simp] theorem setField_d (f : Long) (w : Nat) : (s.setField f w).d = s.d := rfl
@[simp] theorem setField_a (f : Long) (w : Nat) : (s.setField f w).a = s.a := rfl
@[simp] theorem setField_pc (f : Long) (w : Nat) : (s.setField f w).pc = s.pc := rfl
@[simp] theorem setField_ctl (f : Long) (w : Nat) : (s.setField f w).ctl = s.ctl := rfl
@[simp] theorem setField_fpu (f : Long) (w : Nat) : (s.setField f w).fpu = s.fpu := rfl
@[simp] theorem setField_mem (f : Long) (w : Nat) : (s.setField f w).mem = s.mem := rfl
@[simp] theorem setField_run (f : Long) (w : Nat) : (s.setField f w).run = s.run := rfl
@[simp] theorem setField_trace (f : Long) (w : Nat) : (s.setField f w).trace = s.trace := rfl
@[simp] theorem setField_movemEa (f : Long) (w : Nat) : (s.setField f w).movemEa = s.movemEa := rfl
@[simp] theorem setField_fpDue (f : Long) (w : Nat) : (s.setField f w).fpDue = s.fpDue := rfl
@[simp] theorem setField_ipl (f : Long) (w : Nat) : (s.setField f w).ipl = s.ipl := rfl
@[simp] theorem setField_iplSample (f : Long) (w : Nat) : (s.setField f w).iplSample = s.iplSample := rfl
@[simp] theorem setField_nmiLatch (f : Long) (w : Nat) : (s.setField f w).nmiLatch = s.nmiLatch := rfl
@[simp] theorem setField_iack (f : Long) (w : Nat) : (s.setField f w).iack = s.iack := rfl
@[simp] theorem setField_rsto (f : Long) (w : Nat) : (s.setField f w).rsto = s.rsto := rfl
@[simp] theorem setField_modePins (f : Long) (w : Nat) : (s.setField f w).modePins = s.modePins := rfl
@[simp] theorem setField_inputs (f : Long) (w : Nat) : (s.setField f w).inputs = s.inputs := rfl

/-! ### refill -/

@[simp] theorem refill_d : (s.refill).d = s.d := rfl
@[simp] theorem refill_a : (s.refill).a = s.a := rfl
@[simp] theorem refill_pc : (s.refill).pc = s.pc := rfl
@[simp] theorem refill_sr : (s.refill).sr = s.sr := rfl
@[simp] theorem refill_ctl : (s.refill).ctl = s.ctl := rfl
@[simp] theorem refill_fpu : (s.refill).fpu = s.fpu := rfl
@[simp] theorem refill_run : (s.refill).run = s.run := rfl
@[simp] theorem refill_trace : (s.refill).trace = s.trace := rfl
@[simp] theorem refill_movemEa : (s.refill).movemEa = s.movemEa := rfl
@[simp] theorem refill_fpDue : (s.refill).fpDue = s.fpDue := rfl
@[simp] theorem refill_ipl : (s.refill).ipl = s.ipl := rfl
@[simp] theorem refill_iplSample : (s.refill).iplSample = s.iplSample := rfl
@[simp] theorem refill_nmiLatch : (s.refill).nmiLatch = s.nmiLatch := rfl
@[simp] theorem refill_iack : (s.refill).iack = s.iack := rfl
@[simp] theorem refill_rsto : (s.refill).rsto = s.rsto := rfl
@[simp] theorem refill_modePins : (s.refill).modePins = s.modePins := rfl
@[simp] theorem refill_inputs : (s.refill).inputs = s.inputs := rfl

/-! ### fillPipe -/

@[simp] theorem fillPipe_d : (s.fillPipe).d = s.d := rfl
@[simp] theorem fillPipe_a : (s.fillPipe).a = s.a := rfl
@[simp] theorem fillPipe_pc : (s.fillPipe).pc = s.pc := rfl
@[simp] theorem fillPipe_sr : (s.fillPipe).sr = s.sr := rfl
@[simp] theorem fillPipe_ctl : (s.fillPipe).ctl = s.ctl := rfl
@[simp] theorem fillPipe_fpu : (s.fillPipe).fpu = s.fpu := rfl
@[simp] theorem fillPipe_run : (s.fillPipe).run = s.run := rfl
@[simp] theorem fillPipe_trace : (s.fillPipe).trace = s.trace := rfl
@[simp] theorem fillPipe_movemEa : (s.fillPipe).movemEa = s.movemEa := rfl
@[simp] theorem fillPipe_fpDue : (s.fillPipe).fpDue = s.fpDue := rfl
@[simp] theorem fillPipe_ipl : (s.fillPipe).ipl = s.ipl := rfl
@[simp] theorem fillPipe_iplSample : (s.fillPipe).iplSample = s.iplSample := rfl
@[simp] theorem fillPipe_nmiLatch : (s.fillPipe).nmiLatch = s.nmiLatch := rfl
@[simp] theorem fillPipe_iack : (s.fillPipe).iack = s.iack := rfl
@[simp] theorem fillPipe_rsto : (s.fillPipe).rsto = s.rsto := rfl
@[simp] theorem fillPipe_modePins : (s.fillPipe).modePins = s.modePins := rfl
@[simp] theorem fillPipe_inputs : (s.fillPipe).inputs = s.inputs := rfl

/-! ### taken -/

@[simp] theorem taken_d (n : Nat) : (s.taken n).d = s.d := rfl
@[simp] theorem taken_a (n : Nat) : (s.taken n).a = s.a := rfl
@[simp] theorem taken_pc (n : Nat) : (s.taken n).pc = s.pc := rfl
@[simp] theorem taken_sr (n : Nat) : (s.taken n).sr = s.sr := rfl
@[simp] theorem taken_ctl (n : Nat) : (s.taken n).ctl = s.ctl := rfl
@[simp] theorem taken_fpu (n : Nat) : (s.taken n).fpu = s.fpu := rfl
@[simp] theorem taken_run (n : Nat) : (s.taken n).run = s.run := rfl
@[simp] theorem taken_trace (n : Nat) : (s.taken n).trace = s.trace := rfl
@[simp] theorem taken_movemEa (n : Nat) : (s.taken n).movemEa = s.movemEa := rfl
@[simp] theorem taken_fpDue (n : Nat) : (s.taken n).fpDue = s.fpDue := rfl
@[simp] theorem taken_ipl (n : Nat) : (s.taken n).ipl = s.ipl := rfl
@[simp] theorem taken_iplSample (n : Nat) : (s.taken n).iplSample = s.iplSample := rfl
@[simp] theorem taken_nmiLatch (n : Nat) : (s.taken n).nmiLatch = s.nmiLatch := rfl
@[simp] theorem taken_iack (n : Nat) : (s.taken n).iack = s.iack := rfl
@[simp] theorem taken_rsto (n : Nat) : (s.taken n).rsto = s.rsto := rfl
@[simp] theorem taken_modePins (n : Nat) : (s.taken n).modePins = s.modePins := rfl
@[simp] theorem taken_inputs (n : Nat) : (s.taken n).inputs = s.inputs := rfl

/-! ### started -/

@[simp] theorem started_d : s.started.d = s.d := rfl
@[simp] theorem started_a : s.started.a = s.a := rfl
@[simp] theorem started_pc : s.started.pc = s.pc := rfl
@[simp] theorem started_sr : s.started.sr = s.sr := rfl
@[simp] theorem started_ctl : s.started.ctl = s.ctl := rfl
@[simp] theorem started_fpu : s.started.fpu = s.fpu := rfl
@[simp] theorem started_run : s.started.run = s.run := rfl
@[simp] theorem started_trace : s.started.trace = s.trace := rfl
@[simp] theorem started_movemEa : s.started.movemEa = s.movemEa := rfl
@[simp] theorem started_fpDue : s.started.fpDue = s.fpDue := rfl
@[simp] theorem started_ipl : s.started.ipl = s.ipl := rfl
@[simp] theorem started_iplSample : s.started.iplSample = s.iplSample := rfl
@[simp] theorem started_nmiLatch : s.started.nmiLatch = s.nmiLatch := rfl
@[simp] theorem started_iack : s.started.iack = s.iack := rfl
@[simp] theorem started_rsto : s.started.rsto = s.rsto := rfl
@[simp] theorem started_modePins : s.started.modePins = s.modePins := rfl
@[simp] theorem started_inputs : s.started.inputs = s.inputs := rfl
@[simp] theorem started_mem_ram : s.started.mem.ram = s.mem.ram := rfl
@[simp] theorem started_mem_alt : s.started.mem.alt = s.mem.alt := rfl
@[simp] theorem started_mem_pushFaults : s.started.mem.pushFaults = s.mem.pushFaults := rfl
@[simp] theorem started_mem_stale : s.started.mem.stale = s.mem.stale := rfl
@[simp] theorem started_mem_draws : s.started.mem.draws = s.mem.draws := rfl
@[simp] theorem started_mem_pipe : s.started.mem.pipe = s.mem.pipe := rfl
@[simp] theorem started_mem_quiet : s.started.mem.quiet = s.mem.quiet := rfl
@[simp] theorem started_mem_busErrors : s.started.mem.busErrors = s.mem.busErrors := rfl
@[simp] theorem started_mem_windows : s.started.mem.windows = s.mem.windows := rfl
@[simp] theorem started_mem_serialized : s.started.mem.serialized = false := rfl
@[simp] theorem readMade_ram (m : MemSys) (cm : BitVec 2) : (m.readMade cm).ram = m.ram := rfl
@[simp] theorem readMade_alt (m : MemSys) (cm : BitVec 2) : (m.readMade cm).alt = m.alt := rfl
@[simp] theorem readMade_pushFaults (m : MemSys) (cm : BitVec 2) : (m.readMade cm).pushFaults = m.pushFaults := rfl
@[simp] theorem readMade_stale (m : MemSys) (cm : BitVec 2) : (m.readMade cm).stale = m.stale := rfl
@[simp] theorem readMade_draws (m : MemSys) (cm : BitVec 2) : (m.readMade cm).draws = m.draws := rfl
@[simp] theorem readMade_pipe (m : MemSys) (cm : BitVec 2) : (m.readMade cm).pipe = m.pipe := rfl
@[simp] theorem readMade_quiet (m : MemSys) (cm : BitVec 2) : (m.readMade cm).quiet = m.quiet := rfl

@[simp] theorem queuePush_ram (m : MemSys) (p : PushFault) : (m.queuePush p).ram = m.ram := rfl
@[simp] theorem queuePush_alt (m : MemSys) (p : PushFault) : (m.queuePush p).alt = m.alt := rfl
@[simp] theorem queuePush_pushFaults (m : MemSys) (p : PushFault) : (m.queuePush p).pushFaults = m.pushFaults ++ [p] := rfl
@[simp] theorem queuePush_serialized (m : MemSys) (p : PushFault) : (m.queuePush p).serialized = m.serialized := rfl
@[simp] theorem pushReported_ram (m : MemSys) : m.pushReported.ram = m.ram := rfl
@[simp] theorem pushReported_alt (m : MemSys) : m.pushReported.alt = m.alt := rfl
@[simp] theorem pushReported_pushFaults (m : MemSys) : m.pushReported.pushFaults = m.pushFaults.tail := rfl
@[simp] theorem pushReported_serialized (m : MemSys) : m.pushReported.serialized = m.serialized := rfl
@[simp] theorem pushReported_quiet (m : MemSys) : m.pushReported.quiet = m.quiet := rfl
@[simp] theorem pushReported_draws (m : MemSys) : m.pushReported.draws = m.draws := rfl
@[simp] theorem readMade_serialized (m : MemSys) (cm : BitVec 2) : (m.readMade cm).serialized = (m.serialized || cm == 2) := rfl

/-- After the read of a serialized page no access is aborted by a push that it forces. -/
theorem postponed_of_serialized {m : MemSys} (h : m.serialized = true) (p : PushFault) :
    (PRes.err (.push p) m : PRes Unit).postponed = .ok () (m.queuePush p) := by simp [PRes.postponed, h]

@[simp] theorem beginLocked_ram (m : MemSys) : m.beginLocked.ram = m.ram := by unfold MemSys.beginLocked; split <;> rfl
@[simp] theorem beginLocked_alt (m : MemSys) : m.beginLocked.alt = m.alt := by unfold MemSys.beginLocked; split <;> rfl
@[simp] theorem beginLocked_pushFaults (m : MemSys) : m.beginLocked.pushFaults = m.pushFaults := by
  unfold MemSys.beginLocked; split <;> rfl

/-- An instruction is given up exactly where a push waits and no serialized page has been read. -/
theorem givesUp_iff {m : MemSys} : m.givesUp = true ↔ m.pushFaults ≠ [] ∧ m.serialized = false := by
  simp [MemSys.givesUp]

/-- Where no push waits, no instruction is given up. -/
theorem givesUp_of_none {m : MemSys} (h : m.pushFaults = []) : m.givesUp = false := by simp [MemSys.givesUp, h]

/-! ### halt -/

@[simp] theorem halt_d : (s.halt).d = s.d := rfl
@[simp] theorem halt_a : (s.halt).a = s.a := rfl
@[simp] theorem halt_pc : (s.halt).pc = s.pc := rfl
@[simp] theorem halt_sr : (s.halt).sr = s.sr := rfl
@[simp] theorem halt_ctl : (s.halt).ctl = s.ctl := rfl
@[simp] theorem halt_fpu : (s.halt).fpu = s.fpu := rfl
@[simp] theorem halt_mem : (s.halt).mem = s.mem := rfl
@[simp] theorem halt_trace : (s.halt).trace = s.trace := rfl
@[simp] theorem halt_movemEa : (s.halt).movemEa = s.movemEa := rfl
@[simp] theorem halt_fpDue : (s.halt).fpDue = s.fpDue := rfl
@[simp] theorem halt_ipl : (s.halt).ipl = s.ipl := rfl
@[simp] theorem halt_iplSample : (s.halt).iplSample = s.iplSample := rfl
@[simp] theorem halt_nmiLatch : (s.halt).nmiLatch = s.nmiLatch := rfl
@[simp] theorem halt_iack : (s.halt).iack = s.iack := rfl
@[simp] theorem halt_rsto : (s.halt).rsto = s.rsto := rfl
@[simp] theorem halt_modePins : (s.halt).modePins = s.modePins := rfl
@[simp] theorem halt_inputs : (s.halt).inputs = s.inputs := rfl

/-! ### stored -/

@[simp] theorem stored_d (r : List Host.Cell) (p : List StaleWord) : (s.stored r p).d = s.d := rfl
@[simp] theorem stored_a (r : List Host.Cell) (p : List StaleWord) : (s.stored r p).a = s.a := rfl
@[simp] theorem stored_pc (r : List Host.Cell) (p : List StaleWord) : (s.stored r p).pc = s.pc := rfl
@[simp] theorem stored_sr (r : List Host.Cell) (p : List StaleWord) : (s.stored r p).sr = s.sr := rfl
@[simp] theorem stored_ctl (r : List Host.Cell) (p : List StaleWord) : (s.stored r p).ctl = s.ctl := rfl
@[simp] theorem stored_fpu (r : List Host.Cell) (p : List StaleWord) : (s.stored r p).fpu = s.fpu := rfl
@[simp] theorem stored_run (r : List Host.Cell) (p : List StaleWord) : (s.stored r p).run = s.run := rfl
@[simp] theorem stored_trace (r : List Host.Cell) (p : List StaleWord) : (s.stored r p).trace = s.trace := rfl
@[simp] theorem stored_movemEa (r : List Host.Cell) (p : List StaleWord) : (s.stored r p).movemEa = s.movemEa := rfl
@[simp] theorem stored_fpDue (r : List Host.Cell) (p : List StaleWord) : (s.stored r p).fpDue = s.fpDue := rfl
@[simp] theorem stored_ipl (r : List Host.Cell) (p : List StaleWord) : (s.stored r p).ipl = s.ipl := rfl
@[simp] theorem stored_iplSample (r : List Host.Cell) (p : List StaleWord) : (s.stored r p).iplSample = s.iplSample := rfl
@[simp] theorem stored_nmiLatch (r : List Host.Cell) (p : List StaleWord) : (s.stored r p).nmiLatch = s.nmiLatch := rfl
@[simp] theorem stored_iack (r : List Host.Cell) (p : List StaleWord) : (s.stored r p).iack = s.iack := rfl
@[simp] theorem stored_rsto (r : List Host.Cell) (p : List StaleWord) : (s.stored r p).rsto = s.rsto := rfl
@[simp] theorem stored_modePins (r : List Host.Cell) (p : List StaleWord) : (s.stored r p).modePins = s.modePins := rfl
@[simp] theorem stored_inputs (r : List Host.Cell) (p : List StaleWord) : (s.stored r p).inputs = s.inputs := rfl

/-! ### setFp -/

@[simp] theorem setFp_d (n : BitVec 3) (v : Fpr) : (s.setFp n v).d = s.d := rfl
@[simp] theorem setFp_a (n : BitVec 3) (v : Fpr) : (s.setFp n v).a = s.a := rfl
@[simp] theorem setFp_pc (n : BitVec 3) (v : Fpr) : (s.setFp n v).pc = s.pc := rfl
@[simp] theorem setFp_sr (n : BitVec 3) (v : Fpr) : (s.setFp n v).sr = s.sr := rfl
@[simp] theorem setFp_ctl (n : BitVec 3) (v : Fpr) : (s.setFp n v).ctl = s.ctl := rfl
@[simp] theorem setFp_mem (n : BitVec 3) (v : Fpr) : (s.setFp n v).mem = s.mem := rfl
@[simp] theorem setFp_run (n : BitVec 3) (v : Fpr) : (s.setFp n v).run = s.run := rfl
@[simp] theorem setFp_trace (n : BitVec 3) (v : Fpr) : (s.setFp n v).trace = s.trace := rfl
@[simp] theorem setFp_movemEa (n : BitVec 3) (v : Fpr) : (s.setFp n v).movemEa = s.movemEa := rfl
@[simp] theorem setFp_fpDue (n : BitVec 3) (v : Fpr) : (s.setFp n v).fpDue = s.fpDue := rfl
@[simp] theorem setFp_ipl (n : BitVec 3) (v : Fpr) : (s.setFp n v).ipl = s.ipl := rfl
@[simp] theorem setFp_iplSample (n : BitVec 3) (v : Fpr) : (s.setFp n v).iplSample = s.iplSample := rfl
@[simp] theorem setFp_nmiLatch (n : BitVec 3) (v : Fpr) : (s.setFp n v).nmiLatch = s.nmiLatch := rfl
@[simp] theorem setFp_iack (n : BitVec 3) (v : Fpr) : (s.setFp n v).iack = s.iack := rfl
@[simp] theorem setFp_rsto (n : BitVec 3) (v : Fpr) : (s.setFp n v).rsto = s.rsto := rfl
@[simp] theorem setFp_modePins (n : BitVec 3) (v : Fpr) : (s.setFp n v).modePins = s.modePins := rfl
@[simp] theorem setFp_inputs (n : BitVec 3) (v : Fpr) : (s.setFp n v).inputs = s.inputs := rfl

/-! ### setFpcr -/

@[simp] theorem setFpcr_d (v : Long) : (s.setFpcr v).d = s.d := rfl
@[simp] theorem setFpcr_a (v : Long) : (s.setFpcr v).a = s.a := rfl
@[simp] theorem setFpcr_pc (v : Long) : (s.setFpcr v).pc = s.pc := rfl
@[simp] theorem setFpcr_sr (v : Long) : (s.setFpcr v).sr = s.sr := rfl
@[simp] theorem setFpcr_ctl (v : Long) : (s.setFpcr v).ctl = s.ctl := rfl
@[simp] theorem setFpcr_mem (v : Long) : (s.setFpcr v).mem = s.mem := rfl
@[simp] theorem setFpcr_run (v : Long) : (s.setFpcr v).run = s.run := rfl
@[simp] theorem setFpcr_trace (v : Long) : (s.setFpcr v).trace = s.trace := rfl
@[simp] theorem setFpcr_movemEa (v : Long) : (s.setFpcr v).movemEa = s.movemEa := rfl
@[simp] theorem setFpcr_fpDue (v : Long) : (s.setFpcr v).fpDue = s.fpDue := rfl
@[simp] theorem setFpcr_ipl (v : Long) : (s.setFpcr v).ipl = s.ipl := rfl
@[simp] theorem setFpcr_iplSample (v : Long) : (s.setFpcr v).iplSample = s.iplSample := rfl
@[simp] theorem setFpcr_nmiLatch (v : Long) : (s.setFpcr v).nmiLatch = s.nmiLatch := rfl
@[simp] theorem setFpcr_iack (v : Long) : (s.setFpcr v).iack = s.iack := rfl
@[simp] theorem setFpcr_rsto (v : Long) : (s.setFpcr v).rsto = s.rsto := rfl
@[simp] theorem setFpcr_modePins (v : Long) : (s.setFpcr v).modePins = s.modePins := rfl
@[simp] theorem setFpcr_inputs (v : Long) : (s.setFpcr v).inputs = s.inputs := rfl

/-! ### setFpsr -/

@[simp] theorem setFpsr_d (v : Long) : (s.setFpsr v).d = s.d := rfl
@[simp] theorem setFpsr_a (v : Long) : (s.setFpsr v).a = s.a := rfl
@[simp] theorem setFpsr_pc (v : Long) : (s.setFpsr v).pc = s.pc := rfl
@[simp] theorem setFpsr_sr (v : Long) : (s.setFpsr v).sr = s.sr := rfl
@[simp] theorem setFpsr_ctl (v : Long) : (s.setFpsr v).ctl = s.ctl := rfl
@[simp] theorem setFpsr_mem (v : Long) : (s.setFpsr v).mem = s.mem := rfl
@[simp] theorem setFpsr_run (v : Long) : (s.setFpsr v).run = s.run := rfl
@[simp] theorem setFpsr_trace (v : Long) : (s.setFpsr v).trace = s.trace := rfl
@[simp] theorem setFpsr_movemEa (v : Long) : (s.setFpsr v).movemEa = s.movemEa := rfl
@[simp] theorem setFpsr_fpDue (v : Long) : (s.setFpsr v).fpDue = s.fpDue := rfl
@[simp] theorem setFpsr_ipl (v : Long) : (s.setFpsr v).ipl = s.ipl := rfl
@[simp] theorem setFpsr_iplSample (v : Long) : (s.setFpsr v).iplSample = s.iplSample := rfl
@[simp] theorem setFpsr_nmiLatch (v : Long) : (s.setFpsr v).nmiLatch = s.nmiLatch := rfl
@[simp] theorem setFpsr_iack (v : Long) : (s.setFpsr v).iack = s.iack := rfl
@[simp] theorem setFpsr_rsto (v : Long) : (s.setFpsr v).rsto = s.rsto := rfl
@[simp] theorem setFpsr_modePins (v : Long) : (s.setFpsr v).modePins = s.modePins := rfl
@[simp] theorem setFpsr_inputs (v : Long) : (s.setFpsr v).inputs = s.inputs := rfl

/-! ### setFpiar -/

@[simp] theorem setFpiar_d (v : Long) : (s.setFpiar v).d = s.d := rfl
@[simp] theorem setFpiar_a (v : Long) : (s.setFpiar v).a = s.a := rfl
@[simp] theorem setFpiar_pc (v : Long) : (s.setFpiar v).pc = s.pc := rfl
@[simp] theorem setFpiar_sr (v : Long) : (s.setFpiar v).sr = s.sr := rfl
@[simp] theorem setFpiar_ctl (v : Long) : (s.setFpiar v).ctl = s.ctl := rfl
@[simp] theorem setFpiar_mem (v : Long) : (s.setFpiar v).mem = s.mem := rfl
@[simp] theorem setFpiar_run (v : Long) : (s.setFpiar v).run = s.run := rfl
@[simp] theorem setFpiar_trace (v : Long) : (s.setFpiar v).trace = s.trace := rfl
@[simp] theorem setFpiar_movemEa (v : Long) : (s.setFpiar v).movemEa = s.movemEa := rfl
@[simp] theorem setFpiar_fpDue (v : Long) : (s.setFpiar v).fpDue = s.fpDue := rfl
@[simp] theorem setFpiar_ipl (v : Long) : (s.setFpiar v).ipl = s.ipl := rfl
@[simp] theorem setFpiar_iplSample (v : Long) : (s.setFpiar v).iplSample = s.iplSample := rfl
@[simp] theorem setFpiar_nmiLatch (v : Long) : (s.setFpiar v).nmiLatch = s.nmiLatch := rfl
@[simp] theorem setFpiar_iack (v : Long) : (s.setFpiar v).iack = s.iack := rfl
@[simp] theorem setFpiar_rsto (v : Long) : (s.setFpiar v).rsto = s.rsto := rfl
@[simp] theorem setFpiar_modePins (v : Long) : (s.setFpiar v).modePins = s.modePins := rfl
@[simp] theorem setFpiar_inputs (v : Long) : (s.setFpiar v).inputs = s.inputs := rfl

/-! ### setBsun -/

@[simp] theorem setBsun_d : (s.setBsun).d = s.d := rfl
@[simp] theorem setBsun_a : (s.setBsun).a = s.a := rfl
@[simp] theorem setBsun_pc : (s.setBsun).pc = s.pc := rfl
@[simp] theorem setBsun_sr : (s.setBsun).sr = s.sr := rfl
@[simp] theorem setBsun_ctl : (s.setBsun).ctl = s.ctl := rfl
@[simp] theorem setBsun_mem : (s.setBsun).mem = s.mem := rfl
@[simp] theorem setBsun_run : (s.setBsun).run = s.run := rfl
@[simp] theorem setBsun_trace : (s.setBsun).trace = s.trace := rfl
@[simp] theorem setBsun_movemEa : (s.setBsun).movemEa = s.movemEa := rfl
@[simp] theorem setBsun_fpDue : (s.setBsun).fpDue = s.fpDue := rfl
@[simp] theorem setBsun_ipl : (s.setBsun).ipl = s.ipl := rfl
@[simp] theorem setBsun_iplSample : (s.setBsun).iplSample = s.iplSample := rfl
@[simp] theorem setBsun_nmiLatch : (s.setBsun).nmiLatch = s.nmiLatch := rfl
@[simp] theorem setBsun_iack : (s.setBsun).iack = s.iack := rfl
@[simp] theorem setBsun_rsto : (s.setBsun).rsto = s.rsto := rfl
@[simp] theorem setBsun_modePins : (s.setBsun).modePins = s.modePins := rfl
@[simp] theorem setBsun_inputs : (s.setBsun).inputs = s.inputs := rfl

/-! ### beginFp -/

@[simp] theorem beginFp_d : (s.beginFp).d = s.d := rfl
@[simp] theorem beginFp_a : (s.beginFp).a = s.a := rfl
@[simp] theorem beginFp_pc : (s.beginFp).pc = s.pc := rfl
@[simp] theorem beginFp_sr : (s.beginFp).sr = s.sr := rfl
@[simp] theorem beginFp_ctl : (s.beginFp).ctl = s.ctl := rfl
@[simp] theorem beginFp_mem : (s.beginFp).mem = s.mem := rfl
@[simp] theorem beginFp_run : (s.beginFp).run = s.run := rfl
@[simp] theorem beginFp_trace : (s.beginFp).trace = s.trace := rfl
@[simp] theorem beginFp_movemEa : (s.beginFp).movemEa = s.movemEa := rfl
@[simp] theorem beginFp_fpDue : (s.beginFp).fpDue = s.fpDue := rfl
@[simp] theorem beginFp_ipl : (s.beginFp).ipl = s.ipl := rfl
@[simp] theorem beginFp_iplSample : (s.beginFp).iplSample = s.iplSample := rfl
@[simp] theorem beginFp_nmiLatch : (s.beginFp).nmiLatch = s.nmiLatch := rfl
@[simp] theorem beginFp_iack : (s.beginFp).iack = s.iack := rfl
@[simp] theorem beginFp_rsto : (s.beginFp).rsto = s.rsto := rfl
@[simp] theorem beginFp_modePins : (s.beginFp).modePins = s.modePins := rfl
@[simp] theorem beginFp_inputs : (s.beginFp).inputs = s.inputs := rfl

/-! ### post -/

@[simp] theorem post_d (v : BitVec 8) (f : FpuFrame) : (s.post v f).d = s.d := rfl
@[simp] theorem post_a (v : BitVec 8) (f : FpuFrame) : (s.post v f).a = s.a := rfl
@[simp] theorem post_pc (v : BitVec 8) (f : FpuFrame) : (s.post v f).pc = s.pc := rfl
@[simp] theorem post_sr (v : BitVec 8) (f : FpuFrame) : (s.post v f).sr = s.sr := rfl
@[simp] theorem post_ctl (v : BitVec 8) (f : FpuFrame) : (s.post v f).ctl = s.ctl := rfl
@[simp] theorem post_mem (v : BitVec 8) (f : FpuFrame) : (s.post v f).mem = s.mem := rfl
@[simp] theorem post_run (v : BitVec 8) (f : FpuFrame) : (s.post v f).run = s.run := rfl
@[simp] theorem post_trace (v : BitVec 8) (f : FpuFrame) : (s.post v f).trace = s.trace := rfl
@[simp] theorem post_movemEa (v : BitVec 8) (f : FpuFrame) : (s.post v f).movemEa = s.movemEa := rfl
@[simp] theorem post_fpDue (v : BitVec 8) (f : FpuFrame) : (s.post v f).fpDue = s.fpDue := rfl
@[simp] theorem post_ipl (v : BitVec 8) (f : FpuFrame) : (s.post v f).ipl = s.ipl := rfl
@[simp] theorem post_iplSample (v : BitVec 8) (f : FpuFrame) : (s.post v f).iplSample = s.iplSample := rfl
@[simp] theorem post_nmiLatch (v : BitVec 8) (f : FpuFrame) : (s.post v f).nmiLatch = s.nmiLatch := rfl
@[simp] theorem post_iack (v : BitVec 8) (f : FpuFrame) : (s.post v f).iack = s.iack := rfl
@[simp] theorem post_rsto (v : BitVec 8) (f : FpuFrame) : (s.post v f).rsto = s.rsto := rfl
@[simp] theorem post_modePins (v : BitVec 8) (f : FpuFrame) : (s.post v f).modePins = s.modePins := rfl
@[simp] theorem post_inputs (v : BitVec 8) (f : FpuFrame) : (s.post v f).inputs = s.inputs := rfl

/-! ### postStore -/

@[simp] theorem postStore_d (v : BitVec 8) (l : Loc) (f : FpuFrame) : (s.postStore v l f).d = s.d := rfl
@[simp] theorem postStore_a (v : BitVec 8) (l : Loc) (f : FpuFrame) : (s.postStore v l f).a = s.a := rfl
@[simp] theorem postStore_pc (v : BitVec 8) (l : Loc) (f : FpuFrame) : (s.postStore v l f).pc = s.pc := rfl
@[simp] theorem postStore_sr (v : BitVec 8) (l : Loc) (f : FpuFrame) : (s.postStore v l f).sr = s.sr := rfl
@[simp] theorem postStore_ctl (v : BitVec 8) (l : Loc) (f : FpuFrame) : (s.postStore v l f).ctl = s.ctl := rfl
@[simp] theorem postStore_mem (v : BitVec 8) (l : Loc) (f : FpuFrame) : (s.postStore v l f).mem = s.mem := rfl
@[simp] theorem postStore_run (v : BitVec 8) (l : Loc) (f : FpuFrame) : (s.postStore v l f).run = s.run := rfl
@[simp] theorem postStore_trace (v : BitVec 8) (l : Loc) (f : FpuFrame) : (s.postStore v l f).trace = s.trace := rfl
@[simp] theorem postStore_movemEa (v : BitVec 8) (l : Loc) (f : FpuFrame) : (s.postStore v l f).movemEa = s.movemEa := rfl
@[simp] theorem postStore_fpDue (v : BitVec 8) (l : Loc) (f : FpuFrame) : (s.postStore v l f).fpDue = s.fpDue := rfl
@[simp] theorem postStore_ipl (v : BitVec 8) (l : Loc) (f : FpuFrame) : (s.postStore v l f).ipl = s.ipl := rfl
@[simp] theorem postStore_iplSample (v : BitVec 8) (l : Loc) (f : FpuFrame) : (s.postStore v l f).iplSample = s.iplSample := rfl
@[simp] theorem postStore_nmiLatch (v : BitVec 8) (l : Loc) (f : FpuFrame) : (s.postStore v l f).nmiLatch = s.nmiLatch := rfl
@[simp] theorem postStore_iack (v : BitVec 8) (l : Loc) (f : FpuFrame) : (s.postStore v l f).iack = s.iack := rfl
@[simp] theorem postStore_rsto (v : BitVec 8) (l : Loc) (f : FpuFrame) : (s.postStore v l f).rsto = s.rsto := rfl
@[simp] theorem postStore_modePins (v : BitVec 8) (l : Loc) (f : FpuFrame) : (s.postStore v l f).modePins = s.modePins := rfl
@[simp] theorem postStore_inputs (v : BitVec 8) (l : Loc) (f : FpuFrame) : (s.postStore v l f).inputs = s.inputs := rfl

/-! ### draw -/

@[simp] theorem draw_d (w : Nat) : (s.draw w).2.d = s.d := rfl
@[simp] theorem draw_a (w : Nat) : (s.draw w).2.a = s.a := rfl
@[simp] theorem draw_pc (w : Nat) : (s.draw w).2.pc = s.pc := rfl
@[simp] theorem draw_sr (w : Nat) : (s.draw w).2.sr = s.sr := rfl
@[simp] theorem draw_ctl (w : Nat) : (s.draw w).2.ctl = s.ctl := rfl
@[simp] theorem draw_fpu (w : Nat) : (s.draw w).2.fpu = s.fpu := rfl
@[simp] theorem draw_run (w : Nat) : (s.draw w).2.run = s.run := rfl
@[simp] theorem draw_trace (w : Nat) : (s.draw w).2.trace = s.trace := rfl
@[simp] theorem draw_movemEa (w : Nat) : (s.draw w).2.movemEa = s.movemEa := rfl
@[simp] theorem draw_fpDue (w : Nat) : (s.draw w).2.fpDue = s.fpDue := rfl
@[simp] theorem draw_ipl (w : Nat) : (s.draw w).2.ipl = s.ipl := rfl
@[simp] theorem draw_iplSample (w : Nat) : (s.draw w).2.iplSample = s.iplSample := rfl
@[simp] theorem draw_nmiLatch (w : Nat) : (s.draw w).2.nmiLatch = s.nmiLatch := rfl
@[simp] theorem draw_iack (w : Nat) : (s.draw w).2.iack = s.iack := rfl
@[simp] theorem draw_rsto (w : Nat) : (s.draw w).2.rsto = s.rsto := rfl
@[simp] theorem draw_modePins (w : Nat) : (s.draw w).2.modePins = s.modePins := rfl
@[simp] theorem draw_inputs (w : Nat) : (s.draw w).2.inputs = s.inputs := rfl
@[simp] theorem draw_mem_ram (w : Nat) : (s.draw w).2.mem.ram = s.mem.ram := rfl
@[simp] theorem draw_mem_alt (w : Nat) : (s.draw w).2.mem.alt = s.mem.alt := rfl
@[simp] theorem draw_mem_pushFaults (w : Nat) : (s.draw w).2.mem.pushFaults = s.mem.pushFaults := rfl
@[simp] theorem draw_mem_quiet (w : Nat) : (s.draw w).2.mem.quiet = s.mem.quiet := rfl
@[simp] theorem draw_mem_stale (w : Nat) : (s.draw w).2.mem.stale = s.mem.stale := rfl
@[simp] theorem refill_mem_alt : (s.refill).mem.alt = s.mem.alt := rfl
@[simp] theorem refill_mem_pushFaults : (s.refill).mem.pushFaults = s.mem.pushFaults := rfl
@[simp] theorem refill_mem_draws : (s.refill).mem.draws = s.mem.draws := rfl
@[simp] theorem stored_mem_alt (r : List Host.Cell) (p : List StaleWord) : (s.stored r p).mem.alt = s.mem.alt := rfl
@[simp] theorem stored_mem_pushFaults (r : List Host.Cell) (p : List StaleWord) : (s.stored r p).mem.pushFaults = s.mem.pushFaults := rfl
@[simp] theorem stored_mem_quiet (r : List Host.Cell) (p : List StaleWord) : (s.stored r p).mem.quiet = s.mem.quiet := rfl
@[simp] theorem stored_mem_draws (r : List Host.Cell) (p : List StaleWord) : (s.stored r p).mem.draws = s.mem.draws := rfl
@[simp] theorem refill_mem_pipe : s.refill.mem.pipe = [] := rfl
@[simp] theorem flushPipe_ram (m : MemSys) : (m.flushPipe).ram = m.ram := rfl
@[simp] theorem flushPipe_alt (m : MemSys) : (m.flushPipe).alt = m.alt := rfl
@[simp] theorem flushPipe_pushFaults (m : MemSys) : (m.flushPipe).pushFaults = m.pushFaults := rfl
@[simp] theorem flushPipe_stale (m : MemSys) : (m.flushPipe).stale = m.stale := rfl
@[simp] theorem flushPipe_draws (m : MemSys) : (m.flushPipe).draws = m.draws := rfl
@[simp] theorem unpipe_ram (m : MemSys) (la : Long) : (m.unpipe la).ram = m.ram := rfl
@[simp] theorem unpipe_alt (m : MemSys) (la : Long) : (m.unpipe la).alt = m.alt := rfl
@[simp] theorem unpipe_pushFaults (m : MemSys) (la : Long) : (m.unpipe la).pushFaults = m.pushFaults := rfl
@[simp] theorem unpipe_stale (m : MemSys) (la : Long) : (m.unpipe la).stale = m.stale := rfl
@[simp] theorem unpipe_draws (m : MemSys) (la : Long) : (m.unpipe la).draws = m.draws := rfl
@[simp] theorem synchronize_ram (m : MemSys) : (m.synchronize).ram = m.ram := rfl
@[simp] theorem synchronize_alt (m : MemSys) : (m.synchronize).alt = m.alt := rfl
@[simp] theorem synchronize_pushFaults (m : MemSys) : (m.synchronize).pushFaults = m.pushFaults := rfl
@[simp] theorem synchronize_draws (m : MemSys) : (m.synchronize).draws = m.draws := rfl
@[simp] theorem notedWindow_ram (m : MemSys) (pa : Long) (bs : List Byte) : (m.notedWindow pa bs).ram = m.ram := rfl
@[simp] theorem notedWindow_alt (m : MemSys) (pa : Long) (bs : List Byte) : (m.notedWindow pa bs).alt = m.alt := rfl
@[simp] theorem notedWindow_pushFaults (m : MemSys) (pa : Long) (bs : List Byte) : (m.notedWindow pa bs).pushFaults = m.pushFaults := rfl
@[simp] theorem notedWindow_quiet (m : MemSys) (pa : Long) (bs : List Byte) : (m.notedWindow pa bs).quiet = m.quiet := rfl
@[simp] theorem notedWindow_draws (m : MemSys) (pa : Long) (bs : List Byte) : (m.notedWindow pa bs).draws = m.draws := rfl
@[simp] theorem flushPipe_pipe (m : MemSys) : m.flushPipe.pipe = [] := rfl
@[simp] theorem flushPipe_quiet (m : MemSys) : m.flushPipe.quiet = m.quiet := rfl
@[simp] theorem unpipe_quiet (m : MemSys) (la : Long) : (m.unpipe la).quiet = m.quiet := rfl
@[simp] theorem refill_mem_quiet : s.refill.mem.quiet = s.mem.quiet := rfl
@[simp] theorem refill_mem_ram : s.refill.mem.ram = s.mem.ram := rfl
@[simp] theorem stored_mem_ram (r : List Host.Cell) (p : List StaleWord) : (s.stored r p).mem.ram = r := rfl

/-- The words that several addresses name leave the pipeline, and nothing else changes. -/
theorem foldl_unpipe (f : Nat → Long) : ∀ (l : List Nat) (m : MemSys),
    l.foldl (fun m k => m.unpipe (f k)) m = { m with pipe := m.pipe.filter fun w => l.all fun k => w.la ≠ f k }
  | [], m => by simp
  | k :: l, m => by
    rw [List.foldl_cons, foldl_unpipe f l]
    simp [MemSys.unpipe, List.filter_filter, Bool.and_comm]

/-- Taking instruction words from the pipeline changes the pipeline only. -/
theorem taken_eq (n : Nat) : s.taken n =
    { s with mem := { s.mem with pipe := s.mem.pipe.filter fun w => (List.range n).all fun k => w.la ≠ s.after k } } := by
  rw [State.taken, foldl_unpipe]

/-! ### What an update writes -/

@[simp] theorem setD_d (n : BitVec 3) (v : Long) : (s.setD n v).d = s.d.set n v := rfl
@[simp] theorem setDz_d (z : Size) (n : BitVec 3) (v : Long) : (s.setDz z n v).d = s.d.set n (z.merge (s.getD n) v) := rfl
@[simp] theorem setA_a (n : BitVec 3) (v : Long) : (s.setA n v).a = s.a.set s.sr n v := rfl
@[simp] theorem setSr_sr (v : Word) : (s.setSr v).sr = v &&& srMask := rfl
@[simp] theorem halt_run : s.halt.run = .halted := rfl
@[simp] theorem setFp_fp (n : BitVec 3) (v : Fpr) : (s.setFp n v).fpu.fp = s.fpu.fp.set n v := rfl
@[simp] theorem setFpcr_fpcr (v : Long) : (s.setFpcr v).fpu.fpcr = v &&& 0x0000FFF0 := rfl
@[simp] theorem setFpsr_fpsr (v : Long) : (s.setFpsr v).fpu.fpsr = v := rfl
@[simp] theorem setFpiar_fpiar (v : Long) : (s.setFpiar v).fpu.fpiar = v := rfl

/-! ### Registers -/

/-- A register number is one of eight. -/
theorem reg_cases (n : BitVec 3) : n = 0 ∨ n = 1 ∨ n = 2 ∨ n = 3 ∨ n = 4 ∨ n = 5 ∨ n = 6 ∨ n = 7 := by
  revert n; decide

@[simp] theorem Bank.get_set_self {α : Type} (b : Bank α) (n : BitVec 3) (v : α) : (b.set n v).get n = v := by
  rcases reg_cases n with h | h | h | h | h | h | h | h <;> subst h <;> rfl

theorem Bank.get_set_of_ne {α : Type} (b : Bank α) {n m : BitVec 3} (v : α) (h : m ≠ n) :
    (b.set n v).get m = b.get m := by
  rcases reg_cases n with hn | hn | hn | hn | hn | hn | hn | hn <;> subst hn <;>
    rcases reg_cases m with hm | hm | hm | hm | hm | hm | hm | hm <;> subst hm <;> first | rfl | exact absurd rfl h

@[simp] theorem getD_setD_self (n : BitVec 3) (v : Long) : (s.setD n v).getD n = v := Bank.get_set_self _ _ _

theorem getD_setD_of_ne {n m : BitVec 3} (v : Long) (h : m ≠ n) : (s.setD n v).getD m = s.getD m :=
  Bank.get_set_of_ne _ _ h

@[simp] theorem getFp_setFp_self (n : BitVec 3) (v : Fpr) : (s.setFp n v).getFp n = v := Bank.get_set_self _ _ _

theorem getFp_setFp_of_ne {n m : BitVec 3} (v : Fpr) (h : m ≠ n) : (s.setFp n v).getFp m = s.getFp m :=
  Bank.get_set_of_ne _ _ h

@[simp] theorem AddrRegs.get_set_self (a : AddrRegs) (sr : Word) (n : BitVec 3) (v : Long) :
    (a.set sr n v).get sr n = v := by
  rcases reg_cases n with h | h | h | h | h | h | h | h <;> subst h <;> try rfl
  simp only [AddrRegs.set, AddrRegs.get, show (7 : BitVec 3).toNat = 7 from rfl]
  split
  · rfl
  · split <;> rfl

theorem AddrRegs.get_set_of_ne (a : AddrRegs) (sr : Word) {n m : BitVec 3} (v : Long) (h : m ≠ n) :
    (a.set sr n v).get sr m = a.get sr m := by
  have h7 : ∀ k : BitVec 3, k ≠ 7 → (a.set sr 7 v).get sr k = a.get sr k := by
    intro k hk
    simp only [AddrRegs.set, show (7 : BitVec 3).toNat = 7 from rfl]
    rcases reg_cases k with hm | hm | hm | hm | hm | hm | hm | hm <;> subst hm <;>
      first | exact absurd rfl hk | (split <;> [rfl; (split <;> rfl)])
  rcases reg_cases n with hn | hn | hn | hn | hn | hn | hn | hn <;> subst hn
  case inr.inr.inr.inr.inr.inr.inr => exact h7 m h
  all_goals
    rcases reg_cases m with hm | hm | hm | hm | hm | hm | hm | hm <;> subst hm <;> first | rfl | exact absurd rfl h

@[simp] theorem getA_setA_self (n : BitVec 3) (v : Long) : (s.setA n v).getA n = v := AddrRegs.get_set_self _ _ _ _

theorem getA_setA_of_ne {n m : BitVec 3} (v : Long) (h : m ≠ n) : (s.setA n v).getA m = s.getA m :=
  AddrRegs.get_set_of_ne _ _ _ h

end Sys2Proof.Machine
end

