-- ==== Sys2Proof/Laws/Flags.lean ====
section
/-! SUPPORT. The laws of the condition codes: what an update of them writes, and that it leaves the rest of the
status register, and so the choice of stack pointer, alone. -/

namespace Sys2Proof.Machine

variable (s : State)

section bits
variable (h : BitVec 11) (x n z v c : Bool)

theorem ccr_bit (k : Nat) :
    (h ++ BitVec.ofBool x ++ BitVec.ofBool n ++ BitVec.ofBool z ++ BitVec.ofBool v ++ BitVec.ofBool c : Word).getLsbD k =
      if k = 0 then c else if k = 1 then v else if k = 2 then z else if k = 3 then n else if k = 4 then x
      else h.getLsbD (k - 5) := by
  simp only [BitVec.getLsbD_append, BitVec.getLsbD_ofBool]
  rcases k with _ | _ | _ | _ | _ | k
  · simp
  · simp
  · simp
  · simp
  · simp
  · simp

end bits

@[simp] theorem setXNZVC_flagX (x n z v c : Bool) : (s.setXNZVC x n z v c).flagX = x := by
  simp [State.flagX, State.setXNZVC, ccr_bit, -BitVec.getLsbD_eq_getElem]
@[simp] theorem setXNZVC_flagN (x n z v c : Bool) : (s.setXNZVC x n z v c).flagN = n := by
  simp [State.flagN, State.setXNZVC, ccr_bit, -BitVec.getLsbD_eq_getElem]
@[simp] theorem setXNZVC_flagZ (x n z v c : Bool) : (s.setXNZVC x n z v c).flagZ = z := by
  simp [State.flagZ, State.setXNZVC, ccr_bit, -BitVec.getLsbD_eq_getElem]
@[simp] theorem setXNZVC_flagV (x n z v c : Bool) : (s.setXNZVC x n z v c).flagV = v := by
  simp [State.flagV, State.setXNZVC, ccr_bit, -BitVec.getLsbD_eq_getElem]
@[simp] theorem setXNZVC_flagC (x n z v c : Bool) : (s.setXNZVC x n z v c).flagC = c := by
  simp [State.flagC, State.setXNZVC, ccr_bit, -BitVec.getLsbD_eq_getElem]

/-- The system byte and the bits above the condition codes stay. -/
theorem setXNZVC_high (x n z v c : Bool) (k : Nat) (h : 5 ≤ k) :
    (s.setXNZVC x n z v c).sr.getLsbD k = s.sr.getLsbD k := by
  simp only [State.setXNZVC, ccr_bit, BitVec.getLsbD_extractLsb']
  rw [if_neg (by omega), if_neg (by omega), if_neg (by omega), if_neg (by omega), if_neg (by omega)]
  by_cases hk : k < 16
  · rw [show 5 + (k - 5) = k by omega]
    simp [show k - 5 < 11 by omega]
  · simp [show ¬ k - 5 < 11 by omega, BitVec.getLsbD_of_ge _ _ (show 16 ≤ k by omega)]

@[simp] theorem setXNZVC_supervisor (x n z v c : Bool) : supervisor (s.setXNZVC x n z v c).sr = supervisor s.sr :=
  setXNZVC_high s x n z v c 13 (by omega)
@[simp] theorem setXNZVC_master (x n z v c : Bool) : master (s.setXNZVC x n z v c).sr = master s.sr :=
  setXNZVC_high s x n z v c 12 (by omega)

/-- A register is read the same under status registers that select the same stack pointer. -/
theorem AddrRegs.get_congr (a : AddrRegs) {sr sr' : Word} (hs : supervisor sr' = supervisor sr)
    (hm : master sr' = master sr) (n : BitVec 3) : a.get sr' n = a.get sr n := by
  simp only [AddrRegs.get, hs, hm]

theorem AddrRegs.set_congr (a : AddrRegs) {sr sr' : Word} (hs : supervisor sr' = supervisor sr)
    (hm : master sr' = master sr) (n : BitVec 3) (v : Long) : a.set sr' n v = a.set sr n v := by
  simp only [AddrRegs.set, hs, hm]

@[simp] theorem AddrRegs.get_setXNZVC (a : AddrRegs) (x n z v c : Bool) (k : BitVec 3) :
    a.get (s.setXNZVC x n z v c).sr k = a.get s.sr k := AddrRegs.get_congr a (by simp) (by simp) k

@[simp] theorem AddrRegs.set_setXNZVC (a : AddrRegs) (x n z v c : Bool) (k : BitVec 3) (w : Long) :
    a.set (s.setXNZVC x n z v c).sr k w = a.set s.sr k w := AddrRegs.set_congr a (by simp) (by simp) k w

/-! ### The named updates -/

@[simp] theorem setNZVC_flagX (n z v c : Bool) : (s.setNZVC n z v c).flagX = s.flagX := setXNZVC_flagX s _ _ _ _ _
@[simp] theorem setNZVC_flagN (n z v c : Bool) : (s.setNZVC n z v c).flagN = n := setXNZVC_flagN s _ _ _ _ _
@[simp] theorem setNZVC_flagZ (n z v c : Bool) : (s.setNZVC n z v c).flagZ = z := setXNZVC_flagZ s _ _ _ _ _
@[simp] theorem setNZVC_flagV (n z v c : Bool) : (s.setNZVC n z v c).flagV = v := setXNZVC_flagV s _ _ _ _ _
@[simp] theorem setNZVC_flagC (n z v c : Bool) : (s.setNZVC n z v c).flagC = c := setXNZVC_flagC s _ _ _ _ _

theorem setNZVC_eq (n z v c : Bool) : s.setNZVC n z v c = s.setXNZVC s.flagX n z v c := rfl
theorem setLogic_eq (z : Size) (r : Long) : s.setLogic z r = s.setNZVC (z.msb r) (z.isZero r) false false := rfl
theorem setZ_eq (z : Bool) : s.setZ z = s.setNZVC s.flagN z s.flagV s.flagC := rfl
theorem setArith_eq (z : Size) (t : Sum) :
    s.setArith z t = s.setXNZVC t.c (z.msb t.r) (z.isZero t.r) t.v t.c := rfl
theorem setArithX_eq (z : Size) (t : Sum) :
    s.setArithX z t = s.setXNZVC t.c (z.msb t.r) (s.flagZ && z.isZero t.r) t.v t.c := rfl
theorem setCompare_eq (z : Size) (t : Sum) : s.setCompare z t = s.setNZVC (z.msb t.r) (z.isZero t.r) t.v t.c := rfl

/-- Two states that agree on the status register and the address registers read address registers alike. -/
theorem getA_congr {t : State} (ha : t.a = s.a) (hs : t.sr = s.sr) (n : BitVec 3) : t.getA n = s.getA n := by
  simp [State.getA, ha, hs]

end Sys2Proof.Machine
end

