-- ==== Sys2Proof/Laws/FloatFrame.lean ====
section
/-! SUPPORT. The layouts of the FPU state frames: whatever the configuration chooses, no two fields share a bit, and each
field that a frame holds lies in it (61_fp_exceptions R1261). -/

namespace Sys2Proof.Machine

theorem busyOffset_isLayout : isLayout 768 (List.range 22) busyOffset = true := by
  unfold busyOffset
  split
  · assumption
  · decide +kernel

theorem unimpOffset_isLayout : isLayout 320 unimpFields unimpOffset = true := by
  unfold unimpOffset
  split
  · assumption
  · decide +kernel

end Sys2Proof.Machine
end

