-- ==== Sys2Proof/Laws/Ops.lean ====
section
/-! SUPPORT. For each shared operation, once, everything it does in the flat configuration: operands are evaluated and
read, writes are made, and the instruction completes. -/

namespace Sys2Proof.Machine

variable {s : State}

/-- The same state but for the address registers. -/
abbrev State.withA (s : State) (a : AddrRegs) : State := { s with a := a }

theorem Flat.withA (h : Flat s) (a : AddrRegs) : Flat (s.withA a) := h.of_eq rfl rfl rfl

theorem setA_eq_withA (n : BitVec 3) (v : Long) : s.setA n v = s.withA (s.a.set s.sr n v) := rfl

/-! ### Operands -/

@[simp] theorem orAbort_ok {α : Type} (s0 : State) (a : α) (s : State) (k : α → State → Out) :
    orAbort s0 (.ok a s) k = k a s := rfl

@[simp] theorem Res.bind_ok {α β : Type} (a : α) (s : State) (k : α → State → Res β) : (Res.ok a s).bind k = k a s := rfl

theorem indexedEa_flat (h : Flat s) (base : Long) (x : IndexExt) : ∃ a, indexedEa s base x = .ok a s := by
  unfold indexedEa
  split
  · exact ⟨_, rfl⟩
  · extract_lets b i
    split
    · exact ⟨_, rfl⟩
    · rw [h.read]; exact ⟨_, rfl⟩
    · rw [h.read]; exact ⟨_, rfl⟩

/-- Every effective address can be evaluated; only an address register may change. -/
theorem evalEa_flat (h : Flat s) (e : Ea) (n : Nat) (pcv : Long) :
    ∃ l a, evalEa s e n pcv = .ok l (s.withA a) := by
  unfold evalEa
  split
  case h_7 r x =>
    obtain ⟨a, ha⟩ := indexedEa_flat h (s.getA r) x
    rw [ha]; exact ⟨_, s.a, rfl⟩
  case h_11 x =>
    obtain ⟨a, ha⟩ := indexedEa_flat h pcv x
    rw [ha]; exact ⟨_, s.a, rfl⟩
  all_goals first | exact ⟨_, s.a, rfl⟩ | exact ⟨_, _, rfl⟩

theorem controlEa_flat (h : Flat s) (e : Ea) (pcv : Long) : ∃ x a, controlEa s e pcv = .ok x (s.withA a) := by
  obtain ⟨l, a, e⟩ := evalEa_flat h e 0 pcv
  exact ⟨l.addr, a, by simp [controlEa, e]⟩

theorem readLoc_flat (h : Flat s) (z : Size) (l : Loc) : ∃ v, readLoc s z l = .ok v s := by
  unfold readLoc
  split
  · exact ⟨_, rfl⟩
  · exact ⟨_, rfl⟩
  · exact ⟨_, h.read _ _⟩
  · exact ⟨_, rfl⟩

/-- Every operand can be read; only an address register may change. -/
theorem readEa_flat (h : Flat s) (z : Size) (e : Ea) (pre : Nat) (pc : Long) :
    ∃ l v a, readEa s z e pre pc = .ok (l, v) (s.withA a) := by
  obtain ⟨l, a, he⟩ := evalEa_flat h e z.bytes (pc + BitVec.ofNat 32 (2 * pre))
  obtain ⟨v, hv⟩ := readLoc_flat (h.withA a) z l
  exact ⟨l, v, a, by simp [readEa, he, hv]⟩

/-! ### The end of an instruction -/

/-- A state that differs from `u` in what `CompletesAs` leaves open before the end of the instruction: free values
drawn, and stale instruction words. -/
def Near (u s : State) : Prop := ∃ p k, s = { u with mem := { u.mem with stale := p, draws := k } }

theorem Near.refl (u : State) : Near u u := ⟨_, _, rfl⟩

theorem endInstr_completes (s0 : State) (flow : Bool) (he : s.pc.getLsbD 0 = false) :
    CompletesAs s s.pc (endInstr s0 s flow) := by
  unfold endInstr endInstrEa
  extract_lets t1 t2
  have hn : ∃ tr k, t1 = { s with trace := tr, mem := { s.mem with draws := k } } := by
    simp only [t1, State.settleTrace]
    by_cases hk : s0.sr.extractLsb' 14 2 = 3
    · rw [if_pos hk]; exact ⟨_, _, rfl⟩
    · rw [if_neg hk]; exact ⟨_, s.mem.draws, rfl⟩
  obtain ⟨tr, k, hk⟩ := hn
  have h1 : t1.pc.getLsbD 0 = false := by rw [hk]; exact he
  simp only [h1, Bool.false_and, Bool.false_eq_true, if_false]
  unfold CompletesAs
  simp only [t2, hk]
  split
  · exact ⟨_, _, _, _, .inr rfl, rfl⟩
  · exact ⟨_, _, _, _, .inl rfl, rfl⟩

theorem CompletesAs.of_near {u v t : State} {pc : Long} (h : CompletesAs v pc t) (hn : Near u v) : CompletesAs u pc t := by
  obtain ⟨tr, p, k, q, hq, e⟩ := h
  obtain ⟨p', k', e'⟩ := hn
  subst e'
  exact ⟨tr, p, k, q, hq, e⟩

/-- An instruction whose writes are all made completes. -/
theorem complete_flat (h : Flat s) (s0 : State) (he : s.pc.getLsbD 0 = false) {ws : List Write}
    (hw : ∀ w ∈ ws, w.acc.tt ≠ 2) (flow : Bool) :
    ∃ t, complete s0 s ws flow = .next t ∧
      CompletesAs { s with mem := { s.mem with ram := ramAfter s.mem.ram ws } } s.pc t := by
  obtain ⟨p, e⟩ := Flat.writeAll h hw
  refine ⟨endInstr s0 (s.stored (ramAfter s.mem.ram ws) p) flow, by simp only [complete, e], ?_⟩
  exact (endInstr_completes (s := s.stored (ramAfter s.mem.ram ws) p) s0 flow he).of_near ⟨p, s.mem.draws, rfl⟩

theorem completeOrAbort_flat (h : Flat s) (s0 : State) (he : s.pc.getLsbD 0 = false) {ws : List Write}
    (hw : ∀ w ∈ ws, w.acc.tt ≠ 2) (flow : Bool) :
    ∃ t, completeOrAbort s0 s ws flow = .next t ∧
      CompletesAs { s with mem := { s.mem with ram := ramAfter s.mem.ram ws } } s.pc t := by
  obtain ⟨p, e⟩ := Flat.writeAll h hw
  refine ⟨endInstr s0 (s.stored (ramAfter s.mem.ram ws) p) flow, by simp only [completeOrAbort, e], ?_⟩
  exact (endInstr_completes (s := s.stored (ramAfter s.mem.ram ws) p) s0 flow he).of_near ⟨p, s.mem.draws, rfl⟩

/-- Adding a whole number of words keeps an address even. -/
theorem even_add (a : Long) (n : Nat) (h : a.getLsbD 0 = false) : (a + BitVec.ofNat 32 (2 * n)).getLsbD 0 = false := by
  have ha : a.toNat % 2 = 0 := by
    have := h; simp only [BitVec.getLsbD, Nat.testBit_zero, decide_eq_false_iff_not] at this; omega
  simp only [BitVec.getLsbD, Nat.testBit_zero, decide_eq_false_iff_not, BitVec.toNat_add, BitVec.toNat_ofNat]
  omega

theorem Ready.after_even (h : Ready s) (n : Nat) : (s.after n).getLsbD 0 = false := even_add s.pc n h.even

/-- Moving on without a write. -/
theorem next_flat {s0 : State} (h0 : Ready s0) (h : Flat s) (n : Nat) :
    ∃ t, next s0 s n = .next t ∧ CompletesAs s (s0.after n) t := by
  obtain ⟨t, e, ht⟩ := complete_flat (s := { s with pc := s0.after n }) (h.of_eq rfl rfl rfl) s0
    (h0.after_even n) (ws := []) (by simp) false
  exact ⟨t, e, ht⟩

/-- Moving on after writes. -/
theorem nextWith_flat {s0 : State} (h0 : Ready s0) (h : Flat s) (n : Nat) {ws : List Write}
    (hw : ∀ w ∈ ws, w.acc.tt ≠ 2) :
    ∃ t, nextWith s0 s n ws = .next t ∧
      CompletesAs { s with mem := { s.mem with ram := ramAfter s.mem.ram ws } } (s0.after n) t := by
  obtain ⟨t, e, ht⟩ := complete_flat (s := { s with pc := s0.after n }) (h.of_eq rfl rfl rfl) s0
    (h0.after_even n) hw false
  exact ⟨t, e, ht⟩

/-- Going to an even target. -/
theorem jump_flat {s0 : State} (h : Flat s) {target : Long} (ht : target.getLsbD 0 = false) {ws : List Write}
    (hw : ∀ w ∈ ws, w.acc.tt ≠ 2) :
    ∃ t, jump s0 s target ws = .next t ∧
      CompletesAs { s with mem := { s.mem with ram := ramAfter s.mem.ram ws } } target t := by
  obtain ⟨t, e, hc⟩ := complete_flat (s := { s with pc := target }) (h.of_eq rfl rfl rfl) s0 ht hw true
  exact ⟨t, e, hc⟩

/-- A write of an operand is one of physical memory. -/
theorem writeOf_tt (s : State) (a : Long) (n : Nat) (v : Long) : (s.writeOf a n v).acc.tt ≠ 2 := by
  simp [State.writeOf, State.access]

/-! ### Memory after a store -/

theorem putBytes_same {s t : State} {a : Long} {bs : List Byte} {n : Nat} (hn : bs.length = n)
    (h : t.mem.ram = putBytes s.mem.ram 0 a bs) : SameBytesBut s t a n := by
  intro b hb
  subst hn
  have := cellGet_putBytes_of_not_inRange (base := 0) (l := s.mem.ram) hb
  simpa [State.byteAt, h] using this

/-- A store of an operand changes its bytes and no other. -/
theorem storesAt_of_ram {s t : State} {a : Long} {n : Nat} {v : Long} (hn : n ≤ 16)
    (h : t.mem.ram = putBytes s.mem.ram 0 a (toBytes v n)) : StoresAt s t a n v := by
  refine ⟨putBytes_same (by simp) h, fun hw => ?_⟩
  have := getBytes_putBytes (base := 0) (bs := toBytes v n) (l := s.mem.ram) (a := a) hw.1 (by simp; omega)
  simpa [State.bytesAt, h] using this

theorem sameBytes_of_ram {s t : State} (h : t.mem.ram = s.mem.ram) : SameBytes s t := by
  intro b
  simp [State.byteAt, h]

/-! ### Shapes of instructions -/

/-- A computation that sets flags, and may draw free values, and does nothing else. -/
def FlagsOnly (f : State → Long → Long → State × Long) : Prop :=
  ∀ s a b, ∃ sr k, (f s a b).1 = { s with sr := sr, mem := { s.mem with draws := k } }

/-- `<ea> op Dn → Dn`. -/
theorem eaToDn_flat (h : Ready s) (z : Size) (ea : Ea) (dn : BitVec 3) {f : State → Long → Long → State × Long}
    (hf : FlagsOnly f) :
    ∃ l v a t, Reads s z ea 1 l v a ∧ eaToDn s z ea dn f = .next t ∧
      CompletesAs (s.put a (f (s.withA a) v (z.trunc (s.getD dn))).1.sr z (.d dn)
        (f (s.withA a) v (z.trunc (s.getD dn))).2) (s.after (eaLength 1 z ea)) t := by
  obtain ⟨l, v, a, e⟩ := readEa_flat h.flat z ea 1 s.pc
  obtain ⟨sr, k, hs⟩ := hf (s.withA a) v (z.trunc (s.getD dn))
  have hg : (s.withA a).getD dn = s.getD dn := rfl
  obtain ⟨t, et, hc⟩ := next_flat (s := (f (s.withA a) v (z.trunc (s.getD dn))).1.setDz z dn
    (f (s.withA a) v (z.trunc (s.getD dn))).2) h (by rw [hs]; exact h.flat.of_eq rfl rfl rfl) (eaLength 1 z ea)
  refine ⟨l, v, a, t, e, ?_, ?_⟩
  · simp only [eaToDn, e, orAbort_ok, hg]
    exact et
  · refine hc.of_near ?_
    rw [hs]
    exact ⟨s.mem.stale, k, rfl⟩

/-- Read, change and write back one operand. -/
theorem modifyEa_flat (h : Ready s) (z : Size) (ea : Ea) (pre : Nat) (src : Long)
    {f : State → Long → Long → State × Long} (hf : FlagsOnly f) :
    ∃ l v a t, Reads s z ea pre l v a ∧ modifyEa s z ea pre src f = .next t ∧
      CompletesAs (s.put a (f (s.withA a) src v).1.sr z l (f (s.withA a) src v).2) (s.after (eaLength pre z ea)) t := by
  obtain ⟨l, v, a, e⟩ := readEa_flat h.flat z ea pre s.pc
  obtain ⟨sr, k, hs⟩ := hf (s.withA a) src v
  have hput : ∃ u ws, putLoc (f (s.withA a) src v).1 z l (f (s.withA a) src v).2 = (u, ws) ∧ Flat u ∧
      (∀ w ∈ ws, w.acc.tt ≠ 2) ∧
      Near (s.put a (f (s.withA a) src v).1.sr z l (f (s.withA a) src v).2)
        { u with mem := { u.mem with ram := ramAfter u.mem.ram ws } } := by
    rw [hs]
    cases l with
    | d n => exact ⟨_, _, rfl, h.flat.of_eq rfl rfl rfl, by simp, s.mem.stale, k, rfl⟩
    | a n => exact ⟨_, _, rfl, h.flat.of_eq rfl rfl rfl, by simp, s.mem.stale, k, rfl⟩
    | mem x =>
      exact ⟨_, _, rfl, h.flat.of_eq rfl rfl rfl, by simp [State.writeOf, State.access], s.mem.stale, k, rfl⟩
    | imm x => exact ⟨_, _, rfl, h.flat.of_eq rfl rfl rfl, by simp, s.mem.stale, k, rfl⟩
  obtain ⟨u, ws, hp, hu, hw, hn⟩ := hput
  obtain ⟨t, et, hc⟩ := nextWith_flat (s := u) h hu (eaLength pre z ea) hw
  refine ⟨l, v, a, t, e, ?_, hc.of_near hn⟩
  simp only [modifyEa, e, orAbort_ok, hp]
  exact et

/-- Read an operand and set flags, or registers, from it. -/
theorem testEa_flat (h : Ready s) (z : Size) (ea : Ea) (pre : Nat) {f : State → Long → State}
    (hf : ∀ s v, Flat s → Flat (f s v)) :
    ∃ l v a t, Reads s z ea pre l v a ∧ testEa s z ea pre f = .next t ∧
      CompletesAs (f (s.withA a) v) (s.after (eaLength pre z ea)) t := by
  obtain ⟨l, v, a, e⟩ := readEa_flat h.flat z ea pre s.pc
  obtain ⟨t, et, hc⟩ := next_flat h (hf (s.withA a) v (h.flat.withA a)) (eaLength pre z ea)
  exact ⟨l, v, a, t, e, by simp only [testEa, e, orAbort_ok]; exact et, hc⟩

/-- Write an operand without reading it. -/
theorem storeEa_flat (h : Ready s) (z : Size) (ea : Ea) (pre : Nat) {f : State → State × Long}
    (hf : ∀ s, ∃ sr k, (f s).1 = { s with sr := sr, mem := { s.mem with draws := k } }) :
    ∃ l a t, Evaluates s ea z.bytes pre l a ∧ storeEa s z ea pre f = .next t ∧
      CompletesAs (s.put a (f (s.withA a)).1.sr z l (f (s.withA a)).2) (s.after (eaLength pre z ea)) t := by
  obtain ⟨l, a, e⟩ := evalEa_flat h.flat ea z.bytes (s.after pre)
  obtain ⟨sr, k, hs⟩ := hf (s.withA a)
  have hput : ∃ u ws, putLoc (f (s.withA a)).1 z l (f (s.withA a)).2 = (u, ws) ∧ Flat u ∧
      (∀ w ∈ ws, w.acc.tt ≠ 2) ∧
      Near (s.put a (f (s.withA a)).1.sr z l (f (s.withA a)).2)
        { u with mem := { u.mem with ram := ramAfter u.mem.ram ws } } := by
    rw [hs]
    cases l with
    | d n => exact ⟨_, _, rfl, h.flat.of_eq rfl rfl rfl, by simp, s.mem.stale, k, rfl⟩
    | a n => exact ⟨_, _, rfl, h.flat.of_eq rfl rfl rfl, by simp, s.mem.stale, k, rfl⟩
    | mem x =>
      exact ⟨_, _, rfl, h.flat.of_eq rfl rfl rfl, by simp [State.writeOf, State.access], s.mem.stale, k, rfl⟩
    | imm x => exact ⟨_, _, rfl, h.flat.of_eq rfl rfl rfl, by simp, s.mem.stale, k, rfl⟩
  obtain ⟨u, ws, hp, hu, hw, hn⟩ := hput
  obtain ⟨t, et, hc⟩ := nextWith_flat (s := u) h hu (eaLength pre z ea) hw
  refine ⟨l, a, t, e, ?_, hc.of_near hn⟩
  simp only [storeEa, e, orAbort_ok, hp]
  exact et

/-- Memory after a result is put at `l`. -/
theorem put_storesTo (s : State) (a : AddrRegs) (sr : Word) (z : Size) (l : Loc) (v : Long) :
    StoresTo s (s.put a sr z l v) l z.bytes v := by
  cases l with
  | mem x => exact storesAt_of_ram (by cases z <;> simp [Size.bytes]) rfl
  | d n => exact sameBytes_of_ram rfl
  | a n => exact sameBytes_of_ram rfl
  | imm x => exact sameBytes_of_ram rfl

/-- What `CompletesAs` says of memory. -/
theorem CompletesAs.ram {u t : State} {pc : Long} (h : CompletesAs u pc t) : t.mem.ram = u.mem.ram := by
  obtain ⟨_, _, _, _, -, e⟩ := h; rw [e]

/-! ### A write that faulted -/

/-- With no push waiting, a write that faulted takes its own access error. -/
theorem writeFault_none (f : AccessFault) (i : FaultInfo) (h : s.mem.pushFaults = []) :
    writeFault s f i = accessError s f i s.pc := by
  simp only [writeFault, h]

/-- With a push waiting, the push is reported, the writes being its write-backs, or they do not fit in its frame and the
write is, the push waiting on. -/
theorem writeFault_some (f : AccessFault) (i : FaultInfo) {p : PushFault} {r : List PushFault} (h : s.mem.pushFaults = p :: r) :
    writeFault s f i = accessError { s with mem := s.mem.pushReported } p.fault i s.pc ∨
    ((2 < i.writes.length ∨ f.tt = 1) ∧ writeFault s f i = accessError s f i s.pc) := by
  simp only [writeFault, h]
  split
  · exact .inl rfl
  · rename_i hn
    exact .inr ⟨by by_cases ht : f.tt = 1 <;> simp_all, rfl⟩

/-! ### Reset -/

/-- With nothing due, reset is one reset exception. -/
theorem applyReset_of_due (h : s.mem.due = []) (modes : BitVec 5) : applyReset s modes = resetOnce s modes := by
  simp only [applyReset, h, List.length_nil, resetUntil]

/-! ### Taking an exception -/

/-- The writes of the fields of a frame. -/
def fieldWrites (base : Long) (fs : List Field) : List Write :=
  fs.map fun f => ⟨base + BitVec.ofNat 32 f.off, toBytes f.value f.size, frameAccess⟩

theorem writeFields_flat (base : Long) : ∀ (fs : List Field) {s : State}, Flat s →
    ∃ p, writeFields s base fs = .ok () (s.stored (ramAfter s.mem.ram (fieldWrites base fs)) p)
  | [], s, _ => ⟨s.mem.stale, rfl⟩
  | f :: fs, s, h => by
    obtain ⟨p, e⟩ := h.write ⟨base + BitVec.ofNat 32 f.off, toBytes f.value f.size, frameAccess⟩ (by simp [frameAccess])
    obtain ⟨q, e'⟩ := writeFields_flat base fs (h.stored _ p)
    have hs : s.mem.struck.isSome = false := by rw [(quiet_iff.1 h.bus).2.2.2.1]; rfl
    exact ⟨q, by rw [writeFields, hs, if_neg (by simp), e, Res.bind_ok, e']; rfl⟩

/-- The stack pointer the exception leaves: the supervisor stack pointer that M selects, less the frame. -/
def frameBase (s : State) (format : BitVec 4) : Long :=
  s.a.get (enterSupervisor s.sr) 7 - BitVec.ofNat 32 (frameSize format)

/-- Taking an exception in the flat configuration: the frame is stored below the supervisor stack pointer, supervisor
state is entered with tracing off, and the pc is the vector read from the table after the frame was stored. -/
theorem takeException_flat (h : Flat s) (vector : BitVec 8) (format : BitVec 4) (spc : Long) (extra : List Field) :
    ∃ p, takeException s vector format spc extra =
      enterVector
        ({ s with sr := enterSupervisor s.sr,
                  a := s.a.set (enterSupervisor s.sr) 7 (frameBase s format) }.stored
          (ramAfter s.mem.ram (fieldWrites (frameBase s format) (frameHead s.sr spc format vector ++ extra))) p)
        vector := by
  have hb : (s.a.set (enterSupervisor s.sr) 7 (frameBase s format)).get (enterSupervisor s.sr) 7 = frameBase s format :=
    AddrRegs.get_set_self _ _ _ _
  obtain ⟨p, e⟩ := writeFields_flat (frameBase s format) (frameHead s.sr spc format vector ++ extra)
    (s := { s with sr := enterSupervisor s.sr, a := s.a.set (enterSupervisor s.sr) 7 (frameBase s format) })
    (h.of_eq rfl rfl rfl)
  refine ⟨p, ?_⟩
  have hp : pushFrame { s with sr := enterSupervisor s.sr } s.sr spc format vector extra =
      writeFields { s with sr := enterSupervisor s.sr, a := s.a.set (enterSupervisor s.sr) 7 (frameBase s format) }
        (frameBase s format) (frameHead s.sr spc format vector ++ extra) := by
    simp only [pushFrame, State.setA, State.getA]
    rw [show s.a.get (enterSupervisor s.sr) 7 - BitVec.ofNat 32 (frameSize format) = frameBase s format from rfl, hb]
  simp only [takeException, started_of_unserialized h.serial, hp, e]

/-- Entering a vector in the flat configuration. -/
theorem enterVector_flat (h : Flat s) (vector : BitVec 8) :
    enterVector s vector =
      if (s.valueAt (s.ctl.vbr + 4 * vector.zeroExtend 32) 4).getLsbD 0 then
        { s with pc := s.valueAt (s.ctl.vbr + 4 * vector.zeroExtend 32) 4 }.halt
      else
        let v := s.valueAt (s.ctl.vbr + 4 * vector.zeroExtend 32) 4
        { s with
          pc := v, trace := none, movemEa := none, run := .normal
          mem := { s.mem with
            pipe := handlerPipe s.mem.ram v, stale := s.mem.stale.filter (·.stage ≠ .synchronized) } } := by
  have e : ∀ t : State, t.ctl = s.ctl → t.mem = s.mem → t.fillPipe = { t with mem := { s.mem with
      pipe := handlerPipe s.mem.ram t.pc, stale := s.mem.stale.filter (·.stage ≠ .synchronized) } } :=
    fun t hc hm => by rw [Flat.fillPipe (h.of_eq hc (by rw [hm]) (by rw [hm]) (by rw [hm])), hm]
  simp only [enterVector, h.readVia (a := frameAccess) (by simp [frameAccess]), State.valueAt, State.bytesAt]
  exact if_congr Iff.rfl rfl (e _ rfl rfl)

end Sys2Proof.Machine
end

