-- ==== Sys2Proof/Laws/PerInstr.lean ====
section
/-! SUPPORT. Statements made once per instruction: an instruction is at least one word and at most eleven words
long (30_encoding R450). -/

namespace Sys2Proof.Laws

set_option Elab.async false

/-! ### How many words the parts of an instruction take -/

theorem longWords_length (v : Long) : (longWords v).length = 2 := rfl

theorem Disp_ext_length (d : Disp) : d.ext.length ≤ 2 := by
  cases d <;> simp [Disp.ext, longWords]

theorem Indirection_ext_length (d : Indirection) : d.ext.length ≤ 2 := by
  cases d <;> simp [Indirection.ext, Disp_ext_length]

theorem IndexExt_ext_length (x : IndexExt) : x.ext.length ≤ 5 := by
  cases x with
  | brief x d8 => simp [IndexExt.ext]
  | full x bs is bd ind =>
    have h1 := Disp_ext_length bd
    have h2 := Indirection_ext_length ind
    simp only [IndexExt.ext, List.length_append, List.length_cons, List.length_nil]
    omega

theorem immExt_length (v : BitVec 96) (n : Nat) : (immExt v n).length = n := by
  induction n with
  | zero => rfl
  | succ n ih => simp [immExt, ih]

theorem Ea_ext_length (n : Nat) (e : Ea) : (e.ext n).length ≤ max 5 n := by
  cases e <;> simp [Ea.ext, longWords, immExt_length]
  all_goals exact Or.inl (IndexExt_ext_length _)

theorem FpSrc_ext_length (s : FpSrc) : s.ext.length ≤ 6 := by
  cases s with
  | fp m => simp [FpSrc.ext]
  | ea f e =>
    have h := Ea_ext_length f.immWords e
    have hf : f.immWords ≤ 6 := by cases f <;> decide
    simp only [FpSrc.ext]
    omega

theorem BrDisp_ext_length (d : BrDisp) : d.ext.length ≤ 2 := by
  cases d <;> simp [BrDisp.ext, longWords]

theorem ctrlCount_le (r : BitVec 3) : ctrlCount r ≤ 3 := by
  have h : ∀ b : Bool, b.toNat ≤ 1 := by decide
  have h2 := h (r.getLsbD 2)
  have h1 := h (r.getLsbD 1)
  have h0 := h (r.getLsbD 0)
  simp only [ctrlCount]
  omega

/-- An instruction is one to eleven words long (R450: the longest is MOVE with two full-format addresses). -/
def EncodeLength.Statement (i : Instr) : Prop := 1 ≤ (encode i).length ∧ (encode i).length ≤ 11

theorem EncodeLength.oriToCcr (imm : BitVec 16) : EncodeLength.Statement (.oriToCcr imm) := by
  simp [EncodeLength.Statement, encode]

theorem EncodeLength.oriToSr (imm : BitVec 16) : EncodeLength.Statement (.oriToSr imm) := by
  simp [EncodeLength.Statement, encode]

theorem EncodeLength.andiToCcr (imm : BitVec 16) : EncodeLength.Statement (.andiToCcr imm) := by
  simp [EncodeLength.Statement, encode]

theorem EncodeLength.andiToSr (imm : BitVec 16) : EncodeLength.Statement (.andiToSr imm) := by
  simp [EncodeLength.Statement, encode]

theorem EncodeLength.eoriToCcr (imm : BitVec 16) : EncodeLength.Statement (.eoriToCcr imm) := by
  simp [EncodeLength.Statement, encode]

theorem EncodeLength.eoriToSr (imm : BitVec 16) : EncodeLength.Statement (.eoriToSr imm) := by
  simp [EncodeLength.Statement, encode]

theorem EncodeLength.oriB (imm : BitVec 8) (ea : Ea) : EncodeLength.Statement (.oriB imm ea) := by
  have h0 := Ea_ext_length 1 ea
  simp [EncodeLength.Statement, encode]
  omega

theorem EncodeLength.oriW (imm : BitVec 16) (ea : Ea) : EncodeLength.Statement (.oriW imm ea) := by
  have h0 := Ea_ext_length 1 ea
  simp [EncodeLength.Statement, encode]
  omega

theorem EncodeLength.oriL (imm : BitVec 32) (ea : Ea) : EncodeLength.Statement (.oriL imm ea) := by
  have h0 := Ea_ext_length 2 ea
  simp [EncodeLength.Statement, encode, longWords]
  omega

theorem EncodeLength.andiB (imm : BitVec 8) (ea : Ea) : EncodeLength.Statement (.andiB imm ea) := by
  have h0 := Ea_ext_length 1 ea
  simp [EncodeLength.Statement, encode]
  omega

theorem EncodeLength.andiW (imm : BitVec 16) (ea : Ea) : EncodeLength.Statement (.andiW imm ea) := by
  have h0 := Ea_ext_length 1 ea
  simp [EncodeLength.Statement, encode]
  omega

theorem EncodeLength.andiL (imm : BitVec 32) (ea : Ea) : EncodeLength.Statement (.andiL imm ea) := by
  have h0 := Ea_ext_length 2 ea
  simp [EncodeLength.Statement, encode, longWords]
  omega

theorem EncodeLength.subiB (imm : BitVec 8) (ea : Ea) : EncodeLength.Statement (.subiB imm ea) := by
  have h0 := Ea_ext_length 1 ea
  simp [EncodeLength.Statement, encode]
  omega

theorem EncodeLength.subiW (imm : BitVec 16) (ea : Ea) : EncodeLength.Statement (.subiW imm ea) := by
  have h0 := Ea_ext_length 1 ea
  simp [EncodeLength.Statement, encode]
  omega

theorem EncodeLength.subiL (imm : BitVec 32) (ea : Ea) : EncodeLength.Statement (.subiL imm ea) := by
  have h0 := Ea_ext_length 2 ea
  simp [EncodeLength.Statement, encode, longWords]
  omega

theorem EncodeLength.addiB (imm : BitVec 8) (ea : Ea) : EncodeLength.Statement (.addiB imm ea) := by
  have h0 := Ea_ext_length 1 ea
  simp [EncodeLength.Statement, encode]
  omega

theorem EncodeLength.addiW (imm : BitVec 16) (ea : Ea) : EncodeLength.Statement (.addiW imm ea) := by
  have h0 := Ea_ext_length 1 ea
  simp [EncodeLength.Statement, encode]
  omega

theorem EncodeLength.addiL (imm : BitVec 32) (ea : Ea) : EncodeLength.Statement (.addiL imm ea) := by
  have h0 := Ea_ext_length 2 ea
  simp [EncodeLength.Statement, encode, longWords]
  omega

theorem EncodeLength.eoriB (imm : BitVec 8) (ea : Ea) : EncodeLength.Statement (.eoriB imm ea) := by
  have h0 := Ea_ext_length 1 ea
  simp [EncodeLength.Statement, encode]
  omega

theorem EncodeLength.eoriW (imm : BitVec 16) (ea : Ea) : EncodeLength.Statement (.eoriW imm ea) := by
  have h0 := Ea_ext_length 1 ea
  simp [EncodeLength.Statement, encode]
  omega

theorem EncodeLength.eoriL (imm : BitVec 32) (ea : Ea) : EncodeLength.Statement (.eoriL imm ea) := by
  have h0 := Ea_ext_length 2 ea
  simp [EncodeLength.Statement, encode, longWords]
  omega

theorem EncodeLength.cmpiB (imm : BitVec 8) (ea : Ea) : EncodeLength.Statement (.cmpiB imm ea) := by
  have h0 := Ea_ext_length 1 ea
  simp [EncodeLength.Statement, encode]
  omega

theorem EncodeLength.cmpiW (imm : BitVec 16) (ea : Ea) : EncodeLength.Statement (.cmpiW imm ea) := by
  have h0 := Ea_ext_length 1 ea
  simp [EncodeLength.Statement, encode]
  omega

theorem EncodeLength.cmpiL (imm : BitVec 32) (ea : Ea) : EncodeLength.Statement (.cmpiL imm ea) := by
  have h0 := Ea_ext_length 2 ea
  simp [EncodeLength.Statement, encode, longWords]
  omega

theorem EncodeLength.btst (bit : BitVec 8) (ea : Ea) : EncodeLength.Statement (.btst bit ea) := by
  have h0 := Ea_ext_length 1 ea
  simp [EncodeLength.Statement, encode]
  omega

theorem EncodeLength.btstDn (dn : BitVec 3) (ea : Ea) : EncodeLength.Statement (.btstDn dn ea) := by
  have h0 := Ea_ext_length 1 ea
  simp [EncodeLength.Statement, encode]
  omega

theorem EncodeLength.bchg (bit : BitVec 8) (ea : Ea) : EncodeLength.Statement (.bchg bit ea) := by
  have h0 := Ea_ext_length 1 ea
  simp [EncodeLength.Statement, encode]
  omega

theorem EncodeLength.bchgDn (dn : BitVec 3) (ea : Ea) : EncodeLength.Statement (.bchgDn dn ea) := by
  have h0 := Ea_ext_length 1 ea
  simp [EncodeLength.Statement, encode]
  omega

theorem EncodeLength.bclr (bit : BitVec 8) (ea : Ea) : EncodeLength.Statement (.bclr bit ea) := by
  have h0 := Ea_ext_length 1 ea
  simp [EncodeLength.Statement, encode]
  omega

theorem EncodeLength.bclrDn (dn : BitVec 3) (ea : Ea) : EncodeLength.Statement (.bclrDn dn ea) := by
  have h0 := Ea_ext_length 1 ea
  simp [EncodeLength.Statement, encode]
  omega

theorem EncodeLength.bset (bit : BitVec 8) (ea : Ea) : EncodeLength.Statement (.bset bit ea) := by
  have h0 := Ea_ext_length 1 ea
  simp [EncodeLength.Statement, encode]
  omega

theorem EncodeLength.bsetDn (dn : BitVec 3) (ea : Ea) : EncodeLength.Statement (.bsetDn dn ea) := by
  have h0 := Ea_ext_length 1 ea
  simp [EncodeLength.Statement, encode]
  omega

theorem EncodeLength.movepWD16AyDx (dx : BitVec 3) (ay : BitVec 3) (d : BitVec 16) : EncodeLength.Statement (.movepWD16AyDx dx ay d) := by
  simp [EncodeLength.Statement, encode]

theorem EncodeLength.movepLD16AyDx (dx : BitVec 3) (ay : BitVec 3) (d : BitVec 16) : EncodeLength.Statement (.movepLD16AyDx dx ay d) := by
  simp [EncodeLength.Statement, encode]

theorem EncodeLength.movepWDxD16Ay (dx : BitVec 3) (ay : BitVec 3) (d : BitVec 16) : EncodeLength.Statement (.movepWDxD16Ay dx ay d) := by
  simp [EncodeLength.Statement, encode]

theorem EncodeLength.movepLDxD16Ay (dx : BitVec 3) (ay : BitVec 3) (d : BitVec 16) : EncodeLength.Statement (.movepLDxD16Ay dx ay d) := by
  simp [EncodeLength.Statement, encode]

theorem EncodeLength.cmp2B (rn : BitVec 4) (ea : Ea) : EncodeLength.Statement (.cmp2B rn ea) := by
  have h0 := Ea_ext_length 1 ea
  simp [EncodeLength.Statement, encode]
  omega

theorem EncodeLength.chk2B (rn : BitVec 4) (ea : Ea) : EncodeLength.Statement (.chk2B rn ea) := by
  have h0 := Ea_ext_length 1 ea
  simp [EncodeLength.Statement, encode]
  omega

theorem EncodeLength.cmp2W (rn : BitVec 4) (ea : Ea) : EncodeLength.Statement (.cmp2W rn ea) := by
  have h0 := Ea_ext_length 1 ea
  simp [EncodeLength.Statement, encode]
  omega

theorem EncodeLength.chk2W (rn : BitVec 4) (ea : Ea) : EncodeLength.Statement (.chk2W rn ea) := by
  have h0 := Ea_ext_length 1 ea
  simp [EncodeLength.Statement, encode]
  omega

theorem EncodeLength.cmp2L (rn : BitVec 4) (ea : Ea) : EncodeLength.Statement (.cmp2L rn ea) := by
  have h0 := Ea_ext_length 1 ea
  simp [EncodeLength.Statement, encode]
  omega

theorem EncodeLength.chk2L (rn : BitVec 4) (ea : Ea) : EncodeLength.Statement (.chk2L rn ea) := by
  have h0 := Ea_ext_length 1 ea
  simp [EncodeLength.Statement, encode]
  omega

theorem EncodeLength.movesB (rn : BitVec 4) (toMem : Bool) (ea : Ea) : EncodeLength.Statement (.movesB rn toMem ea) := by
  have h0 := Ea_ext_length 1 ea
  simp [EncodeLength.Statement, encode]
  omega

theorem EncodeLength.movesW (rn : BitVec 4) (toMem : Bool) (ea : Ea) : EncodeLength.Statement (.movesW rn toMem ea) := by
  have h0 := Ea_ext_length 1 ea
  simp [EncodeLength.Statement, encode]
  omega

theorem EncodeLength.movesL (rn : BitVec 4) (toMem : Bool) (ea : Ea) : EncodeLength.Statement (.movesL rn toMem ea) := by
  have h0 := Ea_ext_length 1 ea
  simp [EncodeLength.Statement, encode]
  omega

theorem EncodeLength.casB (du : BitVec 3) (dc : BitVec 3) (ea : Ea) : EncodeLength.Statement (.casB du dc ea) := by
  have h0 := Ea_ext_length 1 ea
  simp [EncodeLength.Statement, encode]
  omega

theorem EncodeLength.casW (du : BitVec 3) (dc : BitVec 3) (ea : Ea) : EncodeLength.Statement (.casW du dc ea) := by
  have h0 := Ea_ext_length 1 ea
  simp [EncodeLength.Statement, encode]
  omega

theorem EncodeLength.casL (du : BitVec 3) (dc : BitVec 3) (ea : Ea) : EncodeLength.Statement (.casL du dc ea) := by
  have h0 := Ea_ext_length 1 ea
  simp [EncodeLength.Statement, encode]
  omega

theorem EncodeLength.cas2W (rn1 : BitVec 4) (du1 : BitVec 3) (dc1 : BitVec 3) (rn2 : BitVec 4) (du2 : BitVec 3) (dc2 : BitVec 3) : EncodeLength.Statement (.cas2W rn1 du1 dc1 rn2 du2 dc2) := by
  simp [EncodeLength.Statement, encode]

theorem EncodeLength.cas2L (rn1 : BitVec 4) (du1 : BitVec 3) (dc1 : BitVec 3) (rn2 : BitVec 4) (du2 : BitVec 3) (dc2 : BitVec 3) : EncodeLength.Statement (.cas2L rn1 du1 dc1 rn2 du2 dc2) := by
  simp [EncodeLength.Statement, encode]

theorem EncodeLength.moveB (src : Ea) (dst : Ea) : EncodeLength.Statement (.moveB src dst) := by
  have h0 := Ea_ext_length 1 src
  have h1 := Ea_ext_length 1 dst
  simp [EncodeLength.Statement, encode]
  omega

theorem EncodeLength.moveL (src : Ea) (dst : Ea) : EncodeLength.Statement (.moveL src dst) := by
  have h0 := Ea_ext_length 2 src
  have h1 := Ea_ext_length 2 dst
  simp [EncodeLength.Statement, encode]
  omega

theorem EncodeLength.moveW (src : Ea) (dst : Ea) : EncodeLength.Statement (.moveW src dst) := by
  have h0 := Ea_ext_length 1 src
  have h1 := Ea_ext_length 1 dst
  simp [EncodeLength.Statement, encode]
  omega

theorem EncodeLength.moveaL (an : BitVec 3) (ea : Ea) : EncodeLength.Statement (.moveaL an ea) := by
  have h0 := Ea_ext_length 2 ea
  simp [EncodeLength.Statement, encode]
  omega

theorem EncodeLength.moveaW (an : BitVec 3) (ea : Ea) : EncodeLength.Statement (.moveaW an ea) := by
  have h0 := Ea_ext_length 1 ea
  simp [EncodeLength.Statement, encode]
  omega

theorem EncodeLength.negxB (ea : Ea) : EncodeLength.Statement (.negxB ea) := by
  have h0 := Ea_ext_length 1 ea
  simp [EncodeLength.Statement, encode]
  omega

theorem EncodeLength.negxW (ea : Ea) : EncodeLength.Statement (.negxW ea) := by
  have h0 := Ea_ext_length 1 ea
  simp [EncodeLength.Statement, encode]
  omega

theorem EncodeLength.negxL (ea : Ea) : EncodeLength.Statement (.negxL ea) := by
  have h0 := Ea_ext_length 2 ea
  simp [EncodeLength.Statement, encode]
  omega

theorem EncodeLength.clrB (ea : Ea) : EncodeLength.Statement (.clrB ea) := by
  have h0 := Ea_ext_length 1 ea
  simp [EncodeLength.Statement, encode]
  omega

theorem EncodeLength.clrW (ea : Ea) : EncodeLength.Statement (.clrW ea) := by
  have h0 := Ea_ext_length 1 ea
  simp [EncodeLength.Statement, encode]
  omega

theorem EncodeLength.clrL (ea : Ea) : EncodeLength.Statement (.clrL ea) := by
  have h0 := Ea_ext_length 2 ea
  simp [EncodeLength.Statement, encode]
  omega

theorem EncodeLength.negB (ea : Ea) : EncodeLength.Statement (.negB ea) := by
  have h0 := Ea_ext_length 1 ea
  simp [EncodeLength.Statement, encode]
  omega

theorem EncodeLength.negW (ea : Ea) : EncodeLength.Statement (.negW ea) := by
  have h0 := Ea_ext_length 1 ea
  simp [EncodeLength.Statement, encode]
  omega

theorem EncodeLength.negL (ea : Ea) : EncodeLength.Statement (.negL ea) := by
  have h0 := Ea_ext_length 2 ea
  simp [EncodeLength.Statement, encode]
  omega

theorem EncodeLength.notB (ea : Ea) : EncodeLength.Statement (.notB ea) := by
  have h0 := Ea_ext_length 1 ea
  simp [EncodeLength.Statement, encode]
  omega

theorem EncodeLength.notW (ea : Ea) : EncodeLength.Statement (.notW ea) := by
  have h0 := Ea_ext_length 1 ea
  simp [EncodeLength.Statement, encode]
  omega

theorem EncodeLength.notL (ea : Ea) : EncodeLength.Statement (.notL ea) := by
  have h0 := Ea_ext_length 2 ea
  simp [EncodeLength.Statement, encode]
  omega

theorem EncodeLength.moveFromSr (ea : Ea) : EncodeLength.Statement (.moveFromSr ea) := by
  have h0 := Ea_ext_length 1 ea
  simp [EncodeLength.Statement, encode]
  omega

theorem EncodeLength.moveFromCcr (ea : Ea) : EncodeLength.Statement (.moveFromCcr ea) := by
  have h0 := Ea_ext_length 1 ea
  simp [EncodeLength.Statement, encode]
  omega

theorem EncodeLength.moveToCcr (ea : Ea) : EncodeLength.Statement (.moveToCcr ea) := by
  have h0 := Ea_ext_length 1 ea
  simp [EncodeLength.Statement, encode]
  omega

theorem EncodeLength.moveToSr (ea : Ea) : EncodeLength.Statement (.moveToSr ea) := by
  have h0 := Ea_ext_length 1 ea
  simp [EncodeLength.Statement, encode]
  omega

theorem EncodeLength.nbcd (ea : Ea) : EncodeLength.Statement (.nbcd ea) := by
  have h0 := Ea_ext_length 1 ea
  simp [EncodeLength.Statement, encode]
  omega

theorem EncodeLength.linkL (an : BitVec 3) (d : BitVec 32) : EncodeLength.Statement (.linkL an d) := by
  simp [EncodeLength.Statement, encode, longWords]

theorem EncodeLength.swap (dn : BitVec 3) : EncodeLength.Statement (.swap dn) := by
  simp [EncodeLength.Statement, encode]

theorem EncodeLength.bkpt (n : BitVec 3) : EncodeLength.Statement (.bkpt n) := by
  simp [EncodeLength.Statement, encode]

theorem EncodeLength.pea (ea : Ea) : EncodeLength.Statement (.pea ea) := by
  have h0 := Ea_ext_length 1 ea
  simp [EncodeLength.Statement, encode]
  omega

theorem EncodeLength.extW (dn : BitVec 3) : EncodeLength.Statement (.extW dn) := by
  simp [EncodeLength.Statement, encode]

theorem EncodeLength.extL (dn : BitVec 3) : EncodeLength.Statement (.extL dn) := by
  simp [EncodeLength.Statement, encode]

theorem EncodeLength.extbL (dn : BitVec 3) : EncodeLength.Statement (.extbL dn) := by
  simp [EncodeLength.Statement, encode]

theorem EncodeLength.movemWListEa (list : BitVec 16) (ea : Ea) : EncodeLength.Statement (.movemWListEa list ea) := by
  have h0 := Ea_ext_length 1 ea
  simp [EncodeLength.Statement, encode]
  omega

theorem EncodeLength.movemWEaList (list : BitVec 16) (ea : Ea) : EncodeLength.Statement (.movemWEaList list ea) := by
  have h0 := Ea_ext_length 1 ea
  simp [EncodeLength.Statement, encode]
  omega

theorem EncodeLength.movemLListEa (list : BitVec 16) (ea : Ea) : EncodeLength.Statement (.movemLListEa list ea) := by
  have h0 := Ea_ext_length 1 ea
  simp [EncodeLength.Statement, encode]
  omega

theorem EncodeLength.movemLEaList (list : BitVec 16) (ea : Ea) : EncodeLength.Statement (.movemLEaList list ea) := by
  have h0 := Ea_ext_length 1 ea
  simp [EncodeLength.Statement, encode]
  omega

theorem EncodeLength.tstB (ea : Ea) : EncodeLength.Statement (.tstB ea) := by
  have h0 := Ea_ext_length 1 ea
  simp [EncodeLength.Statement, encode]
  omega

theorem EncodeLength.tstW (ea : Ea) : EncodeLength.Statement (.tstW ea) := by
  have h0 := Ea_ext_length 1 ea
  simp [EncodeLength.Statement, encode]
  omega

theorem EncodeLength.tstL (ea : Ea) : EncodeLength.Statement (.tstL ea) := by
  have h0 := Ea_ext_length 2 ea
  simp [EncodeLength.Statement, encode]
  omega

theorem EncodeLength.tas (ea : Ea) : EncodeLength.Statement (.tas ea) := by
  have h0 := Ea_ext_length 1 ea
  simp [EncodeLength.Statement, encode]
  omega

theorem EncodeLength.illegal : EncodeLength.Statement .illegal := by
  simp [EncodeLength.Statement, encode]

theorem EncodeLength.muluLEaDl (dl : BitVec 3) (ea : Ea) : EncodeLength.Statement (.muluLEaDl dl ea) := by
  have h0 := Ea_ext_length 2 ea
  simp [EncodeLength.Statement, encode]
  omega

theorem EncodeLength.muluLEaDhDl (dh : BitVec 3) (dl : BitVec 3) (ea : Ea) : EncodeLength.Statement (.muluLEaDhDl dh dl ea) := by
  have h0 := Ea_ext_length 2 ea
  simp [EncodeLength.Statement, encode]
  omega

theorem EncodeLength.mulsLEaDl (dl : BitVec 3) (ea : Ea) : EncodeLength.Statement (.mulsLEaDl dl ea) := by
  have h0 := Ea_ext_length 2 ea
  simp [EncodeLength.Statement, encode]
  omega

theorem EncodeLength.mulsLEaDhDl (dh : BitVec 3) (dl : BitVec 3) (ea : Ea) : EncodeLength.Statement (.mulsLEaDhDl dh dl ea) := by
  have h0 := Ea_ext_length 2 ea
  simp [EncodeLength.Statement, encode]
  omega

theorem EncodeLength.divuLEaDq (dq : BitVec 3) (ea : Ea) : EncodeLength.Statement (.divuLEaDq dq ea) := by
  have h0 := Ea_ext_length 2 ea
  simp [EncodeLength.Statement, encode]
  omega

theorem EncodeLength.divulLEaDrDq (dr : BitVec 3) (dq : BitVec 3) (ea : Ea) : EncodeLength.Statement (.divulLEaDrDq dr dq ea) := by
  have h0 := Ea_ext_length 2 ea
  simp [EncodeLength.Statement, encode]
  omega

theorem EncodeLength.divuLEaDrDq (dr : BitVec 3) (dq : BitVec 3) (ea : Ea) : EncodeLength.Statement (.divuLEaDrDq dr dq ea) := by
  have h0 := Ea_ext_length 2 ea
  simp [EncodeLength.Statement, encode]
  omega

theorem EncodeLength.divsLEaDq (dq : BitVec 3) (ea : Ea) : EncodeLength.Statement (.divsLEaDq dq ea) := by
  have h0 := Ea_ext_length 2 ea
  simp [EncodeLength.Statement, encode]
  omega

theorem EncodeLength.divslLEaDrDq (dr : BitVec 3) (dq : BitVec 3) (ea : Ea) : EncodeLength.Statement (.divslLEaDrDq dr dq ea) := by
  have h0 := Ea_ext_length 2 ea
  simp [EncodeLength.Statement, encode]
  omega

theorem EncodeLength.divsLEaDrDq (dr : BitVec 3) (dq : BitVec 3) (ea : Ea) : EncodeLength.Statement (.divsLEaDrDq dr dq ea) := by
  have h0 := Ea_ext_length 2 ea
  simp [EncodeLength.Statement, encode]
  omega

theorem EncodeLength.trap (n : BitVec 4) : EncodeLength.Statement (.trap n) := by
  simp [EncodeLength.Statement, encode]

theorem EncodeLength.linkW (an : BitVec 3) (d : BitVec 16) : EncodeLength.Statement (.linkW an d) := by
  simp [EncodeLength.Statement, encode]

theorem EncodeLength.unlk (an : BitVec 3) : EncodeLength.Statement (.unlk an) := by
  simp [EncodeLength.Statement, encode]

theorem EncodeLength.moveAnUsp (an : BitVec 3) : EncodeLength.Statement (.moveAnUsp an) := by
  simp [EncodeLength.Statement, encode]

theorem EncodeLength.moveUspAn (an : BitVec 3) : EncodeLength.Statement (.moveUspAn an) := by
  simp [EncodeLength.Statement, encode]

theorem EncodeLength.reset : EncodeLength.Statement .reset := by
  simp [EncodeLength.Statement, encode]

theorem EncodeLength.nop : EncodeLength.Statement .nop := by
  simp [EncodeLength.Statement, encode]

theorem EncodeLength.stop (imm : BitVec 16) : EncodeLength.Statement (.stop imm) := by
  simp [EncodeLength.Statement, encode]

theorem EncodeLength.rte : EncodeLength.Statement .rte := by
  simp [EncodeLength.Statement, encode]

theorem EncodeLength.rtd (d : BitVec 16) : EncodeLength.Statement (.rtd d) := by
  simp [EncodeLength.Statement, encode]

theorem EncodeLength.rts : EncodeLength.Statement .rts := by
  simp [EncodeLength.Statement, encode]

theorem EncodeLength.trapv : EncodeLength.Statement .trapv := by
  simp [EncodeLength.Statement, encode]

theorem EncodeLength.rtr : EncodeLength.Statement .rtr := by
  simp [EncodeLength.Statement, encode]

theorem EncodeLength.movecRcRn (rn : BitVec 4) (code : BitVec 12) : EncodeLength.Statement (.movecRcRn rn code) := by
  simp [EncodeLength.Statement, encode]

theorem EncodeLength.movecRnRc (rn : BitVec 4) (code : BitVec 12) : EncodeLength.Statement (.movecRnRc rn code) := by
  simp [EncodeLength.Statement, encode]

theorem EncodeLength.jsr (ea : Ea) : EncodeLength.Statement (.jsr ea) := by
  have h0 := Ea_ext_length 1 ea
  simp [EncodeLength.Statement, encode]
  omega

theorem EncodeLength.jmp (ea : Ea) : EncodeLength.Statement (.jmp ea) := by
  have h0 := Ea_ext_length 1 ea
  simp [EncodeLength.Statement, encode]
  omega

theorem EncodeLength.chkL (dn : BitVec 3) (ea : Ea) : EncodeLength.Statement (.chkL dn ea) := by
  have h0 := Ea_ext_length 2 ea
  simp [EncodeLength.Statement, encode]
  omega

theorem EncodeLength.chkW (dn : BitVec 3) (ea : Ea) : EncodeLength.Statement (.chkW dn ea) := by
  have h0 := Ea_ext_length 1 ea
  simp [EncodeLength.Statement, encode]
  omega

theorem EncodeLength.lea (an : BitVec 3) (ea : Ea) : EncodeLength.Statement (.lea an ea) := by
  have h0 := Ea_ext_length 1 ea
  simp [EncodeLength.Statement, encode]
  omega

theorem EncodeLength.addqB (data : BitVec 3) (ea : Ea) : EncodeLength.Statement (.addqB data ea) := by
  have h0 := Ea_ext_length 1 ea
  simp [EncodeLength.Statement, encode]
  omega

theorem EncodeLength.subqB (data : BitVec 3) (ea : Ea) : EncodeLength.Statement (.subqB data ea) := by
  have h0 := Ea_ext_length 1 ea
  simp [EncodeLength.Statement, encode]
  omega

theorem EncodeLength.addqW (data : BitVec 3) (ea : Ea) : EncodeLength.Statement (.addqW data ea) := by
  have h0 := Ea_ext_length 1 ea
  simp [EncodeLength.Statement, encode]
  omega

theorem EncodeLength.subqW (data : BitVec 3) (ea : Ea) : EncodeLength.Statement (.subqW data ea) := by
  have h0 := Ea_ext_length 1 ea
  simp [EncodeLength.Statement, encode]
  omega

theorem EncodeLength.addqL (data : BitVec 3) (ea : Ea) : EncodeLength.Statement (.addqL data ea) := by
  have h0 := Ea_ext_length 1 ea
  simp [EncodeLength.Statement, encode]
  omega

theorem EncodeLength.subqL (data : BitVec 3) (ea : Ea) : EncodeLength.Statement (.subqL data ea) := by
  have h0 := Ea_ext_length 1 ea
  simp [EncodeLength.Statement, encode]
  omega

theorem EncodeLength.scc (cc : BitVec 4) (ea : Ea) : EncodeLength.Statement (.scc cc ea) := by
  have h0 := Ea_ext_length 1 ea
  simp [EncodeLength.Statement, encode]
  omega

theorem EncodeLength.dbcc (cc : BitVec 4) (dn : BitVec 3) (d : BitVec 16) : EncodeLength.Statement (.dbcc cc dn d) := by
  simp [EncodeLength.Statement, encode]

theorem EncodeLength.trapccW (cc : BitVec 4) (imm : BitVec 16) : EncodeLength.Statement (.trapccW cc imm) := by
  simp [EncodeLength.Statement, encode]

theorem EncodeLength.trapccL (cc : BitVec 4) (imm : BitVec 32) : EncodeLength.Statement (.trapccL cc imm) := by
  simp [EncodeLength.Statement, encode, longWords]

theorem EncodeLength.trapcc (cc : BitVec 4) : EncodeLength.Statement (.trapcc cc) := by
  simp [EncodeLength.Statement, encode]

theorem EncodeLength.bra (disp : BrDisp) : EncodeLength.Statement (.bra disp) := by
  have h0 := BrDisp_ext_length disp
  simp [EncodeLength.Statement, encode]
  omega

theorem EncodeLength.bsr (disp : BrDisp) : EncodeLength.Statement (.bsr disp) := by
  have h0 := BrDisp_ext_length disp
  simp [EncodeLength.Statement, encode]
  omega

theorem EncodeLength.bcc (cc : BitVec 4) (disp : BrDisp) : EncodeLength.Statement (.bcc cc disp) := by
  have h0 := BrDisp_ext_length disp
  simp [EncodeLength.Statement, encode]
  omega

theorem EncodeLength.moveq (dn : BitVec 3) (d : BitVec 8) : EncodeLength.Statement (.moveq dn d) := by
  simp [EncodeLength.Statement, encode]

theorem EncodeLength.orBEaDn (dn : BitVec 3) (ea : Ea) : EncodeLength.Statement (.orBEaDn dn ea) := by
  have h0 := Ea_ext_length 1 ea
  simp [EncodeLength.Statement, encode]
  omega

theorem EncodeLength.orBDnEa (dn : BitVec 3) (ea : Ea) : EncodeLength.Statement (.orBDnEa dn ea) := by
  have h0 := Ea_ext_length 1 ea
  simp [EncodeLength.Statement, encode]
  omega

theorem EncodeLength.orWEaDn (dn : BitVec 3) (ea : Ea) : EncodeLength.Statement (.orWEaDn dn ea) := by
  have h0 := Ea_ext_length 1 ea
  simp [EncodeLength.Statement, encode]
  omega

theorem EncodeLength.orWDnEa (dn : BitVec 3) (ea : Ea) : EncodeLength.Statement (.orWDnEa dn ea) := by
  have h0 := Ea_ext_length 1 ea
  simp [EncodeLength.Statement, encode]
  omega

theorem EncodeLength.orLEaDn (dn : BitVec 3) (ea : Ea) : EncodeLength.Statement (.orLEaDn dn ea) := by
  have h0 := Ea_ext_length 2 ea
  simp [EncodeLength.Statement, encode]
  omega

theorem EncodeLength.orLDnEa (dn : BitVec 3) (ea : Ea) : EncodeLength.Statement (.orLDnEa dn ea) := by
  have h0 := Ea_ext_length 2 ea
  simp [EncodeLength.Statement, encode]
  omega

theorem EncodeLength.divuW (dn : BitVec 3) (ea : Ea) : EncodeLength.Statement (.divuW dn ea) := by
  have h0 := Ea_ext_length 1 ea
  simp [EncodeLength.Statement, encode]
  omega

theorem EncodeLength.divsW (dn : BitVec 3) (ea : Ea) : EncodeLength.Statement (.divsW dn ea) := by
  have h0 := Ea_ext_length 1 ea
  simp [EncodeLength.Statement, encode]
  omega

theorem EncodeLength.sbcd (rx : BitVec 3) (mem : Bool) (ry : BitVec 3) : EncodeLength.Statement (.sbcd rx mem ry) := by
  simp [EncodeLength.Statement, encode]

theorem EncodeLength.pack (rx : BitVec 3) (mem : Bool) (ry : BitVec 3) (adj : BitVec 16) : EncodeLength.Statement (.pack rx mem ry adj) := by
  simp [EncodeLength.Statement, encode]

theorem EncodeLength.unpk (rx : BitVec 3) (mem : Bool) (ry : BitVec 3) (adj : BitVec 16) : EncodeLength.Statement (.unpk rx mem ry adj) := by
  simp [EncodeLength.Statement, encode]

theorem EncodeLength.subBEaDn (dn : BitVec 3) (ea : Ea) : EncodeLength.Statement (.subBEaDn dn ea) := by
  have h0 := Ea_ext_length 1 ea
  simp [EncodeLength.Statement, encode]
  omega

theorem EncodeLength.subBDnEa (dn : BitVec 3) (ea : Ea) : EncodeLength.Statement (.subBDnEa dn ea) := by
  have h0 := Ea_ext_length 1 ea
  simp [EncodeLength.Statement, encode]
  omega

theorem EncodeLength.subWEaDn (dn : BitVec 3) (ea : Ea) : EncodeLength.Statement (.subWEaDn dn ea) := by
  have h0 := Ea_ext_length 1 ea
  simp [EncodeLength.Statement, encode]
  omega

theorem EncodeLength.subWDnEa (dn : BitVec 3) (ea : Ea) : EncodeLength.Statement (.subWDnEa dn ea) := by
  have h0 := Ea_ext_length 1 ea
  simp [EncodeLength.Statement, encode]
  omega

theorem EncodeLength.subLEaDn (dn : BitVec 3) (ea : Ea) : EncodeLength.Statement (.subLEaDn dn ea) := by
  have h0 := Ea_ext_length 2 ea
  simp [EncodeLength.Statement, encode]
  omega

theorem EncodeLength.subLDnEa (dn : BitVec 3) (ea : Ea) : EncodeLength.Statement (.subLDnEa dn ea) := by
  have h0 := Ea_ext_length 2 ea
  simp [EncodeLength.Statement, encode]
  omega

theorem EncodeLength.subaW (an : BitVec 3) (ea : Ea) : EncodeLength.Statement (.subaW an ea) := by
  have h0 := Ea_ext_length 1 ea
  simp [EncodeLength.Statement, encode]
  omega

theorem EncodeLength.subaL (an : BitVec 3) (ea : Ea) : EncodeLength.Statement (.subaL an ea) := by
  have h0 := Ea_ext_length 2 ea
  simp [EncodeLength.Statement, encode]
  omega

theorem EncodeLength.subxB (rx : BitVec 3) (mem : Bool) (ry : BitVec 3) : EncodeLength.Statement (.subxB rx mem ry) := by
  simp [EncodeLength.Statement, encode]

theorem EncodeLength.subxW (rx : BitVec 3) (mem : Bool) (ry : BitVec 3) : EncodeLength.Statement (.subxW rx mem ry) := by
  simp [EncodeLength.Statement, encode]

theorem EncodeLength.subxL (rx : BitVec 3) (mem : Bool) (ry : BitVec 3) : EncodeLength.Statement (.subxL rx mem ry) := by
  simp [EncodeLength.Statement, encode]

theorem EncodeLength.cmpBEaDn (dn : BitVec 3) (ea : Ea) : EncodeLength.Statement (.cmpBEaDn dn ea) := by
  have h0 := Ea_ext_length 1 ea
  simp [EncodeLength.Statement, encode]
  omega

theorem EncodeLength.cmpWEaDn (dn : BitVec 3) (ea : Ea) : EncodeLength.Statement (.cmpWEaDn dn ea) := by
  have h0 := Ea_ext_length 1 ea
  simp [EncodeLength.Statement, encode]
  omega

theorem EncodeLength.cmpLEaDn (dn : BitVec 3) (ea : Ea) : EncodeLength.Statement (.cmpLEaDn dn ea) := by
  have h0 := Ea_ext_length 2 ea
  simp [EncodeLength.Statement, encode]
  omega

theorem EncodeLength.cmpaW (an : BitVec 3) (ea : Ea) : EncodeLength.Statement (.cmpaW an ea) := by
  have h0 := Ea_ext_length 1 ea
  simp [EncodeLength.Statement, encode]
  omega

theorem EncodeLength.cmpaL (an : BitVec 3) (ea : Ea) : EncodeLength.Statement (.cmpaL an ea) := by
  have h0 := Ea_ext_length 2 ea
  simp [EncodeLength.Statement, encode]
  omega

theorem EncodeLength.eorB (dn : BitVec 3) (ea : Ea) : EncodeLength.Statement (.eorB dn ea) := by
  have h0 := Ea_ext_length 1 ea
  simp [EncodeLength.Statement, encode]
  omega

theorem EncodeLength.cmpmB (ax : BitVec 3) (ay : BitVec 3) : EncodeLength.Statement (.cmpmB ax ay) := by
  simp [EncodeLength.Statement, encode]

theorem EncodeLength.eorW (dn : BitVec 3) (ea : Ea) : EncodeLength.Statement (.eorW dn ea) := by
  have h0 := Ea_ext_length 1 ea
  simp [EncodeLength.Statement, encode]
  omega

theorem EncodeLength.cmpmW (ax : BitVec 3) (ay : BitVec 3) : EncodeLength.Statement (.cmpmW ax ay) := by
  simp [EncodeLength.Statement, encode]

theorem EncodeLength.eorL (dn : BitVec 3) (ea : Ea) : EncodeLength.Statement (.eorL dn ea) := by
  have h0 := Ea_ext_length 2 ea
  simp [EncodeLength.Statement, encode]
  omega

theorem EncodeLength.cmpmL (ax : BitVec 3) (ay : BitVec 3) : EncodeLength.Statement (.cmpmL ax ay) := by
  simp [EncodeLength.Statement, encode]

theorem EncodeLength.andBEaDn (dn : BitVec 3) (ea : Ea) : EncodeLength.Statement (.andBEaDn dn ea) := by
  have h0 := Ea_ext_length 1 ea
  simp [EncodeLength.Statement, encode]
  omega

theorem EncodeLength.andBDnEa (dn : BitVec 3) (ea : Ea) : EncodeLength.Statement (.andBDnEa dn ea) := by
  have h0 := Ea_ext_length 1 ea
  simp [EncodeLength.Statement, encode]
  omega

theorem EncodeLength.andWEaDn (dn : BitVec 3) (ea : Ea) : EncodeLength.Statement (.andWEaDn dn ea) := by
  have h0 := Ea_ext_length 1 ea
  simp [EncodeLength.Statement, encode]
  omega

theorem EncodeLength.andWDnEa (dn : BitVec 3) (ea : Ea) : EncodeLength.Statement (.andWDnEa dn ea) := by
  have h0 := Ea_ext_length 1 ea
  simp [EncodeLength.Statement, encode]
  omega

theorem EncodeLength.andLEaDn (dn : BitVec 3) (ea : Ea) : EncodeLength.Statement (.andLEaDn dn ea) := by
  have h0 := Ea_ext_length 2 ea
  simp [EncodeLength.Statement, encode]
  omega

theorem EncodeLength.andLDnEa (dn : BitVec 3) (ea : Ea) : EncodeLength.Statement (.andLDnEa dn ea) := by
  have h0 := Ea_ext_length 2 ea
  simp [EncodeLength.Statement, encode]
  omega

theorem EncodeLength.muluW (dn : BitVec 3) (ea : Ea) : EncodeLength.Statement (.muluW dn ea) := by
  have h0 := Ea_ext_length 1 ea
  simp [EncodeLength.Statement, encode]
  omega

theorem EncodeLength.mulsW (dn : BitVec 3) (ea : Ea) : EncodeLength.Statement (.mulsW dn ea) := by
  have h0 := Ea_ext_length 1 ea
  simp [EncodeLength.Statement, encode]
  omega

theorem EncodeLength.abcd (rx : BitVec 3) (mem : Bool) (ry : BitVec 3) : EncodeLength.Statement (.abcd rx mem ry) := by
  simp [EncodeLength.Statement, encode]

theorem EncodeLength.exgDxDy (rx : BitVec 3) (ry : BitVec 3) : EncodeLength.Statement (.exgDxDy rx ry) := by
  simp [EncodeLength.Statement, encode]

theorem EncodeLength.exgAxAy (rx : BitVec 3) (ry : BitVec 3) : EncodeLength.Statement (.exgAxAy rx ry) := by
  simp [EncodeLength.Statement, encode]

theorem EncodeLength.exgDxAy (rx : BitVec 3) (ry : BitVec 3) : EncodeLength.Statement (.exgDxAy rx ry) := by
  simp [EncodeLength.Statement, encode]

theorem EncodeLength.addBEaDn (dn : BitVec 3) (ea : Ea) : EncodeLength.Statement (.addBEaDn dn ea) := by
  have h0 := Ea_ext_length 1 ea
  simp [EncodeLength.Statement, encode]
  omega

theorem EncodeLength.addBDnEa (dn : BitVec 3) (ea : Ea) : EncodeLength.Statement (.addBDnEa dn ea) := by
  have h0 := Ea_ext_length 1 ea
  simp [EncodeLength.Statement, encode]
  omega

theorem EncodeLength.addWEaDn (dn : BitVec 3) (ea : Ea) : EncodeLength.Statement (.addWEaDn dn ea) := by
  have h0 := Ea_ext_length 1 ea
  simp [EncodeLength.Statement, encode]
  omega

theorem EncodeLength.addWDnEa (dn : BitVec 3) (ea : Ea) : EncodeLength.Statement (.addWDnEa dn ea) := by
  have h0 := Ea_ext_length 1 ea
  simp [EncodeLength.Statement, encode]
  omega

theorem EncodeLength.addLEaDn (dn : BitVec 3) (ea : Ea) : EncodeLength.Statement (.addLEaDn dn ea) := by
  have h0 := Ea_ext_length 2 ea
  simp [EncodeLength.Statement, encode]
  omega

theorem EncodeLength.addLDnEa (dn : BitVec 3) (ea : Ea) : EncodeLength.Statement (.addLDnEa dn ea) := by
  have h0 := Ea_ext_length 2 ea
  simp [EncodeLength.Statement, encode]
  omega

theorem EncodeLength.addaW (an : BitVec 3) (ea : Ea) : EncodeLength.Statement (.addaW an ea) := by
  have h0 := Ea_ext_length 1 ea
  simp [EncodeLength.Statement, encode]
  omega

theorem EncodeLength.addaL (an : BitVec 3) (ea : Ea) : EncodeLength.Statement (.addaL an ea) := by
  have h0 := Ea_ext_length 2 ea
  simp [EncodeLength.Statement, encode]
  omega

theorem EncodeLength.addxB (rx : BitVec 3) (mem : Bool) (ry : BitVec 3) : EncodeLength.Statement (.addxB rx mem ry) := by
  simp [EncodeLength.Statement, encode]

theorem EncodeLength.addxW (rx : BitVec 3) (mem : Bool) (ry : BitVec 3) : EncodeLength.Statement (.addxW rx mem ry) := by
  simp [EncodeLength.Statement, encode]

theorem EncodeLength.addxL (rx : BitVec 3) (mem : Bool) (ry : BitVec 3) : EncodeLength.Statement (.addxL rx mem ry) := by
  simp [EncodeLength.Statement, encode]

theorem EncodeLength.asrBDxDy (cnt : BitVec 3) (ir : Bool) (dy : BitVec 3) : EncodeLength.Statement (.asrBDxDy cnt ir dy) := by
  simp [EncodeLength.Statement, encode]

theorem EncodeLength.asrWDxDy (cnt : BitVec 3) (ir : Bool) (dy : BitVec 3) : EncodeLength.Statement (.asrWDxDy cnt ir dy) := by
  simp [EncodeLength.Statement, encode]

theorem EncodeLength.asrLDxDy (cnt : BitVec 3) (ir : Bool) (dy : BitVec 3) : EncodeLength.Statement (.asrLDxDy cnt ir dy) := by
  simp [EncodeLength.Statement, encode]

theorem EncodeLength.asrEa (ea : Ea) : EncodeLength.Statement (.asrEa ea) := by
  have h0 := Ea_ext_length 1 ea
  simp [EncodeLength.Statement, encode]
  omega

theorem EncodeLength.aslBDxDy (cnt : BitVec 3) (ir : Bool) (dy : BitVec 3) : EncodeLength.Statement (.aslBDxDy cnt ir dy) := by
  simp [EncodeLength.Statement, encode]

theorem EncodeLength.aslWDxDy (cnt : BitVec 3) (ir : Bool) (dy : BitVec 3) : EncodeLength.Statement (.aslWDxDy cnt ir dy) := by
  simp [EncodeLength.Statement, encode]

theorem EncodeLength.aslLDxDy (cnt : BitVec 3) (ir : Bool) (dy : BitVec 3) : EncodeLength.Statement (.aslLDxDy cnt ir dy) := by
  simp [EncodeLength.Statement, encode]

theorem EncodeLength.aslEa (ea : Ea) : EncodeLength.Statement (.aslEa ea) := by
  have h0 := Ea_ext_length 1 ea
  simp [EncodeLength.Statement, encode]
  omega

theorem EncodeLength.lsrBDxDy (cnt : BitVec 3) (ir : Bool) (dy : BitVec 3) : EncodeLength.Statement (.lsrBDxDy cnt ir dy) := by
  simp [EncodeLength.Statement, encode]

theorem EncodeLength.lsrWDxDy (cnt : BitVec 3) (ir : Bool) (dy : BitVec 3) : EncodeLength.Statement (.lsrWDxDy cnt ir dy) := by
  simp [EncodeLength.Statement, encode]

theorem EncodeLength.lsrLDxDy (cnt : BitVec 3) (ir : Bool) (dy : BitVec 3) : EncodeLength.Statement (.lsrLDxDy cnt ir dy) := by
  simp [EncodeLength.Statement, encode]

theorem EncodeLength.lsrEa (ea : Ea) : EncodeLength.Statement (.lsrEa ea) := by
  have h0 := Ea_ext_length 1 ea
  simp [EncodeLength.Statement, encode]
  omega

theorem EncodeLength.lslBDxDy (cnt : BitVec 3) (ir : Bool) (dy : BitVec 3) : EncodeLength.Statement (.lslBDxDy cnt ir dy) := by
  simp [EncodeLength.Statement, encode]

theorem EncodeLength.lslWDxDy (cnt : BitVec 3) (ir : Bool) (dy : BitVec 3) : EncodeLength.Statement (.lslWDxDy cnt ir dy) := by
  simp [EncodeLength.Statement, encode]

theorem EncodeLength.lslLDxDy (cnt : BitVec 3) (ir : Bool) (dy : BitVec 3) : EncodeLength.Statement (.lslLDxDy cnt ir dy) := by
  simp [EncodeLength.Statement, encode]

theorem EncodeLength.lslEa (ea : Ea) : EncodeLength.Statement (.lslEa ea) := by
  have h0 := Ea_ext_length 1 ea
  simp [EncodeLength.Statement, encode]
  omega

theorem EncodeLength.roxrBDxDy (cnt : BitVec 3) (ir : Bool) (dy : BitVec 3) : EncodeLength.Statement (.roxrBDxDy cnt ir dy) := by
  simp [EncodeLength.Statement, encode]

theorem EncodeLength.roxrWDxDy (cnt : BitVec 3) (ir : Bool) (dy : BitVec 3) : EncodeLength.Statement (.roxrWDxDy cnt ir dy) := by
  simp [EncodeLength.Statement, encode]

theorem EncodeLength.roxrLDxDy (cnt : BitVec 3) (ir : Bool) (dy : BitVec 3) : EncodeLength.Statement (.roxrLDxDy cnt ir dy) := by
  simp [EncodeLength.Statement, encode]

theorem EncodeLength.roxrEa (ea : Ea) : EncodeLength.Statement (.roxrEa ea) := by
  have h0 := Ea_ext_length 1 ea
  simp [EncodeLength.Statement, encode]
  omega

theorem EncodeLength.roxlBDxDy (cnt : BitVec 3) (ir : Bool) (dy : BitVec 3) : EncodeLength.Statement (.roxlBDxDy cnt ir dy) := by
  simp [EncodeLength.Statement, encode]

theorem EncodeLength.roxlWDxDy (cnt : BitVec 3) (ir : Bool) (dy : BitVec 3) : EncodeLength.Statement (.roxlWDxDy cnt ir dy) := by
  simp [EncodeLength.Statement, encode]

theorem EncodeLength.roxlLDxDy (cnt : BitVec 3) (ir : Bool) (dy : BitVec 3) : EncodeLength.Statement (.roxlLDxDy cnt ir dy) := by
  simp [EncodeLength.Statement, encode]

theorem EncodeLength.roxlEa (ea : Ea) : EncodeLength.Statement (.roxlEa ea) := by
  have h0 := Ea_ext_length 1 ea
  simp [EncodeLength.Statement, encode]
  omega

theorem EncodeLength.rorBDxDy (cnt : BitVec 3) (ir : Bool) (dy : BitVec 3) : EncodeLength.Statement (.rorBDxDy cnt ir dy) := by
  simp [EncodeLength.Statement, encode]

theorem EncodeLength.rorWDxDy (cnt : BitVec 3) (ir : Bool) (dy : BitVec 3) : EncodeLength.Statement (.rorWDxDy cnt ir dy) := by
  simp [EncodeLength.Statement, encode]

theorem EncodeLength.rorLDxDy (cnt : BitVec 3) (ir : Bool) (dy : BitVec 3) : EncodeLength.Statement (.rorLDxDy cnt ir dy) := by
  simp [EncodeLength.Statement, encode]

theorem EncodeLength.rorEa (ea : Ea) : EncodeLength.Statement (.rorEa ea) := by
  have h0 := Ea_ext_length 1 ea
  simp [EncodeLength.Statement, encode]
  omega

theorem EncodeLength.rolBDxDy (cnt : BitVec 3) (ir : Bool) (dy : BitVec 3) : EncodeLength.Statement (.rolBDxDy cnt ir dy) := by
  simp [EncodeLength.Statement, encode]

theorem EncodeLength.rolWDxDy (cnt : BitVec 3) (ir : Bool) (dy : BitVec 3) : EncodeLength.Statement (.rolWDxDy cnt ir dy) := by
  simp [EncodeLength.Statement, encode]

theorem EncodeLength.rolLDxDy (cnt : BitVec 3) (ir : Bool) (dy : BitVec 3) : EncodeLength.Statement (.rolLDxDy cnt ir dy) := by
  simp [EncodeLength.Statement, encode]

theorem EncodeLength.rolEa (ea : Ea) : EncodeLength.Statement (.rolEa ea) := by
  have h0 := Ea_ext_length 1 ea
  simp [EncodeLength.Statement, encode]
  omega

theorem EncodeLength.bftst (bf : BfSpec) (ea : Ea) : EncodeLength.Statement (.bftst bf ea) := by
  have h0 := Ea_ext_length 1 ea
  simp [EncodeLength.Statement, encode]
  omega

theorem EncodeLength.bfextu (dn : BitVec 3) (bf : BfSpec) (ea : Ea) : EncodeLength.Statement (.bfextu dn bf ea) := by
  have h0 := Ea_ext_length 1 ea
  simp [EncodeLength.Statement, encode]
  omega

theorem EncodeLength.bfchg (bf : BfSpec) (ea : Ea) : EncodeLength.Statement (.bfchg bf ea) := by
  have h0 := Ea_ext_length 1 ea
  simp [EncodeLength.Statement, encode]
  omega

theorem EncodeLength.bfexts (dn : BitVec 3) (bf : BfSpec) (ea : Ea) : EncodeLength.Statement (.bfexts dn bf ea) := by
  have h0 := Ea_ext_length 1 ea
  simp [EncodeLength.Statement, encode]
  omega

theorem EncodeLength.bfclr (bf : BfSpec) (ea : Ea) : EncodeLength.Statement (.bfclr bf ea) := by
  have h0 := Ea_ext_length 1 ea
  simp [EncodeLength.Statement, encode]
  omega

theorem EncodeLength.bfffo (dn : BitVec 3) (bf : BfSpec) (ea : Ea) : EncodeLength.Statement (.bfffo dn bf ea) := by
  have h0 := Ea_ext_length 1 ea
  simp [EncodeLength.Statement, encode]
  omega

theorem EncodeLength.bfset (bf : BfSpec) (ea : Ea) : EncodeLength.Statement (.bfset bf ea) := by
  have h0 := Ea_ext_length 1 ea
  simp [EncodeLength.Statement, encode]
  omega

theorem EncodeLength.bfins (dn : BitVec 3) (bf : BfSpec) (ea : Ea) : EncodeLength.Statement (.bfins dn bf ea) := by
  have h0 := Ea_ext_length 1 ea
  simp [EncodeLength.Statement, encode]
  omega

theorem EncodeLength.fmoveEaFpmFpn (src : FpSrc) (dst : BitVec 3) : EncodeLength.Statement (.fmoveEaFpmFpn src dst) := by
  have h0 := FpSrc_ext_length src
  simp [EncodeLength.Statement, encode]
  omega

theorem EncodeLength.fsmove (src : FpSrc) (dst : BitVec 3) : EncodeLength.Statement (.fsmove src dst) := by
  have h0 := FpSrc_ext_length src
  simp [EncodeLength.Statement, encode]
  omega

theorem EncodeLength.fdmove (src : FpSrc) (dst : BitVec 3) : EncodeLength.Statement (.fdmove src dst) := by
  have h0 := FpSrc_ext_length src
  simp [EncodeLength.Statement, encode]
  omega

theorem EncodeLength.fsqrt (src : FpSrc) (dst : BitVec 3) : EncodeLength.Statement (.fsqrt src dst) := by
  have h0 := FpSrc_ext_length src
  simp [EncodeLength.Statement, encode]
  omega

theorem EncodeLength.fssqrt (src : FpSrc) (dst : BitVec 3) : EncodeLength.Statement (.fssqrt src dst) := by
  have h0 := FpSrc_ext_length src
  simp [EncodeLength.Statement, encode]
  omega

theorem EncodeLength.fdsqrt (src : FpSrc) (dst : BitVec 3) : EncodeLength.Statement (.fdsqrt src dst) := by
  have h0 := FpSrc_ext_length src
  simp [EncodeLength.Statement, encode]
  omega

theorem EncodeLength.fabs (src : FpSrc) (dst : BitVec 3) : EncodeLength.Statement (.fabs src dst) := by
  have h0 := FpSrc_ext_length src
  simp [EncodeLength.Statement, encode]
  omega

theorem EncodeLength.fsabs (src : FpSrc) (dst : BitVec 3) : EncodeLength.Statement (.fsabs src dst) := by
  have h0 := FpSrc_ext_length src
  simp [EncodeLength.Statement, encode]
  omega

theorem EncodeLength.fdabs (src : FpSrc) (dst : BitVec 3) : EncodeLength.Statement (.fdabs src dst) := by
  have h0 := FpSrc_ext_length src
  simp [EncodeLength.Statement, encode]
  omega

theorem EncodeLength.fneg (src : FpSrc) (dst : BitVec 3) : EncodeLength.Statement (.fneg src dst) := by
  have h0 := FpSrc_ext_length src
  simp [EncodeLength.Statement, encode]
  omega

theorem EncodeLength.fsneg (src : FpSrc) (dst : BitVec 3) : EncodeLength.Statement (.fsneg src dst) := by
  have h0 := FpSrc_ext_length src
  simp [EncodeLength.Statement, encode]
  omega

theorem EncodeLength.fdneg (src : FpSrc) (dst : BitVec 3) : EncodeLength.Statement (.fdneg src dst) := by
  have h0 := FpSrc_ext_length src
  simp [EncodeLength.Statement, encode]
  omega

theorem EncodeLength.fdiv (src : FpSrc) (dst : BitVec 3) : EncodeLength.Statement (.fdiv src dst) := by
  have h0 := FpSrc_ext_length src
  simp [EncodeLength.Statement, encode]
  omega

theorem EncodeLength.fsdiv (src : FpSrc) (dst : BitVec 3) : EncodeLength.Statement (.fsdiv src dst) := by
  have h0 := FpSrc_ext_length src
  simp [EncodeLength.Statement, encode]
  omega

theorem EncodeLength.fddiv (src : FpSrc) (dst : BitVec 3) : EncodeLength.Statement (.fddiv src dst) := by
  have h0 := FpSrc_ext_length src
  simp [EncodeLength.Statement, encode]
  omega

theorem EncodeLength.fadd (src : FpSrc) (dst : BitVec 3) : EncodeLength.Statement (.fadd src dst) := by
  have h0 := FpSrc_ext_length src
  simp [EncodeLength.Statement, encode]
  omega

theorem EncodeLength.fsadd (src : FpSrc) (dst : BitVec 3) : EncodeLength.Statement (.fsadd src dst) := by
  have h0 := FpSrc_ext_length src
  simp [EncodeLength.Statement, encode]
  omega

theorem EncodeLength.fdadd (src : FpSrc) (dst : BitVec 3) : EncodeLength.Statement (.fdadd src dst) := by
  have h0 := FpSrc_ext_length src
  simp [EncodeLength.Statement, encode]
  omega

theorem EncodeLength.fmul (src : FpSrc) (dst : BitVec 3) : EncodeLength.Statement (.fmul src dst) := by
  have h0 := FpSrc_ext_length src
  simp [EncodeLength.Statement, encode]
  omega

theorem EncodeLength.fsmul (src : FpSrc) (dst : BitVec 3) : EncodeLength.Statement (.fsmul src dst) := by
  have h0 := FpSrc_ext_length src
  simp [EncodeLength.Statement, encode]
  omega

theorem EncodeLength.fdmul (src : FpSrc) (dst : BitVec 3) : EncodeLength.Statement (.fdmul src dst) := by
  have h0 := FpSrc_ext_length src
  simp [EncodeLength.Statement, encode]
  omega

theorem EncodeLength.fsub (src : FpSrc) (dst : BitVec 3) : EncodeLength.Statement (.fsub src dst) := by
  have h0 := FpSrc_ext_length src
  simp [EncodeLength.Statement, encode]
  omega

theorem EncodeLength.fssub (src : FpSrc) (dst : BitVec 3) : EncodeLength.Statement (.fssub src dst) := by
  have h0 := FpSrc_ext_length src
  simp [EncodeLength.Statement, encode]
  omega

theorem EncodeLength.fdsub (src : FpSrc) (dst : BitVec 3) : EncodeLength.Statement (.fdsub src dst) := by
  have h0 := FpSrc_ext_length src
  simp [EncodeLength.Statement, encode]
  omega

theorem EncodeLength.fcmp (src : FpSrc) (dst : BitVec 3) : EncodeLength.Statement (.fcmp src dst) := by
  have h0 := FpSrc_ext_length src
  simp [EncodeLength.Statement, encode]
  omega

theorem EncodeLength.ftst (src : FpSrc) (dst : BitVec 3) : EncodeLength.Statement (.ftst src dst) := by
  have h0 := FpSrc_ext_length src
  simp [EncodeLength.Statement, encode]
  omega

theorem EncodeLength.fintUnimplemented (src : FpSrc) (dst : BitVec 3) : EncodeLength.Statement (.fintUnimplemented src dst) := by
  have h0 := FpSrc_ext_length src
  simp [EncodeLength.Statement, encode]
  omega

theorem EncodeLength.fsinhUnimplemented (src : FpSrc) (dst : BitVec 3) : EncodeLength.Statement (.fsinhUnimplemented src dst) := by
  have h0 := FpSrc_ext_length src
  simp [EncodeLength.Statement, encode]
  omega

theorem EncodeLength.fintrzUnimplemented (src : FpSrc) (dst : BitVec 3) : EncodeLength.Statement (.fintrzUnimplemented src dst) := by
  have h0 := FpSrc_ext_length src
  simp [EncodeLength.Statement, encode]
  omega

theorem EncodeLength.flognp1Unimplemented (src : FpSrc) (dst : BitVec 3) : EncodeLength.Statement (.flognp1Unimplemented src dst) := by
  have h0 := FpSrc_ext_length src
  simp [EncodeLength.Statement, encode]
  omega

theorem EncodeLength.fetoxm1Unimplemented (src : FpSrc) (dst : BitVec 3) : EncodeLength.Statement (.fetoxm1Unimplemented src dst) := by
  have h0 := FpSrc_ext_length src
  simp [EncodeLength.Statement, encode]
  omega

theorem EncodeLength.ftanhUnimplemented (src : FpSrc) (dst : BitVec 3) : EncodeLength.Statement (.ftanhUnimplemented src dst) := by
  have h0 := FpSrc_ext_length src
  simp [EncodeLength.Statement, encode]
  omega

theorem EncodeLength.fatanUnimplemented (src : FpSrc) (dst : BitVec 3) : EncodeLength.Statement (.fatanUnimplemented src dst) := by
  have h0 := FpSrc_ext_length src
  simp [EncodeLength.Statement, encode]
  omega

theorem EncodeLength.fasinUnimplemented (src : FpSrc) (dst : BitVec 3) : EncodeLength.Statement (.fasinUnimplemented src dst) := by
  have h0 := FpSrc_ext_length src
  simp [EncodeLength.Statement, encode]
  omega

theorem EncodeLength.fatanhUnimplemented (src : FpSrc) (dst : BitVec 3) : EncodeLength.Statement (.fatanhUnimplemented src dst) := by
  have h0 := FpSrc_ext_length src
  simp [EncodeLength.Statement, encode]
  omega

theorem EncodeLength.fsinUnimplemented (src : FpSrc) (dst : BitVec 3) : EncodeLength.Statement (.fsinUnimplemented src dst) := by
  have h0 := FpSrc_ext_length src
  simp [EncodeLength.Statement, encode]
  omega

theorem EncodeLength.ftanUnimplemented (src : FpSrc) (dst : BitVec 3) : EncodeLength.Statement (.ftanUnimplemented src dst) := by
  have h0 := FpSrc_ext_length src
  simp [EncodeLength.Statement, encode]
  omega

theorem EncodeLength.fetoxUnimplemented (src : FpSrc) (dst : BitVec 3) : EncodeLength.Statement (.fetoxUnimplemented src dst) := by
  have h0 := FpSrc_ext_length src
  simp [EncodeLength.Statement, encode]
  omega

theorem EncodeLength.ftwotoxUnimplemented (src : FpSrc) (dst : BitVec 3) : EncodeLength.Statement (.ftwotoxUnimplemented src dst) := by
  have h0 := FpSrc_ext_length src
  simp [EncodeLength.Statement, encode]
  omega

theorem EncodeLength.ftentoxUnimplemented (src : FpSrc) (dst : BitVec 3) : EncodeLength.Statement (.ftentoxUnimplemented src dst) := by
  have h0 := FpSrc_ext_length src
  simp [EncodeLength.Statement, encode]
  omega

theorem EncodeLength.flognUnimplemented (src : FpSrc) (dst : BitVec 3) : EncodeLength.Statement (.flognUnimplemented src dst) := by
  have h0 := FpSrc_ext_length src
  simp [EncodeLength.Statement, encode]
  omega

theorem EncodeLength.flog10Unimplemented (src : FpSrc) (dst : BitVec 3) : EncodeLength.Statement (.flog10Unimplemented src dst) := by
  have h0 := FpSrc_ext_length src
  simp [EncodeLength.Statement, encode]
  omega

theorem EncodeLength.flog2Unimplemented (src : FpSrc) (dst : BitVec 3) : EncodeLength.Statement (.flog2Unimplemented src dst) := by
  have h0 := FpSrc_ext_length src
  simp [EncodeLength.Statement, encode]
  omega

theorem EncodeLength.fcoshUnimplemented (src : FpSrc) (dst : BitVec 3) : EncodeLength.Statement (.fcoshUnimplemented src dst) := by
  have h0 := FpSrc_ext_length src
  simp [EncodeLength.Statement, encode]
  omega

theorem EncodeLength.facosUnimplemented (src : FpSrc) (dst : BitVec 3) : EncodeLength.Statement (.facosUnimplemented src dst) := by
  have h0 := FpSrc_ext_length src
  simp [EncodeLength.Statement, encode]
  omega

theorem EncodeLength.fcosUnimplemented (src : FpSrc) (dst : BitVec 3) : EncodeLength.Statement (.fcosUnimplemented src dst) := by
  have h0 := FpSrc_ext_length src
  simp [EncodeLength.Statement, encode]
  omega

theorem EncodeLength.fgetexpUnimplemented (src : FpSrc) (dst : BitVec 3) : EncodeLength.Statement (.fgetexpUnimplemented src dst) := by
  have h0 := FpSrc_ext_length src
  simp [EncodeLength.Statement, encode]
  omega

theorem EncodeLength.fgetmanUnimplemented (src : FpSrc) (dst : BitVec 3) : EncodeLength.Statement (.fgetmanUnimplemented src dst) := by
  have h0 := FpSrc_ext_length src
  simp [EncodeLength.Statement, encode]
  omega

theorem EncodeLength.fmodUnimplemented (src : FpSrc) (dst : BitVec 3) : EncodeLength.Statement (.fmodUnimplemented src dst) := by
  have h0 := FpSrc_ext_length src
  simp [EncodeLength.Statement, encode]
  omega

theorem EncodeLength.fsgldivUnimplemented (src : FpSrc) (dst : BitVec 3) : EncodeLength.Statement (.fsgldivUnimplemented src dst) := by
  have h0 := FpSrc_ext_length src
  simp [EncodeLength.Statement, encode]
  omega

theorem EncodeLength.fremUnimplemented (src : FpSrc) (dst : BitVec 3) : EncodeLength.Statement (.fremUnimplemented src dst) := by
  have h0 := FpSrc_ext_length src
  simp [EncodeLength.Statement, encode]
  omega

theorem EncodeLength.fscaleUnimplemented (src : FpSrc) (dst : BitVec 3) : EncodeLength.Statement (.fscaleUnimplemented src dst) := by
  have h0 := FpSrc_ext_length src
  simp [EncodeLength.Statement, encode]
  omega

theorem EncodeLength.fsglmulUnimplemented (src : FpSrc) (dst : BitVec 3) : EncodeLength.Statement (.fsglmulUnimplemented src dst) := by
  have h0 := FpSrc_ext_length src
  simp [EncodeLength.Statement, encode]
  omega

theorem EncodeLength.fsincosUnimplemented (src : FpSrc) (dst : BitVec 3) (dc : BitVec 3) : EncodeLength.Statement (.fsincosUnimplemented src dst dc) := by
  have h0 := FpSrc_ext_length src
  simp [EncodeLength.Statement, encode]
  omega

theorem EncodeLength.fmovecrUnimplemented (dst : BitVec 3) (off : BitVec 7) : EncodeLength.Statement (.fmovecrUnimplemented dst off) := by
  simp [EncodeLength.Statement, encode]

theorem EncodeLength.fmoveLFpmEa (src : BitVec 3) (ea : Ea) : EncodeLength.Statement (.fmoveLFpmEa src ea) := by
  have h0 := Ea_ext_length 1 ea
  simp [EncodeLength.Statement, encode]
  omega

theorem EncodeLength.fmoveSFpmEa (src : BitVec 3) (ea : Ea) : EncodeLength.Statement (.fmoveSFpmEa src ea) := by
  have h0 := Ea_ext_length 1 ea
  simp [EncodeLength.Statement, encode]
  omega

theorem EncodeLength.fmoveXFpmEa (src : BitVec 3) (ea : Ea) : EncodeLength.Statement (.fmoveXFpmEa src ea) := by
  have h0 := Ea_ext_length 1 ea
  simp [EncodeLength.Statement, encode]
  omega

theorem EncodeLength.fmovePKFpmEa (src : BitVec 3) (k : BitVec 7) (ea : Ea) : EncodeLength.Statement (.fmovePKFpmEa src k ea) := by
  have h0 := Ea_ext_length 1 ea
  simp [EncodeLength.Statement, encode]
  omega

theorem EncodeLength.fmoveWFpmEa (src : BitVec 3) (ea : Ea) : EncodeLength.Statement (.fmoveWFpmEa src ea) := by
  have h0 := Ea_ext_length 1 ea
  simp [EncodeLength.Statement, encode]
  omega

theorem EncodeLength.fmoveDFpmEa (src : BitVec 3) (ea : Ea) : EncodeLength.Statement (.fmoveDFpmEa src ea) := by
  have h0 := Ea_ext_length 1 ea
  simp [EncodeLength.Statement, encode]
  omega

theorem EncodeLength.fmoveBFpmEa (src : BitVec 3) (ea : Ea) : EncodeLength.Statement (.fmoveBFpmEa src ea) := by
  have h0 := Ea_ext_length 1 ea
  simp [EncodeLength.Statement, encode]
  omega

theorem EncodeLength.fmovePDnFpmEa (src : BitVec 3) (dn : BitVec 3) (ea : Ea) : EncodeLength.Statement (.fmovePDnFpmEa src dn ea) := by
  have h0 := Ea_ext_length 1 ea
  simp [EncodeLength.Statement, encode]
  omega

theorem EncodeLength.fmoveLEaFpcr (ea : Ea) : EncodeLength.Statement (.fmoveLEaFpcr ea) := by
  have h0 := Ea_ext_length 2 ea
  simp [EncodeLength.Statement, encode]
  omega

theorem EncodeLength.fmoveLEaFpsr (ea : Ea) : EncodeLength.Statement (.fmoveLEaFpsr ea) := by
  have h0 := Ea_ext_length 2 ea
  simp [EncodeLength.Statement, encode]
  omega

theorem EncodeLength.fmoveLEaFpiar (ea : Ea) : EncodeLength.Statement (.fmoveLEaFpiar ea) := by
  have h0 := Ea_ext_length 2 ea
  simp [EncodeLength.Statement, encode]
  omega

theorem EncodeLength.fmovemLEaCtrlList (regs : BitVec 3) (ea : Ea) : EncodeLength.Statement (.fmovemLEaCtrlList regs ea) := by
  have h0 := Ea_ext_length (2 * ctrlCount regs) ea
  have h1 := ctrlCount_le regs
  simp [EncodeLength.Statement, encode]
  omega

theorem EncodeLength.fmoveLFpcrEa (ea : Ea) : EncodeLength.Statement (.fmoveLFpcrEa ea) := by
  have h0 := Ea_ext_length 2 ea
  simp [EncodeLength.Statement, encode]
  omega

theorem EncodeLength.fmoveLFpsrEa (ea : Ea) : EncodeLength.Statement (.fmoveLFpsrEa ea) := by
  have h0 := Ea_ext_length 2 ea
  simp [EncodeLength.Statement, encode]
  omega

theorem EncodeLength.fmoveLFpiarEa (ea : Ea) : EncodeLength.Statement (.fmoveLFpiarEa ea) := by
  have h0 := Ea_ext_length 2 ea
  simp [EncodeLength.Statement, encode]
  omega

theorem EncodeLength.fmovemLCtrlListEa (regs : BitVec 3) (ea : Ea) : EncodeLength.Statement (.fmovemLCtrlListEa regs ea) := by
  have h0 := Ea_ext_length (2 * ctrlCount regs) ea
  have h1 := ctrlCount_le regs
  simp [EncodeLength.Statement, encode]
  omega

theorem EncodeLength.fmovemXEaList (mode : BitVec 2) (list : BitVec 8) (ea : Ea) : EncodeLength.Statement (.fmovemXEaList mode list ea) := by
  have h0 := Ea_ext_length 1 ea
  simp [EncodeLength.Statement, encode]
  omega

theorem EncodeLength.fmovemXListEa (mode : BitVec 2) (list : BitVec 8) (ea : Ea) : EncodeLength.Statement (.fmovemXListEa mode list ea) := by
  have h0 := Ea_ext_length 1 ea
  simp [EncodeLength.Statement, encode]
  omega

theorem EncodeLength.fscc (pred : BitVec 5) (ea : Ea) : EncodeLength.Statement (.fscc pred ea) := by
  have h0 := Ea_ext_length 1 ea
  simp [EncodeLength.Statement, encode]
  omega

theorem EncodeLength.fdbcc (pred : BitVec 5) (dn : BitVec 3) (d : BitVec 16) : EncodeLength.Statement (.fdbcc pred dn d) := by
  simp [EncodeLength.Statement, encode]

theorem EncodeLength.ftrapccW (pred : BitVec 5) (imm : BitVec 16) : EncodeLength.Statement (.ftrapccW pred imm) := by
  simp [EncodeLength.Statement, encode]

theorem EncodeLength.ftrapccL (pred : BitVec 5) (imm : BitVec 32) : EncodeLength.Statement (.ftrapccL pred imm) := by
  simp [EncodeLength.Statement, encode, longWords]

theorem EncodeLength.ftrapcc (pred : BitVec 5) : EncodeLength.Statement (.ftrapcc pred) := by
  simp [EncodeLength.Statement, encode]

theorem EncodeLength.fnop : EncodeLength.Statement .fnop := by
  simp [EncodeLength.Statement, encode]

theorem EncodeLength.fbccW (pred : BitVec 5) (d : BitVec 16) : EncodeLength.Statement (.fbccW pred d) := by
  simp [EncodeLength.Statement, encode]

theorem EncodeLength.fbccL (pred : BitVec 5) (d : BitVec 32) : EncodeLength.Statement (.fbccL pred d) := by
  simp [EncodeLength.Statement, encode, longWords]

theorem EncodeLength.fsave (ea : Ea) : EncodeLength.Statement (.fsave ea) := by
  have h0 := Ea_ext_length 1 ea
  simp [EncodeLength.Statement, encode]
  omega

theorem EncodeLength.frestore (ea : Ea) : EncodeLength.Statement (.frestore ea) := by
  have h0 := Ea_ext_length 1 ea
  simp [EncodeLength.Statement, encode]
  omega

theorem EncodeLength.cinvl (caches : BitVec 2) (an : BitVec 3) : EncodeLength.Statement (.cinvl caches an) := by
  simp [EncodeLength.Statement, encode]

theorem EncodeLength.cinvp (caches : BitVec 2) (an : BitVec 3) : EncodeLength.Statement (.cinvp caches an) := by
  simp [EncodeLength.Statement, encode]

theorem EncodeLength.cinva (caches : BitVec 2) : EncodeLength.Statement (.cinva caches) := by
  simp [EncodeLength.Statement, encode]

theorem EncodeLength.cpushl (caches : BitVec 2) (an : BitVec 3) : EncodeLength.Statement (.cpushl caches an) := by
  simp [EncodeLength.Statement, encode]

theorem EncodeLength.cpushp (caches : BitVec 2) (an : BitVec 3) : EncodeLength.Statement (.cpushp caches an) := by
  simp [EncodeLength.Statement, encode]

theorem EncodeLength.cpusha (caches : BitVec 2) : EncodeLength.Statement (.cpusha caches) := by
  simp [EncodeLength.Statement, encode]

theorem EncodeLength.pflushnAn (an : BitVec 3) : EncodeLength.Statement (.pflushnAn an) := by
  simp [EncodeLength.Statement, encode]

theorem EncodeLength.pflushAn (an : BitVec 3) : EncodeLength.Statement (.pflushAn an) := by
  simp [EncodeLength.Statement, encode]

theorem EncodeLength.pflushan : EncodeLength.Statement .pflushan := by
  simp [EncodeLength.Statement, encode]

theorem EncodeLength.pflusha : EncodeLength.Statement .pflusha := by
  simp [EncodeLength.Statement, encode]

theorem EncodeLength.ptestwAn (an : BitVec 3) : EncodeLength.Statement (.ptestwAn an) := by
  simp [EncodeLength.Statement, encode]

theorem EncodeLength.ptestrAn (an : BitVec 3) : EncodeLength.Statement (.ptestrAn an) := by
  simp [EncodeLength.Statement, encode]

theorem EncodeLength.move16AxPlusAyPlus (ax : BitVec 3) (ay : BitVec 3) : EncodeLength.Statement (.move16AxPlusAyPlus ax ay) := by
  simp [EncodeLength.Statement, encode]

theorem EncodeLength.move16AnPlusXxxL (an : BitVec 3) (addr : BitVec 32) : EncodeLength.Statement (.move16AnPlusXxxL an addr) := by
  simp [EncodeLength.Statement, encode, longWords]

theorem EncodeLength.move16XxxLAnPlus (an : BitVec 3) (addr : BitVec 32) : EncodeLength.Statement (.move16XxxLAnPlus an addr) := by
  simp [EncodeLength.Statement, encode, longWords]

theorem EncodeLength.move16AnXxxL (an : BitVec 3) (addr : BitVec 32) : EncodeLength.Statement (.move16AnXxxL an addr) := by
  simp [EncodeLength.Statement, encode, longWords]

theorem EncodeLength.move16XxxLAn (an : BitVec 3) (addr : BitVec 32) : EncodeLength.Statement (.move16XxxLAn an addr) := by
  simp [EncodeLength.Statement, encode, longWords]

end Sys2Proof.Laws
end

