-- ==== Sys2Proof/Tests/Slice0.lean ====
section
/-! SUPPORT. Tests: ill-formed instructions are refused, words written out from the spec's encodings decode, the vectors
of the spec's tables (R481, R570, R670, R790, R810, R843, R895, R910, R940, R1000, R1056, R1105, R1150, R1270, R1350 and
95_test_vectors) come out, and every statement's hypotheses are met by a concrete state. -/

namespace Sys2Proof.Tests

open Sys2Proof Sys2Proof.Machine

set_option Elab.async false

/-! ### Helpers -/

/-- The instructions that the word lists decode to, each well formed. -/
noncomputable def reads (l : List (List Word × Instr)) : Bool :=
  l.all fun p => decide (decode p.1 = .ok p.2 [] ∧ p.2.wf = true)

/-- Memory after reset with empty ATCs and caches. -/
def bare : MemSys :=
  { MemSys.reset with
    pipe := [], iatc := [], datc := [], icache := [], dcache := [], iatcCtr := 0, datcCtr := 0, icacheCtr := 0, dcacheCtr := 0 }

/-- A state from reset, its caches and the pipeline empty: SR, pc, registers (D0-D7 as 0-7, A0-A7 as 8-15), values in memory (address, bytes, value). -/
def st (sr : Word) (pc : Long) (regs : List (BitVec 4 × Long)) (mem : List (Long × Nat × Long)) : State :=
  let s := { State.reset with sr := sr, pc := pc, mem := bare }
  let s := regs.foldl (fun s p => s.setR p.1 p.2) s
  { s with mem := { s.mem with ram := mem.foldl (fun m p => putBytes m 0 p.1 (toBytes p.2.2 p.2.1)) [] } }

/-- The state with words stored where the pc points. -/
def load (s : State) (ws : List Word) : State :=
  { s with mem := { s.mem with ram := putBytes s.mem.ram 0 s.pc (wordBytes ws) } }

/-- One step with the words at the pc gives a next state of which `p` holds. -/
noncomputable def gives (s : State) (ws : List Word) (p : State → Bool) : Bool :=
  match step (load s ws) with
  | .next t => p t
  | _ => false

/-- Two steps with the words at the pc. -/
noncomputable def gives2 (s : State) (ws : List Word) (p : State → Bool) : Bool :=
  gives s ws fun t => match step t with | .next u => p u | _ => false

/-- Registers and values in memory. -/
def holds (t : State) (regs : List (BitVec 4 × Long)) (mem : List (Long × Nat × Long)) : Bool :=
  regs.all (fun p => t.getR p.1 = p.2) && mem.all (fun p => t.valueAt p.1 p.2.1 = p.2.2)

/-- One step leaves these registers, these values in memory and these condition codes. -/
noncomputable def leaves (s : State) (ws : List Word) (regs : List (BitVec 4 × Long)) (mem : List (Long × Nat × Long))
    (ccr : Word → Bool) : Bool :=
  gives s ws fun t => holds t regs mem && ccr (t.sr &&& 0x1F)

/-- One step takes an exception: SR and pc after it, the supervisor stack pointer, and the words of the frame. -/
noncomputable def traps (s : State) (ws : List Word) (sr : Word) (pc sp : Long) (frame : List Word) : Bool :=
  gives s ws fun t => t.sr = sr && t.pc = pc && t.getA 7 = sp && t.bytesAt sp (2 * frame.length) = wordBytes frame

/-! ### Ill-formed instructions are refused -/

theorem test_wf_address_register_is_no_data_mode : (Instr.addBEaDn 0 (.an 1)).wf = false := by decide
theorem test_wf_immediate_is_no_destination : (Instr.moveL (.dn 0) (.imm 5)).wf = false := by decide
theorem test_wf_pc_relative_is_not_alterable : (Instr.clrW (.pcDisp 4)).wf = false := by decide
theorem test_wf_register_is_no_memory_mode : (Instr.aslEa (.dn 1)).wf = false := by decide
theorem test_wf_postincrement_is_no_control_mode : (Instr.lea 0 (.post 1)).wf = false := by decide
theorem test_wf_data_register_is_no_control_mode : (Instr.jmp (.dn 1)).wf = false := by decide
theorem test_wf_movem_store_takes_no_postincrement : (Instr.movemLListEa 1 (.post 7)).wf = false := by decide
theorem test_wf_movem_load_takes_no_predecrement : (Instr.movemLEaList 1 (.pre 7)).wf = false := by decide
theorem test_wf_bit_field_takes_no_predecrement : (Instr.bftst ⟨false, 0, false, 8⟩ (.pre 0)).wf = false := by decide
theorem test_wf_bit_field_destination_is_alterable : (Instr.bfclr ⟨false, 0, false, 8⟩ (.pcDisp 0)).wf = false := by decide
theorem test_wf_cmpi_takes_no_immediate_destination : (Instr.cmpiW 1 (.imm 1)).wf = false := by decide
theorem test_wf_immediate_fits_its_words : (Instr.addWEaDn 0 (.imm 0x10000)).wf = false := by decide
theorem test_wf_no_postindexed_form_without_index :
    (Instr.tstL (.idx 0 (.full ⟨false, 0, false, 0⟩ false true .null (.post .null)))).wf = false := by decide
theorem test_wf_no_postindexed_form_without_index_pc :
    (Instr.tstL (.pcIdx (.full ⟨false, 0, false, 0⟩ false true .null (.post .null)))).wf = false := by decide
theorem test_wf_byte_displacement_zero : (Instr.bra (.byte 0)).wf = false := by decide
theorem test_wf_byte_displacement_ff : (Instr.bsr (.byte 0xFF)).wf = false := by decide
theorem test_wf_bcc_is_not_bra_or_bsr :
    (Instr.bcc 0 (.byte 2)).wf = false ∧ (Instr.bcc 1 (.byte 2)).wf = false := by decide
theorem test_wf_divul_has_two_registers :
    (Instr.divulLEaDrDq 1 1 (.dn 0)).wf = false ∧ (Instr.divslLEaDrDq 1 1 (.dn 0)).wf = false := by decide
theorem test_wf_control_list_has_several_registers :
    (Instr.fmovemLEaCtrlList 4 (.ind 0)).wf = false ∧ (Instr.fmovemLCtrlListEa 2 (.ind 0)).wf = false := by decide
theorem test_wf_fnop_is_no_branch : (Instr.fbccW 0 0).wf = false := by decide
theorem test_wf_extended_operand_is_not_in_a_data_register : (Instr.fadd (.ea .x (.dn 0)) 0).wf = false := by decide
theorem test_wf_extended_store_not_to_a_data_register : (Instr.fmoveXFpmEa 0 (.dn 0)).wf = false := by decide
theorem test_wf_float_immediate_fits_its_format : (Instr.fadd (.ea .s (.imm 0x100000000)) 0).wf = false := by decide

/-! ### Words of the spec's encodings decode: one instruction of every row of the opcode table, and R481 -/

theorem test_decode_immediate_1 : reads [
  ([0x003C, 0xEACE], .oriToCcr 0xEACE),
  ([0x007C, 0x104E], .oriToSr 0x104E),
  ([0x023C, 0x7D96], .andiToCcr 0x7D96),
  ([0x027C, 0x909A], .andiToSr 0x909A),
  ([0x0A3C, 0x69A4], .eoriToCcr 0x69A4),
  ([0x0A7C, 0x41BA], .eoriToSr 0x41BA),
  ([0x0038, 0x0042, 0xE1AB], .oriB 0x42 (.absW 0xE1AB)),
  ([0x005B, 0xA05D], .oriW 0xA05D (.post 3)),
  ([0x00B9, 0xE095, 0xD391, 0x18FA, 0x1906], .oriL 0xE095D391 (.absL 0x18FA1906)),
  ([0x0235, 0x006B, 0x4C50], .andiB 0x6B (.idx 5 (.brief ⟨false, 4, true, 2⟩ 0x50))),
  ([0x025E, 0xEF22], .andiW 0xEF22 (.post 6)),
  ([0x02B9, 0x761A, 0xE20A, 0xD74D, 0x0B34], .andiL 0x761AE20A (.absL 0xD74D0B34)),
  ([0x0427, 0x007E], .subiB 0x7E (.pre 7)),
  ([0x0440, 0x5FAA], .subiW 0x5FAA (.dn 0)),
  ([0x04B8, 0xE8EB, 0xA2A5, 0xD4FF], .subiL 0xE8EBA2A5 (.absW 0xD4FF)),
  ([0x061F, 0x009C], .addiB 0x9C (.post 7)),
  ([0x0641, 0x5395], .addiW 0x5395 (.dn 1)),
  ([0x06A8, 0x3C79, 0x0949, 0x7BDC], .addiL 0x3C790949 (.disp 0 0x7BDC)),
  ([0x0A1E, 0x007F], .eoriB 0x7F (.post 6)),
  ([0x0A78, 0x5330, 0x156C], .eoriW 0x5330 (.absW 0x156C)),
  ([0x0AA8, 0xC5FA, 0xFE2F, 0x9B41], .eoriL 0xC5FAFE2F (.disp 0 0x9B41)),
  ([0x0C10, 0x0082], .cmpiB 0x82 (.ind 0)),
  ([0x0C73, 0x3E4A, 0x4085], .cmpiW 0x3E4A (.idx 3 (.brief ⟨false, 4, false, 0⟩ 0x85))),
  ([0x0C82, 0xC399, 0x1BF5], .cmpiL 0xC3991BF5 (.dn 2)),
  ([0x0838, 0x0096, 0xF790], .btst 0x96 (.absW 0xF790)),
  ([0x0F17], .btstDn 7 (.ind 7)),
  ([0x0857, 0x000C], .bchg 0x0C (.ind 7)),
  ([0x0178, 0xB90F], .bchgDn 0 (.absW 0xB90F)),
  ([0x08A0, 0x00A7], .bclr 0xA7 (.pre 0)),
  ([0x0183], .bclrDn 0 (.dn 3))] = true := by decide +kernel

theorem test_decode_immediate_2 : reads [
  ([0x08F1, 0x0096, 0x1E21], .bset 0x96 (.idx 1 (.brief ⟨false, 1, true, 3⟩ 0x21))),
  ([0x05E0], .bsetDn 2 (.pre 0)),
  ([0x0709, 0xDCF5], .movepWD16AyDx 3 1 0xDCF5),
  ([0x0549, 0xC560], .movepLD16AyDx 2 1 0xC560),
  ([0x0F8B, 0x114A], .movepWDxD16Ay 7 3 0x114A),
  ([0x0DC9, 0xED01], .movepLDxD16Ay 6 1 0xED01),
  ([0x00F8, 0x4000, 0xF0E8], .cmp2B 4 (.absW 0xF0E8)),
  ([0x00EF, 0xD800, 0xE8C8], .chk2B 13 (.disp 7 0xE8C8)),
  ([0x02FA, 0x2000, 0x3FA0], .cmp2W 2 (.pcDisp 0x3FA0)),
  ([0x02F8, 0xC800, 0x9AB6], .chk2W 12 (.absW 0x9AB6)),
  ([0x04EF, 0x9000, 0x6638], .cmp2L 9 (.disp 7 0x6638)),
  ([0x04FB, 0x4800, 0xDAC5], .chk2L 4 (.pcIdx (.brief ⟨true, 5, true, 1⟩ 0xC5))),
  ([0x0E36, 0xD000, 0x0AA6], .movesB 13 false (.idx 6 (.brief ⟨false, 0, true, 1⟩ 0xA6))),
  ([0x0E6D, 0x6800, 0xE829], .movesW 6 true (.disp 5 0xE829)),
  ([0x0E95, 0x5000], .movesL 5 false (.ind 5)),
  ([0x0AF9, 0x0184, 0x0FE1, 0x3F1C], .casB 6 4 (.absL 0x0FE13F1C)),
  ([0x0CF2, 0x0084, 0x32D8], .casW 2 4 (.idx 2 (.brief ⟨false, 3, false, 1⟩ 0xD8))),
  ([0x0EDE, 0x0005], .casL 0 5 (.post 6)),
  ([0x0CFC, 0xA1C2, 0x8041], .cas2W 10 7 2 8 1 1),
  ([0x0EFC, 0xB0C7, 0x1180], .cas2L 11 3 7 1 6 0)] = true := by decide +kernel

theorem test_decode_move_byte : reads [
  ([0x163A, 0x7F13], .moveB (.pcDisp 0x7F13) (.dn 3))] = true := by decide +kernel

theorem test_decode_move_long : reads [
  ([0x28D5], .moveL (.ind 5) (.post 4)),
  ([0x2643], .moveaL 3 (.dn 3))] = true := by decide +kernel

theorem test_decode_move_word : reads [
  ([0x30A0], .moveW (.pre 0) (.ind 0)),
  ([0x3651], .moveaW 3 (.ind 1))] = true := by decide +kernel

theorem test_decode_miscellaneous_1 : reads [
  ([0x402E, 0x9F9B], .negxB (.disp 6 0x9F9B)),
  ([0x4043], .negxW (.dn 3)),
  ([0x40B8, 0xDA1A], .negxL (.absW 0xDA1A)),
  ([0x4218], .clrB (.post 0)),
  ([0x4279, 0xADFF, 0x07F2], .clrW (.absL 0xADFF07F2)),
  ([0x42AE, 0xE831], .clrL (.disp 6 0xE831)),
  ([0x4410], .negB (.ind 0)),
  ([0x4478, 0x00E8], .negW (.absW 0x00E8)),
  ([0x44A4], .negL (.pre 4)),
  ([0x4616], .notB (.ind 6)),
  ([0x4678, 0xF01B], .notW (.absW 0xF01B)),
  ([0x46A3], .notL (.pre 3)),
  ([0x40F9, 0x943A, 0xCA5F], .moveFromSr (.absL 0x943ACA5F)),
  ([0x42F6, 0x57F2, 0x22F8, 0xC4D0, 0xBFDF], .moveFromCcr (.idx 6 (.full ⟨false, 5, false, 3⟩ true true (.long 0x22F8C4D0) (.pre (.word 0xBFDF))))),
  ([0x44FA, 0xB824], .moveToCcr (.pcDisp 0xB824)),
  ([0x46DC], .moveToSr (.post 4)),
  ([0x482E, 0xB9FB], .nbcd (.disp 6 0xB9FB)),
  ([0x480A, 0xC6B9, 0x2A5A], .linkL 2 0xC6B92A5A),
  ([0x4842], .swap 2),
  ([0x484D], .bkpt 5),
  ([0x487B, 0x1716, 0x1942], .pea (.pcIdx (.full ⟨false, 1, false, 3⟩ false false .null (.post (.word 0x1942))))),
  ([0x4881], .extW 1),
  ([0x48C0], .extL 0),
  ([0x49C6], .extbL 6),
  ([0x48AC, 0x1E89, 0xAAC5], .movemWListEa 0x1E89 (.disp 4 0xAAC5)),
  ([0x4CB4, 0xC6F9, 0x2BD0], .movemWEaList 0xC6F9 (.idx 4 (.full ⟨false, 2, true, 1⟩ true true .null .none))),
  ([0x48F9, 0x9F5A, 0x3E5D, 0x7199], .movemLListEa 0x9F5A (.absL 0x3E5D7199)),
  ([0x4CF9, 0x4576, 0xA434, 0xB7B8], .movemLEaList 0x4576 (.absL 0xA434B7B8)),
  ([0x4A2E, 0x2ABB], .tstB (.disp 6 0x2ABB)),
  ([0x4A57], .tstW (.ind 7))] = true := by decide +kernel

theorem test_decode_miscellaneous_2 : reads [
  ([0x4AB9, 0xB2E6, 0xBA46], .tstL (.absL 0xB2E6BA46)),
  ([0x4AC7], .tas (.dn 7)),
  ([0x4AFC], .illegal),
  ([0x4C1C, 0x6000], .muluLEaDl 6 (.post 4)),
  ([0x4C39, 0x1401, 0xAD98, 0xFCA2], .muluLEaDhDl 1 1 (.absL 0xAD98FCA2)),
  ([0x4C12, 0x1800], .mulsLEaDl 1 (.ind 2)),
  ([0x4C38, 0x1C05, 0xBB29], .mulsLEaDhDl 5 1 (.absW 0xBB29)),
  ([0x4C50, 0x1001], .divuLEaDq 1 (.ind 0)),
  ([0x4C78, 0x6000, 0x2986], .divulLEaDrDq 0 6 (.absW 0x2986)),
  ([0x4C42, 0x6407], .divuLEaDrDq 7 6 (.dn 2)),
  ([0x4C6E, 0x1801, 0xC945], .divsLEaDq 1 (.disp 6 0xC945)),
  ([0x4C7C, 0x1805, 0x1B0C, 0x858B], .divslLEaDrDq 5 1 (.imm 0x1B0C858B)),
  ([0x4C6F, 0x0C01, 0xCC6C], .divsLEaDrDq 1 0 (.disp 7 0xCC6C)),
  ([0x4E49], .trap 9),
  ([0x4E55, 0x55AF], .linkW 5 0x55AF),
  ([0x4E5E], .unlk 6),
  ([0x4E62], .moveAnUsp 2),
  ([0x4E6B], .moveUspAn 3),
  ([0x4E70], .reset),
  ([0x4E71], .nop),
  ([0x4E72, 0xAA0D], .stop 0xAA0D),
  ([0x4E73], .rte),
  ([0x4E74, 0xB78B], .rtd 0xB78B),
  ([0x4E75], .rts),
  ([0x4E76], .trapv),
  ([0x4E77], .rtr),
  ([0x4E7A, 0x1801], .movecRcRn 1 0x801),
  ([0x4E7B, 0x2801], .movecRnRc 2 0x801),
  ([0x4EB5, 0xC04F], .jsr (.idx 5 (.brief ⟨true, 4, false, 0⟩ 0x4F))),
  ([0x4ED3], .jmp (.ind 3))] = true := by decide +kernel

theorem test_decode_miscellaneous_3 : reads [
  ([0x493A, 0xB255], .chkL 4 (.pcDisp 0xB255)),
  ([0x4B9B], .chkW 5 (.post 3)),
  ([0x4DEB, 0x8CDC], .lea 6 (.disp 3 0x8CDC))] = true := by decide +kernel

theorem test_decode_quick : reads [
  ([0x5406], .addqB 2 (.dn 6)),
  ([0x5D35, 0x3655], .subqB 6 (.idx 5 (.brief ⟨false, 3, false, 3⟩ 0x55))),
  ([0x5C49], .addqW 6 (.an 1)),
  ([0x5175, 0xC2ED], .subqW 0 (.idx 5 (.brief ⟨true, 4, false, 1⟩ 0xED))),
  ([0x5C94], .addqL 6 (.ind 4)),
  ([0x5DB7, 0xA9F1, 0xAAD2, 0xA331], .subqL 6 (.idx 7 (.full ⟨true, 2, true, 0⟩ true true (.long 0xAAD2A331) (.pre .null)))),
  ([0x50F8, 0x82A1], .scc 0 (.absW 0x82A1)),
  ([0x52CD, 0xAC5C], .dbcc 2 5 0xAC5C),
  ([0x54FA, 0xBDB3], .trapccW 4 0xBDB3),
  ([0x58FB, 0x510D, 0xF272], .trapccL 8 0x510DF272),
  ([0x57FC], .trapcc 7)] = true := by decide +kernel

theorem test_decode_branch : reads [
  ([0x607C], .bra (.byte 0x7C)),
  ([0x6100, 0x042C], .bsr (.word 0x042C)),
  ([0x66FF, 0x839D, 0x8878], .bcc 6 (.long 0x839D8878))] = true := by decide +kernel

theorem test_decode_moveq : reads [
  ([0x7EED], .moveq 7 237)] = true := by decide +kernel

theorem test_decode_or_div : reads [
  ([0x8020], .orBEaDn 0 (.pre 0)),
  ([0x8731, 0x1F12, 0xDD8E], .orBDnEa 3 (.idx 1 (.full ⟨false, 1, true, 3⟩ false false .null (.pre (.word 0xDD8E))))),
  ([0x8C58], .orWEaDn 6 (.post 0)),
  ([0x8554], .orWDnEa 2 (.ind 4)),
  ([0x8C82], .orLEaDn 6 (.dn 2)),
  ([0x89AF, 0xFFE6], .orLDnEa 4 (.disp 7 0xFFE6)),
  ([0x8AFC, 0x281D], .divuW 5 (.imm 0x281D)),
  ([0x89F3, 0xB2E7], .divsW 4 (.idx 3 (.brief ⟨true, 3, false, 1⟩ 0xE7))),
  ([0x8905], .sbcd 4 false 5),
  ([0x8B40, 0xBD4D], .pack 5 false 0 0xBD4D),
  ([0x8B8F, 0xC928], .unpk 5 true 7 0xC928)] = true := by decide +kernel

theorem test_decode_sub : reads [
  ([0x9C3C, 0x0040], .subBEaDn 6 (.imm 0x0040)),
  ([0x972D, 0xAFF0], .subBDnEa 3 (.disp 5 0xAFF0)),
  ([0x9A7B, 0xB131, 0x3915, 0x6B5B], .subWEaDn 5 (.pcIdx (.full ⟨true, 3, false, 0⟩ false false (.long 0x39156B5B) (.pre .null)))),
  ([0x9979, 0x5B57, 0x81C6], .subWDnEa 4 (.absL 0x5B5781C6)),
  ([0x94B9, 0x74D8, 0xA034], .subLEaDn 2 (.absL 0x74D8A034)),
  ([0x99A1], .subLDnEa 4 (.pre 1)),
  ([0x9CE8, 0xEDFB], .subaW 6 (.disp 0 0xEDFB)),
  ([0x91FC, 0xDF3B, 0x14C0], .subaL 0 (.imm 0xDF3B14C0)),
  ([0x950E], .subxB 2 true 6),
  ([0x9542], .subxW 2 false 2),
  ([0x9D87], .subxL 6 false 7)] = true := by decide +kernel

theorem test_decode_cmp_eor : reads [
  ([0xB438, 0xF6FF], .cmpBEaDn 2 (.absW 0xF6FF)),
  ([0xB679, 0x1100, 0xB786], .cmpWEaDn 3 (.absL 0x1100B786)),
  ([0xB891], .cmpLEaDn 4 (.ind 1)),
  ([0xB8F8, 0xBAA0], .cmpaW 4 (.absW 0xBAA0)),
  ([0xB7FC, 0x4D6D, 0xF499], .cmpaL 3 (.imm 0x4D6DF499)),
  ([0xB532, 0xF85A], .eorB 2 (.idx 2 (.brief ⟨true, 7, true, 0⟩ 0x5A))),
  ([0xB50E], .cmpmB 2 6),
  ([0xBB58], .eorW 5 (.post 0)),
  ([0xB749], .cmpmW 3 1),
  ([0xBBB8, 0x1D9F], .eorL 5 (.absW 0x1D9F)),
  ([0xB78B], .cmpmL 3 3)] = true := by decide +kernel

theorem test_decode_and_mul : reads [
  ([0xCA17], .andBEaDn 5 (.ind 7)),
  ([0xC138, 0xE22A], .andBDnEa 0 (.absW 0xE22A)),
  ([0xC055], .andWEaDn 0 (.ind 5)),
  ([0xC962], .andWDnEa 4 (.pre 2)),
  ([0xCCBC, 0xC911, 0x60E1], .andLEaDn 6 (.imm 0xC91160E1)),
  ([0xCFB6, 0xF874], .andLDnEa 7 (.idx 6 (.brief ⟨true, 7, true, 0⟩ 0x74))),
  ([0xCEFB, 0x39F0, 0x7234, 0x1F57], .muluW 7 (.pcIdx (.full ⟨false, 3, true, 0⟩ true true (.long 0x72341F57) .none))),
  ([0xCFE6], .mulsW 7 (.pre 6)),
  ([0xC50D], .abcd 2 true 5),
  ([0xC941], .exgDxDy 4 1),
  ([0xCF4F], .exgAxAy 7 7),
  ([0xC78E], .exgDxAy 3 6)] = true := by decide +kernel

theorem test_decode_add : reads [
  ([0xDC3A, 0x82EC], .addBEaDn 6 (.pcDisp 0x82EC)),
  ([0xD730, 0x1845], .addBDnEa 3 (.idx 0 (.brief ⟨false, 1, true, 0⟩ 0x45))),
  ([0xD47A, 0xDC76], .addWEaDn 2 (.pcDisp 0xDC76)),
  ([0xD954], .addWDnEa 4 (.ind 4)),
  ([0xD8B8, 0xA231], .addLEaDn 4 (.absW 0xA231)),
  ([0xD9AC, 0x16FF], .addLDnEa 4 (.disp 4 0x16FF)),
  ([0xD4F2, 0x25B6, 0x23B4, 0x1D4F, 0x1EAF], .addaW 2 (.idx 2 (.full ⟨false, 2, false, 2⟩ true false (.long 0x23B41D4F) (.post (.word 0x1EAF))))),
  ([0xD7FB, 0x3040], .addaL 3 (.pcIdx (.brief ⟨false, 3, false, 0⟩ 0x40))),
  ([0xD50E], .addxB 2 true 6),
  ([0xD948], .addxW 4 true 0),
  ([0xD98D], .addxL 4 true 5)] = true := by decide +kernel

theorem test_decode_shift_bitfield_1 : reads [
  ([0xE226], .asrBDxDy 1 true 6),
  ([0xE461], .asrWDxDy 2 true 1),
  ([0xE6A0], .asrLDxDy 3 true 0),
  ([0xE0F5, 0x5217], .asrEa (.idx 5 (.brief ⟨false, 5, false, 1⟩ 0x17))),
  ([0xEF20], .aslBDxDy 7 true 0),
  ([0xED46], .aslWDxDy 6 false 6),
  ([0xE982], .aslLDxDy 4 false 2),
  ([0xE1E5], .aslEa (.pre 5)),
  ([0xEE0C], .lsrBDxDy 7 false 4),
  ([0xE84C], .lsrWDxDy 4 false 4),
  ([0xE6AF], .lsrLDxDy 3 true 7),
  ([0xE2D1], .lsrEa (.ind 1)),
  ([0xED2C], .lslBDxDy 6 true 4),
  ([0xE54B], .lslWDxDy 2 false 3),
  ([0xEF8B], .lslLDxDy 7 false 3),
  ([0xE3F1, 0x91A7, 0x1D05, 0x1DAF, 0x1BFF], .lslEa (.idx 1 (.full ⟨true, 1, false, 0⟩ true false (.word 0x1D05) (.post (.long 0x1DAF1BFF))))),
  ([0xEE36], .roxrBDxDy 7 true 6),
  ([0xE054], .roxrWDxDy 0 false 4),
  ([0xE6B6], .roxrLDxDy 3 true 6),
  ([0xE4E2], .roxrEa (.pre 2)),
  ([0xED35], .roxlBDxDy 6 true 5),
  ([0xE770], .roxlWDxDy 3 true 0),
  ([0xED93], .roxlLDxDy 6 false 3),
  ([0xE5DF], .roxlEa (.post 7)),
  ([0xEE3E], .rorBDxDy 7 true 6),
  ([0xE05F], .rorWDxDy 0 false 7),
  ([0xE89B], .rorLDxDy 4 false 3),
  ([0xE6F9, 0xD76B, 0x7CAE], .rorEa (.absL 0xD76B7CAE)),
  ([0xE73A], .rolBDxDy 3 true 2),
  ([0xED5F], .rolWDxDy 6 false 7)] = true := by decide +kernel

theorem test_decode_shift_bitfield_2 : reads [
  ([0xE9BB], .rolLDxDy 4 true 3),
  ([0xE7EA, 0x7E0F], .rolEa (.disp 2 0x7E0F)),
  ([0xE8F8, 0x0886, 0x7A8A], .bftst ⟨true, 2, false, 6⟩ (.absW 0x7A8A)),
  ([0xE9C6, 0x079D], .bfextu 0 ⟨false, 30, false, 29⟩ (.dn 6)),
  ([0xEAC7, 0x058B], .bfchg ⟨false, 22, false, 11⟩ (.dn 7)),
  ([0xEBEA, 0x4945, 0x42AC], .bfexts 4 ⟨true, 5, false, 5⟩ (.disp 2 0x42AC)),
  ([0xECF7, 0x09E1, 0xC1E3, 0xB00A, 0x66DC, 0xDAAB], .bfclr ⟨true, 7, true, 1⟩ (.idx 7 (.full ⟨true, 4, false, 0⟩ true true (.word 0xB00A) (.pre (.long 0x66DCDAAB))))),
  ([0xEDF9, 0x588B, 0x206D, 0x80BD], .bfffo 5 ⟨true, 2, false, 11⟩ (.absL 0x206D80BD)),
  ([0xEED2, 0x0754], .bfset ⟨false, 29, false, 20⟩ (.ind 2)),
  ([0xEFC3, 0x694E], .bfins 6 ⟨true, 5, false, 14⟩ (.dn 3))] = true := by decide +kernel

theorem test_decode_float_cache_1 : reads [
  ([0xF238, 0x5600, 0xB1BD], .fmoveEaFpmFpn (.ea .d (.absW 0xB1BD)) 4),
  ([0xF218, 0x52C0], .fsmove (.ea .w (.post 0)) 5),
  ([0xF239, 0x4EC4, 0x1FE0, 0xB5E6], .fdmove (.ea .p (.absL 0x1FE0B5E6)) 5),
  ([0xF216, 0x4284], .fsqrt (.ea .l (.ind 6)) 5),
  ([0xF200, 0x0EC1], .fssqrt (.fp 3) 5),
  ([0xF200, 0x1BC5], .fdsqrt (.fp 6) 7),
  ([0xF200, 0x0D18], .fabs (.fp 3) 2),
  ([0xF238, 0x5858, 0x269A], .fsabs (.ea .b (.absW 0x269A)) 0),
  ([0xF212, 0x4ADC], .fdabs (.ea .x (.ind 2)) 5),
  ([0xF230, 0x439A, 0xAC97], .fneg (.ea .l (.idx 0 (.brief ⟨true, 2, true, 2⟩ 0x97))) 7),
  ([0xF23B, 0x505A, 0x0CB5], .fsneg (.ea .w (.pcIdx (.brief ⟨false, 0, true, 2⟩ 0xB5))) 0),
  ([0xF238, 0x55DE, 0x336D], .fdneg (.ea .d (.absW 0x336D)) 3),
  ([0xF23B, 0x4020, 0x96BE], .fdiv (.ea .l (.pcIdx (.brief ⟨true, 1, false, 3⟩ 0xBE))) 0),
  ([0xF238, 0x4860, 0xC918], .fsdiv (.ea .x (.absW 0xC918)) 0),
  ([0xF200, 0x1264], .fddiv (.fp 4) 4),
  ([0xF200, 0x1022], .fadd (.fp 4) 0),
  ([0xF200, 0x10E2], .fsadd (.fp 4) 1),
  ([0xF21C, 0x54E6], .fdadd (.ea .d (.post 4)) 1),
  ([0xF200, 0x13A3], .fmul (.fp 4) 7),
  ([0xF200, 0x1063], .fsmul (.fp 4) 0),
  ([0xF239, 0x4AE7, 0x8D63, 0xB3F3], .fdmul (.ea .x (.absL 0x8D63B3F3)) 5),
  ([0xF238, 0x4728, 0xBAF0], .fsub (.ea .s (.absW 0xBAF0)) 6),
  ([0xF217, 0x58E8], .fssub (.ea .b (.ind 7)) 1),
  ([0xF211, 0x4F6C], .fdsub (.ea .p (.ind 1)) 6),
  ([0xF23C, 0x4638, 0xF9C3, 0xB8E7], .fcmp (.ea .s (.imm 0xF9C3B8E7)) 4),
  ([0xF21F, 0x4DBA], .ftst (.ea .p (.post 7)) 3),
  ([0xF238, 0x4B81, 0x2B1C], .fintUnimplemented (.ea .x (.absW 0x2B1C)) 7),
  ([0xF22A, 0x5802, 0x6B82], .fsinhUnimplemented (.ea .b (.disp 2 0x6B82)) 0),
  ([0xF238, 0x4883, 0xEC03], .fintrzUnimplemented (.ea .x (.absW 0xEC03)) 1),
  ([0xF212, 0x4F86], .flognp1Unimplemented (.ea .p (.ind 2)) 7)] = true := by decide +kernel

theorem test_decode_float_cache_2 : reads [
  ([0xF200, 0x1008], .fetoxm1Unimplemented (.fp 4) 0),
  ([0xF239, 0x4109, 0xEAB8, 0x9626], .ftanhUnimplemented (.ea .l (.absL 0xEAB89626)) 2),
  ([0xF214, 0x468A], .fatanUnimplemented (.ea .s (.ind 4)) 5),
  ([0xF238, 0x580C, 0x9803], .fasinUnimplemented (.ea .b (.absW 0x9803)) 0),
  ([0xF218, 0x4E0D], .fatanhUnimplemented (.ea .p (.post 0)) 4),
  ([0xF237, 0x420E, 0x166E], .fsinUnimplemented (.ea .l (.idx 7 (.brief ⟨false, 1, false, 3⟩ 0x6E))) 4),
  ([0xF21F, 0x4B0F], .ftanUnimplemented (.ea .x (.post 7)) 6),
  ([0xF200, 0x0B10], .fetoxUnimplemented (.fp 2) 6),
  ([0xF200, 0x0E11], .ftwotoxUnimplemented (.fp 3) 4),
  ([0xF200, 0x1112], .ftentoxUnimplemented (.fp 4) 2),
  ([0xF200, 0x0294], .flognUnimplemented (.fp 0) 5),
  ([0xF236, 0x5295, 0xCC7E], .flog10Unimplemented (.ea .w (.idx 6 (.brief ⟨true, 4, true, 2⟩ 0x7E))) 5),
  ([0xF200, 0x0416], .flog2Unimplemented (.fp 1) 0),
  ([0xF217, 0x4819], .fcoshUnimplemented (.ea .x (.ind 7)) 0),
  ([0xF226, 0x5B1C], .facosUnimplemented (.ea .b (.pre 6)) 6),
  ([0xF214, 0x4E9D], .fcosUnimplemented (.ea .p (.ind 4)) 5),
  ([0xF225, 0x479E], .fgetexpUnimplemented (.ea .s (.pre 5)) 7),
  ([0xF239, 0x449F, 0x5C24, 0x3512], .fgetmanUnimplemented (.ea .s (.absL 0x5C243512)) 1),
  ([0xF21C, 0x51A1], .fmodUnimplemented (.ea .w (.post 4)) 3),
  ([0xF239, 0x58A4, 0xDD71, 0x2BFE], .fsgldivUnimplemented (.ea .b (.absL 0xDD712BFE)) 1),
  ([0xF200, 0x0225], .fremUnimplemented (.fp 0) 4),
  ([0xF201, 0x5A26], .fscaleUnimplemented (.ea .b (.dn 1)) 4),
  ([0xF200, 0x1B27], .fsglmulUnimplemented (.fp 6) 6),
  ([0xF212, 0x4F31], .fsincosUnimplemented (.ea .p (.ind 2)) 6 1),
  ([0xF200, 0x5CF0], .fmovecrUnimplemented 1 112),
  ([0xF21B, 0x6380], .fmoveLFpmEa 7 (.post 3)),
  ([0xF238, 0x6400, 0xD4F8], .fmoveSFpmEa 0 (.absW 0xD4F8)),
  ([0xF231, 0x6A80, 0x5A84], .fmoveXFpmEa 5 (.idx 1 (.brief ⟨false, 5, true, 1⟩ 0x84))),
  ([0xF221, 0x6EC0], .fmovePKFpmEa 5 64 (.pre 1)),
  ([0xF236, 0x7280, 0x0973, 0x872F, 0xA5F1, 0x1F00, 0x7F41], .fmoveWFpmEa 5 (.idx 6 (.full ⟨false, 0, true, 0⟩ false true (.long 0x872FA5F1) (.pre (.long 0x1F007F41)))))] = true := by decide +kernel

theorem test_decode_float_cache_3 : reads [
  ([0xF237, 0x7400, 0xFA48], .fmoveDFpmEa 0 (.idx 7 (.brief ⟨true, 7, true, 1⟩ 0x48))),
  ([0xF205, 0x7880], .fmoveBFpmEa 1 (.dn 5)),
  ([0xF212, 0x7E10], .fmovePDnFpmEa 4 1 (.ind 2)),
  ([0xF239, 0x9000, 0xDA47, 0x2BE9], .fmoveLEaFpcr (.absL 0xDA472BE9)),
  ([0xF216, 0x8800], .fmoveLEaFpsr (.ind 6)),
  ([0xF202, 0x8400], .fmoveLEaFpiar (.dn 2)),
  ([0xF217, 0x9800], .fmovemLEaCtrlList 6 (.ind 7)),
  ([0xF238, 0xB000, 0xBC8B], .fmoveLFpcrEa (.absW 0xBC8B)),
  ([0xF222, 0xA800], .fmoveLFpsrEa (.pre 2)),
  ([0xF239, 0xA400, 0xCAF4, 0x9552], .fmoveLFpiarEa (.absL 0xCAF49552)),
  ([0xF239, 0xBC00, 0xD933, 0x652B], .fmovemLCtrlListEa 7 (.absL 0xD933652B)),
  ([0xF22F, 0xD870, 0xA4DD], .fmovemXEaList 3 0x70 (.disp 7 0xA4DD)),
  ([0xF239, 0xF0DA, 0x4756, 0x7AAF], .fmovemXListEa 2 0xDA (.absL 0x47567AAF)),
  ([0xF264, 0x0007], .fscc 7 (.pre 4)),
  ([0xF24F, 0x000B, 0x37BD], .fdbcc 11 7 0x37BD),
  ([0xF27A, 0x0019, 0x7445], .ftrapccW 25 0x7445),
  ([0xF27B, 0x0016, 0xB8B8, 0xA40A], .ftrapccL 22 0xB8B8A40A),
  ([0xF27C, 0x000A], .ftrapcc 10),
  ([0xF280, 0x0000], .fnop),
  ([0xF28D, 0xAE2D], .fbccW 13 0xAE2D),
  ([0xF2D9, 0xF007, 0x224E], .fbccL 25 0xF007224E),
  ([0xF336, 0x166B], .fsave (.idx 6 (.brief ⟨false, 1, false, 3⟩ 0x6B))),
  ([0xF379, 0x2C4D, 0x5475], .frestore (.absL 0x2C4D5475)),
  ([0xF48E], .cinvl 2 6),
  ([0xF411], .cinvp 0 1),
  ([0xF4D9], .cinva 3),
  ([0xF4ED], .cpushl 3 5),
  ([0xF471], .cpushp 1 1),
  ([0xF43D], .cpusha 0),
  ([0xF502], .pflushnAn 2)] = true := by decide +kernel

theorem test_decode_float_cache_4 : reads [
  ([0xF50C], .pflushAn 4),
  ([0xF512], .pflushan),
  ([0xF519], .pflusha),
  ([0xF54E], .ptestwAn 6),
  ([0xF56B], .ptestrAn 3),
  ([0xF626, 0xE000], .move16AxPlusAyPlus 6 6),
  ([0xF604, 0xDE97, 0x5E42], .move16AnPlusXxxL 4 0xDE975E42),
  ([0xF60E, 0xBCBB, 0x5BDD], .move16XxxLAnPlus 6 0xBCBB5BDD),
  ([0xF614, 0xFE8F, 0xF746], .move16AnXxxL 4 0xFE8FF746),
  ([0xF619, 0xBC06, 0xBE78], .move16XxxLAn 1 0xBC06BE78)] = true := by decide +kernel

theorem test_decode_worked_encodings : reads [
  ([0x2200], .moveL (.dn 0) (.dn 1)),
  ([0x30FC, 0x1234], .moveW (.imm 0x1234) (.post 0)),
  ([0x11E9, 0x0004, 0xFF00], .moveB (.disp 1 4) (.absW 0xFF00)),
  ([0xD490], .addLEaDn 2 (.ind 0)),
  ([0x5043], .addqW 0 (.dn 3)),
  ([0x6604], .bcc 6 (.byte 4)),
  ([0x6000, 0x0100], .bra (.word 0x100)),
  ([0x41FA, 0x0010], .lea 0 (.pcDisp 0x10)),
  ([0x7EFF], .moveq 7 0xFF),
  ([0x4E71], .nop),
  ([0x4E75], .rts),
  ([0x4E4F], .trap 15),
  ([0x0810, 0x0003], .btst 3 (.ind 0)),
  ([0x48E7, 0xC080], .movemLListEa 0xC080 (.pre 7)),
  ([0xF210, 0x54A2], .fadd (.ea .d (.ind 0)) 1),
  ([0xF4D8], .cinva 3),
  ([0xF620, 0x9000], .move16AxPlusAyPlus 0 1)] = true := by decide +kernel

theorem test_decode_no_instruction :
    decode [0xA123] = .stop .aline ∧ decode [0x4AFB] = .stop .illegal ∧ decode [0xFFFF] = .stop .fline ∧
    decode [0x2030, 0x1504] = .stop .illegal ∧ decode [0x303C] = .more := by decide +kernel

theorem test_decode_table_word :
    decodeTableWord 32 0x0422F200 = some (.fadd (.fp 1) 0) ∧ decodeTableWord 16 0x4E71 = some .nop := by decide +kernel

theorem test_first_step_runs_the_word : ∃ t, step (State.reset.withFetchWord 16 0x7005) = .next t ∧ t.getD 0 = 5 :=
  ⟨_, rfl, by decide +kernel⟩

/-! ### Data movement (R570, 95_test_vectors 2.2 to 2.4) -/

theorem test_move_b_keeps_upper_bytes : leaves (st 0x2000 0x1000 [(0, 0xFF), (1, 0xAAAAAAAA)] []) [0x1200]
    [(1, 0xAAAAAAFF)] [] (· = 8) := by decide +kernel
theorem test_move_l_postincrement : leaves (st 0x2000 0x1000 [(8, 0x3000), (9, 0x2000)] [(0x2000, 4, 0xFFFFFFFF)])
    [0x22D8] [(8, 0x3004), (9, 0x2004)] [(0x2000, 4, 0)] (· = 4) := by decide +kernel
theorem test_move_b_predecrement_a7 : leaves (st 0x2000 0x1000 [(0, 0x12), (15, 0x8000)] [(0x7FFF, 1, 0x55)])
    [0x1F00] [(15, 0x7FFE)] [(0x7FFE, 1, 0x12), (0x7FFF, 1, 0x55)] (· = 0) := by decide +kernel
theorem test_move_w_from_address_register : leaves (st 0x2000 0x1000 [(8, 0x12348765)] []) [0x3008]
    [(0, 0x8765)] [] (· = 8) := by decide +kernel
theorem test_movea_l_displacement : leaves (st 0x2000 0x1000 [(8, 0x3000)] [(0x3004, 4, 0xDEADBEEF)]) [0x2068, 0x0004]
    [(8, 0xDEADBEEF)] [] (· = 0) := by decide +kernel
theorem test_moveq_zero_keeps_x : leaves (st 0x2010 0x1000 [(0, 0xFFFFFFFF)] []) [0x7000] [(0, 0)] [] (· = 0x14) := by
  decide +kernel
theorem test_movem_l_load : leaves (st 0x2000 0x1000 [(15, 0x2FF4)] [(0x2FF4, 4, 1), (0x2FF8, 4, 2), (0x2FFC, 4, 3)])
    [0x4CDF, 0x0103] [(0, 1), (1, 2), (8, 3), (15, 0x3000)] [] (· = 0) := by decide +kernel
theorem test_movem_w_store : leaves (st 0x2000 0x1000 [(0, 0x12345678), (8, 0x2000)] []) [0x4890, 0x0001] []
    [(0x2000, 4, 0x56780000)] (· = 0) := by decide +kernel
theorem test_movem_l_predecrement : leaves (st 0x2000 0x1000 [(2, 0x22222222), (3, 0x33333333), (15, 0x7FEC)] [])
    [0x48E7, 0x3000] [(15, 0x7FE4)] [(0x7FE8, 4, 0x33333333), (0x7FE4, 4, 0x22222222)] (· = 0) := by decide +kernel
theorem test_movep_w_load : leaves (st 0x2000 0x1000 [(0, 0x11112222), (8, 0x3000)] [(0x3002, 1, 0xAB), (0x3004, 1, 0xCD)])
    [0x0108, 0x0002] [(0, 0x1111ABCD)] [] (· = 0) := by decide +kernel
theorem test_lea_absolute_word : leaves (st 0x2000 0x1000 [] []) [0x47F8, 0x8000] [(11, 0xFFFF8000)] [] (· = 0) := by
  decide +kernel
theorem test_lea_pc_relative : leaves (st 0x2000 0x1000 [] []) [0x41FA, 0xFFFE] [(8, 0x1000)] [] (· = 0) := by
  decide +kernel
theorem test_exg_same_register : leaves (st 0x2000 0x1000 [(3, 7)] []) [0xC743] [(3, 7)] [] (· = 0) := by decide +kernel
theorem test_store_is_big_endian : leaves (st 0x2000 0x1000 [(0, 0x11223344), (8, 0x2000)] []) [0x2080] []
    [(0x2000, 1, 0x11), (0x2001, 1, 0x22), (0x2002, 1, 0x33), (0x2003, 1, 0x44)] (· = 0) := by decide +kernel
theorem test_misaligned_word_read : leaves (st 0x2000 0x1000 [(1, 0xAAAAAAAA), (8, 0x2000)] [(0x2000, 4, 0x11223344)])
    [0x3228, 0x0001] [(1, 0xAAAA2233)] [] (· = 0) := by decide +kernel
theorem test_store_wraps_at_the_top : leaves (st 0x2000 0x1000 [(0, 0x11223344), (8, 0xFFFFFFFE)] []) [0x2080] []
    [(0xFFFFFFFE, 2, 0x1122), (0, 2, 0x3344)] (· = 0) := by decide +kernel
theorem test_index_word_scaled : leaves
    (st 0x2000 0x2000 [(8, 0x1000), (1, 0x0001FFFF)] [(0x1000, 4, 0x77), (0x81000, 4, 0x78)]) [0x2030, 0x1404] [(0, 0x77)] []
    (· = 0) := by decide +kernel
theorem test_index_long_scaled : leaves
    (st 0x2000 0x2000 [(8, 0x1000), (1, 0x0001FFFF)] [(0x1000, 4, 0x77), (0x81000, 4, 0x78)]) [0x2030, 0x1C04] [(0, 0x78)] []
    (· = 0) := by decide +kernel
theorem test_memory_postindexed : leaves
    (st 0x2000 0x2000 [(8, 0x1000), (1, 0x20)] [(0x1010, 4, 0x3000), (0x3024, 4, 0x99)]) [0x2030, 0x1926, 0x0010, 0x0004]
    [(0, 0x99)] [] (· = 0) := by decide +kernel
theorem test_memory_preindexed : leaves
    (st 0x2000 0x2000 [(8, 0x1000), (1, 0x20)] [(0x1030, 4, 0x3000), (0x3004, 4, 0x98)]) [0x2030, 0x1922, 0x0010, 0x0004]
    [(0, 0x98)] [] (· = 0) := by decide +kernel
theorem test_data_register_indirect : leaves (st 0x2000 0x2000 [(1, 0x4000)] [(0x4000, 4, 0x55)]) [0x2030, 0x1990]
    [(0, 0x55)] [] (· = 0) := by decide +kernel
theorem test_reserved_extension_word : traps (st 0x2000 0x1000 [(15, 0x8000)] [(0x10, 4, 0x2400)]) [0x2030, 0x1504]
    0x2000 0x2400 0x7FF8 [0x2000, 0, 0x1000, 0x0010] := by decide +kernel
theorem test_link_w : leaves (st 0x2000 0x1000 [(14, 0xAAAAAAAA), (15, 0x7FF8)] []) [0x4E56, 0xFFF8]
    [(14, 0x7FF4), (15, 0x7FEC)] [(0x7FF4, 4, 0xAAAAAAAA)] (· = 0) := by decide +kernel
theorem test_unlk : leaves (st 0x2000 0x1000 [(14, 0x7FF4), (15, 0x7FEC)] [(0x7FF4, 4, 0xAAAAAAAA)]) [0x4E5E]
    [(14, 0xAAAAAAAA), (15, 0x7FF8)] [] (· = 0) := by decide +kernel
theorem test_pea : leaves (st 0x2000 0x1000 [(8, 0x1234), (15, 0x8000)] []) [0x4850] [(15, 0x7FFC)] [(0x7FFC, 4, 0x1234)]
    (· = 0) := by decide +kernel
theorem test_move16_aligns : leaves (st 0x2000 0x1000 [(8, 0x2005), (9, 0x3009)] [(0x2000, 4, 0x01020304), (0x200C, 4, 9)])
    [0xF620, 0x9000] [(8, 0x2015), (9, 0x3019)] [(0x3000, 4, 0x01020304), (0x300C, 4, 9)] (· = 0) := by decide +kernel

/-! ### Integer arithmetic (R670) -/

theorem test_add_b_overflow : leaves (st 0x2000 0x1000 [(0, 0x7F), (1, 1)] []) [0xD200] [(1, 0x80)] [] (· = 0x0A) := by
  decide +kernel
theorem test_add_b_carry : leaves (st 0x2000 0x1000 [(0, 0x80), (1, 0x80)] []) [0xD200] [(1, 0)] [] (· = 0x17) := by
  decide +kernel
theorem test_add_l_carry : leaves (st 0x2000 0x1000 [(0, 0xFFFFFFFF), (1, 1)] []) [0xD280] [(1, 0)] [] (· = 0x15) := by
  decide +kernel
theorem test_add_w_keeps_upper_word : leaves (st 0x2000 0x1000 [(0, 0x50001), (1, 0xAAAAFFFF)] []) [0xD240]
    [(1, 0xAAAA0000)] [] (· = 0x15) := by decide +kernel
theorem test_addq_l_address_register : leaves (st 0x201F 0x1000 [(8, 0xFFFFFFFC)] []) [0x5088] [(8, 4)] [] (· = 0x1F) := by
  decide +kernel
theorem test_addq_w_address_register : leaves (st 0x2000 0x1000 [(8, 0xFFFF)] []) [0x5248] [(8, 0x10000)] [] (· = 0) := by
  decide +kernel
theorem test_addx_b_z_sticky : leaves (st 0x2014 0x1000 [(0, 0xFF)] []) [0xD300] [(1, 0)] [] (· = 0x15) := by decide +kernel
theorem test_addx_b_clears_z : leaves (st 0x2004 0x1000 [(0, 1), (1, 1)] []) [0xD300] [(1, 2)] [] (· = 0) := by
  decide +kernel
theorem test_sub_w_overflow : leaves (st 0x2000 0x1000 [(0, 1), (1, 0x8000)] []) [0x9240] [(1, 0x7FFF)] [] (· = 2) := by
  decide +kernel
theorem test_sub_l_borrow : leaves (st 0x2000 0x1000 [(0, 1)] []) [0x9280] [(1, 0xFFFFFFFF)] [] (· = 0x19) := by
  decide +kernel
theorem test_subx_l : leaves (st 0x2014 0x1000 [(0, 0xFFFFFFFF)] []) [0x9380] [(1, 0)] [] (· = 0x15) := by decide +kernel
theorem test_cmp_b : leaves (st 0x2000 0x1000 [(0, 0xFF), (1, 0x7F)] []) [0xB200] [(1, 0x7F)] [] (· = 0x0B) := by
  decide +kernel
theorem test_cmp_l_keeps_x : leaves (st 0x2010 0x1000 [(0, 0x12345678), (1, 0x12345678)] []) [0xB280] [] [] (· = 0x14) := by
  decide +kernel
theorem test_cmpa_w_extends : leaves (st 0x2000 0x1000 [(0, 0x1FFFF), (8, 0xFFFFFFFF)] []) [0xB0C0] [] [] (· = 4) := by
  decide +kernel
theorem test_neg_w : leaves (st 0x2000 0x1000 [(0, 0x70001)] []) [0x4440] [(0, 0x7FFFF)] [] (· = 0x19) := by decide +kernel
theorem test_neg_l_overflow : leaves (st 0x2000 0x1000 [(0, 0x80000000)] []) [0x4480] [(0, 0x80000000)] [] (· = 0x1B) := by
  decide +kernel
theorem test_negx_b_z_sticky : leaves (st 0x2004 0x1000 [] []) [0x4000] [(0, 0)] [] (· = 4) := by decide +kernel
theorem test_clr_b : leaves (st 0x201B 0x1000 [(0, 0xFFFFFFFF)] []) [0x4200] [(0, 0xFFFFFF00)] [] (· = 0x14) := by
  decide +kernel
theorem test_ext_l : leaves (st 0x2000 0x1000 [(0, 0x12348000)] []) [0x48C0] [(0, 0xFFFF8000)] [] (· = 8) := by
  decide +kernel
theorem test_ext_w : leaves (st 0x2000 0x1000 [(0, 0xFFFFFF00)] []) [0x4880] [(0, 0xFFFF0000)] [] (· = 4) := by
  decide +kernel
theorem test_extb_l : leaves (st 0x2000 0x1000 [(0, 0x1234567F)] []) [0x49C0] [(0, 0x7F)] [] (· = 0) := by decide +kernel
theorem test_mulu_w : leaves (st 0x2000 0x1000 [(0, 0x1FFFF), (1, 0x2FFFF)] []) [0xC0C1] [(0, 0xFFFE0001)] [] (· = 8) := by
  decide +kernel
theorem test_muls_w : leaves (st 0x2000 0x1000 [(0, 0x18000), (1, 0x28000)] []) [0xC1C1] [(0, 0x40000000)] [] (· = 0) := by
  decide +kernel
theorem test_muls_l_overflow : leaves (st 0x2000 0x1000 [(0, 0x40000000), (1, 2)] []) [0x4C01, 0x0800] [(0, 0x80000000)] []
    (· = 0x0A) := by decide +kernel
theorem test_mulu_l_quad : leaves (st 0x2000 0x1000 [(0, 0xFFFFFFFF), (1, 0xFFFFFFFF)] []) [0x4C01, 0x0402]
    [(2, 0xFFFFFFFE), (0, 1)] [] (· = 8) := by decide +kernel
theorem test_divu_w_overflow : leaves (st 0x2000 0x1000 [(0, 0x20000), (1, 2)] []) [0x80C1] [(0, 0x20000)] []
    (fun _ => true) := by decide +kernel
theorem test_divs_w : leaves (st 0x2000 0x1000 [(0, 7), (1, 0xFFFE)] []) [0x81C1] [(0, 0x1FFFD)] [] (· = 8) := by
  decide +kernel
theorem test_divs_w_overflow : leaves (st 0x2000 0x1000 [(0, 0xFFFF8000), (1, 0xFFFF)] []) [0x81C1] [(0, 0xFFFF8000)] []
    (fun _ => true) := by decide +kernel
theorem test_divs_l_overflow : leaves (st 0x2000 0x1000 [(0, 0x80000000), (1, 0xFFFFFFFF)] []) [0x4C41, 0x0800]
    [(0, 0x80000000)] [] (fun _ => true) := by decide +kernel
theorem test_divul_l : leaves (st 0x2000 0x1000 [(0, 7), (2, 2)] []) [0x4C42, 0x0001] [(0, 3), (1, 1)] [] (· = 0) := by
  decide +kernel
theorem test_cmp2_w_goes_on : gives (st 0x2000 0x1000 [(8, 0x3000)] [(0x3000, 4, 0xFFF00010)]) [0x02D0, 0]
    (·.pc = 0x1004) := by decide +kernel

/-! ### Logic, shifts, bits, decimal (R810, R843, R895, R910) -/

theorem test_and_l : leaves (st 0x2000 0x1000 [(0, 0xFFFF0000), (1, 0xFFFF)] []) [0xC280] [(1, 0)] [] (· = 4) := by
  decide +kernel
theorem test_andi_b : leaves (st 0x2000 0x1000 [(0, 0xFF)] []) [0x0200, 0x0080] [(0, 0x80)] [] (· = 8) := by decide +kernel
theorem test_not_l : leaves (st 0x2000 0x1000 [(0, 0x12345678)] []) [0x4680] [(0, 0xEDCBA987)] [] (· = 8) := by
  decide +kernel
theorem test_not_b : leaves (st 0x2000 0x1000 [(0, 0xFFFFFFFF)] []) [0x4600] [(0, 0xFFFFFF00)] [] (· = 4) := by
  decide +kernel
theorem test_or_w_memory : leaves (st 0x2000 0x1000 [(2, 0xF00F), (9, 0x3000)] [(0x3000, 2, 0x0FF0)]) [0x8551] [(2, 0xF00F)]
    [(0x3000, 2, 0xFFFF)] (· = 8) := by decide +kernel
theorem test_eor_w : leaves (st 0x2000 0x1000 [(5, 0x8000), (6, 0x8000)] []) [0xBB46] [(6, 0)] [] (· = 4) := by
  decide +kernel
theorem test_ori_l_keeps_x : leaves (st 0x2013 0x1000 [(0, 1)] []) [0x0080, 0, 0] [(0, 1)] [] (· = 0x10) := by decide +kernel
theorem test_eori_b_predecrement : leaves (st 0x2000 0x1000 [(10, 0x4001)] [(0x4000, 1, 0x55)]) [0x0A22, 0x00FF]
    [(10, 0x4000)] [(0x4000, 1, 0xAA)] (· = 8) := by decide +kernel
theorem test_asl_b : leaves (st 0x2000 0x1000 [(0, 0xC0)] []) [0xE300] [(0, 0x80)] [] (· = 0x19) := by decide +kernel
theorem test_asl_l_by_33 : leaves (st 0x2000 0x1000 [(0, 1), (1, 33)] []) [0xE3A0] [(0, 0)] [] (· = 6) := by decide +kernel
theorem test_lsl_l_by_32 : leaves (st 0x2000 0x1000 [(0, 1), (1, 32)] []) [0xE3A8] [(0, 0)] [] (· = 0x15) := by
  decide +kernel
theorem test_asr_l_by_40 : leaves (st 0x2000 0x1000 [(0, 0x80000000), (1, 40)] []) [0xE2A0] [(0, 0xFFFFFFFF)] [] (· = 0x19) :=
  by decide +kernel
theorem test_lsr_l_by_32 : leaves (st 0x2000 0x1000 [(0, 0x80000000), (1, 32)] []) [0xE2A8] [(0, 0)] [] (· = 0x15) := by
  decide +kernel
theorem test_lsr_w_by_64 : leaves (st 0x2011 0x1000 [(0, 0x5555), (1, 64)] []) [0xE268] [(0, 0x5555)] [] (· = 0x10) := by
  decide +kernel
theorem test_roxl_l_by_0 : leaves (st 0x2010 0x1000 [] []) [0xE3B0] [(0, 0)] [] (· = 0x15) := by decide +kernel
theorem test_rol_b_by_8 : leaves (st 0x2000 0x1000 [(0, 0x81), (1, 8)] []) [0xE338] [(0, 0x81)] [] (· = 9) := by
  decide +kernel
theorem test_roxr_b_by_9 : leaves (st 0x2000 0x1000 [(0, 0xFF), (1, 9)] []) [0xE230] [(0, 0xFF)] [] (· = 8) := by
  decide +kernel
theorem test_roxr_l : leaves (st 0x2010 0x1000 [] []) [0xE292] [(2, 0x80000000)] [] (· = 8) := by decide +kernel
theorem test_swap : leaves (st 0x2000 0x1000 [(3, 0xFFFF)] []) [0x4843] [(3, 0xFFFF0000)] [] (· = 8) := by decide +kernel
theorem test_btst_modulo_32 : leaves (st 0x2004 0x1000 [(0, 0x80000000)] []) [0x0800, 0x003F] [] [] (· = 0) := by
  decide +kernel
theorem test_btst_modulo_8 : leaves (st 0x2004 0x1000 [(8, 0x3000)] [(0x3000, 1, 1)]) [0x0810, 0x0008] [] [] (· = 0) := by
  decide +kernel
theorem test_bclr_dn : leaves (st 0x2004 0x1000 [(3, 0xFFFFFFFF)] []) [0x0983] [(3, 0xFFFFFFFE)] [] (· = 0) := by
  decide +kernel
theorem test_bset_postincrement : leaves (st 0x2000 0x1000 [(8, 0x3000)] []) [0x08D8, 0x0007] [(8, 0x3001)]
    [(0x3000, 1, 0x80)] (· = 4) := by decide +kernel
theorem test_bfextu_whole : leaves (st 0x2000 0x1000 [(0, 0x12345678)] []) [0xE9C0, 0x1000] [(1, 0x12345678)] [] (· = 0) := by
  decide +kernel
theorem test_bfexts_wraps : leaves (st 0x2000 0x1000 [(0, 0xF)] []) [0xEBC0, 0x17C2] [(1, 0xFFFFFFFE)] [] (· = 8) := by
  decide +kernel
theorem test_bfextu_five_bytes : leaves (st 0x2000 0x1000 [(9, 0x4000)] [(0x4000, 4, 0x12345678), (0x4004, 1, 0x9A)])
    [0xE9D1, 0x2100] [(2, 0x23456789)] [] (· = 0) := by decide +kernel
theorem test_bftst_register_offset : leaves (st 0x2004 0x1000 [(5, 12), (9, 0x4000)] [(0x4000, 4, 0x12345678)])
    [0xE8D1, 0x0944] [] [] (· = 0) := by decide +kernel
theorem test_bfclr_negative_offset : leaves (st 0x2000 0x1000 [(5, 0xFFFFFFF8), (9, 0x5000)] [(0x4FFE, 4, 0x11FF2233)])
    [0xECD1, 0x0948] [] [(0x4FFE, 4, 0x11002233)] (· = 8) := by decide +kernel
theorem test_bfins_wraps : leaves (st 0x2000 0x1000 [(0, 0xFFFFFFFF)] []) [0xEFC1, 0x0708] [(1, 0xF000000F)] [] (· = 8) := by
  decide +kernel
theorem test_bfffo : leaves (st 0x2000 0x1000 [(1, 0x100)] []) [0xEDC1, 0x0410] [(0, 23)] [] (· = 0) := by decide +kernel
theorem test_abcd : leaves (st 0x2004 0x1000 [(0, 9), (1, 1)] []) [0xC300] [(1, 0x10)] [] (fun _ => true) := by
  decide +kernel
theorem test_abcd_carry : leaves (st 0x2014 0x1000 [(0, 0x50), (1, 0x50)] []) [0xC300] [(1, 1)] []
    (fun _ => true) := by decide +kernel
theorem test_sbcd_borrow : leaves (st 0x2004 0x1000 [(0, 1)] []) [0x8300] [(1, 0x99)] [] (fun _ => true) := by
  decide +kernel
theorem test_nbcd : leaves (st 0x2014 0x1000 [] []) [0x4800] [(0, 0x99)] [] (fun _ => true) := by decide +kernel
theorem test_abcd_memory : leaves (st 0x2004 0x1000 [(8, 0x3002), (9, 0x2002)] [(0x3001, 1, 0x27), (0x2001, 1, 0x15)])
    [0xC308] [(8, 0x3001), (9, 0x2001)] [(0x2001, 1, 0x42)] (fun _ => true) := by decide +kernel
theorem test_pack_memory : leaves (st 0x2000 0x1000 [(8, 0x3002), (9, 0x2001)] [(0x3000, 2, 0x0709)]) [0x8348, 0]
    [(8, 0x3000), (9, 0x2000)] [(0x2000, 1, 0x79)] (· = 0) := by decide +kernel
theorem test_unpk : leaves (st 0x2000 0x1000 [(1, 0xFF)] []) [0x8181, 1] [(0, 0x0F10)] [] (· = 0) := by decide +kernel
theorem test_pack_drops_zones : leaves (st 0x2000 0x1000 [(0, 0xF3F4)] []) [0x8340, 0] [(1, 0x34)] [] (· = 0) := by
  decide +kernel

/-! ### Program control (R940) and system control (R1000) -/

theorem test_bhi_false : gives (st 0x2001 0x1000 [] []) [0x6202] (·.pc = 0x1002) := by decide +kernel
theorem test_bhi_true : gives (st 0x2000 0x1000 [] []) [0x6202] (·.pc = 0x1004) := by decide +kernel
theorem test_blt_w : gives (st 0x2008 0x1000 [] []) [0x6D00, 0x0100] (·.pc = 0x1102) := by decide +kernel
theorem test_bgt_l : gives (st 0x200A 0x20000 [] []) [0x6EFF, 0xFFFF, 0] (·.pc = 0x10002) := by decide +kernel
theorem test_bne_odd_not_taken : gives (st 0x2004 0x1000 [(15, 0x8000)] [(0x0C, 4, 0x2600)]) [0x6601] (fun t =>
    t.pc = 0x2600 && t.valueAt 0x7FFA 2 = 0x200C) := by decide +kernel
theorem test_dbf_wraps : gives (st 0x2000 0x4004 [(0, 0x50000)] []) [0x51C8, 0xFFFC] (fun t =>
    t.getD 0 = 0x5FFFF && t.pc = 0x4008) := by decide +kernel
theorem test_dbeq_true : gives (st 0x2004 0x4004 [(0, 3)] []) [0x57C8, 0xFFFC] (fun t => t.getD 0 = 3 && t.pc = 0x4008) := by
  decide +kernel
theorem test_sge_false : leaves (st 0x2002 0x1000 [(8, 0x2000)] [(0x2000, 1, 0x77)]) [0x5CD0] [] [(0x2000, 1, 0)] (· = 2) := by
  decide +kernel
theorem test_bsr_l : gives (st 0x2000 0x3000 [(15, 0x8000)] []) [0x61FF, 1, 0] (fun t =>
    t.pc = 0x13002 && holds t [(15, 0x7FFC)] [(0x7FFC, 4, 0x3006)]) := by decide +kernel
theorem test_jsr : gives (st 0x2000 0x3000 [(15, 0x8000)] []) [0x4EB9, 1, 0x2344] (fun t =>
    t.pc = 0x12344 && holds t [(15, 0x7FFC)] [(0x7FFC, 4, 0x3006)]) := by decide +kernel
theorem test_rts_odd : gives (st 0x2000 0x1000 [(15, 0x7FFC)] [(0x7FFC, 4, 0x3007), (0x0C, 4, 0x2600)]) [0x4E75] (fun t =>
    t.pc = 0x2600 && t.getA 7 = 0x7FF4 && t.valueAt 0x7FFC 4 = 0x3006) := by decide +kernel
theorem test_rtd : gives (st 0x2000 0x1000 [(15, 0x7FF8)] [(0x7FF8, 4, 0x1234)]) [0x4E74, 0xFFFC] (fun t =>
    t.pc = 0x1234 && t.getA 7 = 0x7FF8) := by decide +kernel
theorem test_tst_l : leaves (st 0x2000 0x1000 [(8, 0x6000)] [(0x6000, 4, 0x80000000)]) [0x4A98] [(8, 0x6004)] [] (· = 8) := by
  decide +kernel
theorem test_jmp_odd : traps (st 0x2000 0x1000 [(15, 0x8000)] [(0x0C, 4, 0x2600)]) [0x4EF9, 0, 0x2001]
    0x2000 0x2600 0x7FF4 [0x2000, 0, 0x1000, 0x200C, 0, 0x2000] := by decide +kernel
theorem test_ori_to_sr_privileged : traps { st 0 0x1000 [] [(0x20, 4, 0x2200)] with
    a := { State.reset.a with isp := 0x8000 } } [0x007C, 0x0700] 0x2000 0x2200 0x7FF8 [0, 0, 0x1000, 0x0020] := by
  decide +kernel
theorem test_ori_to_sr_selects_msp : gives { st 0x2700 0x1000 [] [] with a := { State.reset.a with isp := 0x8000, msp := 0x9000 } }
    [0x007C, 0x1000] (fun t => t.sr = 0x3700 && t.getA 7 = 0x9000 && t.a.isp = 0x8000) := by decide +kernel
theorem test_move_to_sr_masks : gives (st 0x2000 0x1000 [] []) [0x46FC, 0xBFFF] (·.sr = 0xB71F) := by decide +kernel
theorem test_andi_to_sr_enters_user_state : gives (st 0x2000 0x1000 [] []) [0x027C, 0xDFFF] (·.sr = 0) := by decide +kernel
theorem test_move_to_ccr : gives (st 0x2000 0x1000 [] []) [0x44FC, 0xFFFF] (·.sr = 0x201F) := by decide +kernel
theorem test_move_from_ccr : gives (st 0x0015 0x1000 [] []) [0x42C0] (·.getD 0 = 0x15) := by decide +kernel
theorem test_move_from_sr_privileged : traps { st 0 0x1000 [] [(0x20, 4, 0x2200)] with
    a := { State.reset.a with isp := 0x8000 } } [0x40C0] 0x2000 0x2200 0x7FF8 [0, 0, 0x1000, 0x0020] := by decide +kernel
theorem test_move_usp : gives { st 0x2000 0x1000 [] [] with a := { State.reset.a with usp := 0x6000 } } [0x4E69]
    (·.getA 1 = 0x6000) := by decide +kernel
theorem test_movec_sfc : gives (st 0x2000 0x1000 [(1, 0x1234567D)] []) [0x4E7B, 0x1000] (·.ctl.sfc = 5) := by decide +kernel
theorem test_movec_no_such_register : traps (st 0x2000 0x1000 [(15, 0x8000)] [(0x10, 4, 0x2400)]) [0x4E7A, 0x0802]
    0x2000 0x2400 0x7FF8 [0x2000, 0, 0x1000, 0x0010] := by decide +kernel
theorem test_moves_b : gives { st 0x2000 0x1000 [(9, 0x5000)] [(0x5000, 1, 0x80)] with ctl := { Control.reset with sfc := 1 } }
    [0x0E19, 0xA000] (fun t => holds t [(10, 0xFFFFFF80), (9, 0x5001)] []) := by decide +kernel
theorem test_trapv_not_taken : gives (st 0x2000 0x1000 [] []) [0x4E76] (·.pc = 0x1002) := by decide +kernel
theorem test_trapv_taken : traps (st 0x2002 0x1000 [(15, 0x8000)] [(0x1C, 4, 0x2400)]) [0x4E76]
    0x2002 0x2400 0x7FF4 [0x2002, 0, 0x1002, 0x201C, 0, 0x1000] := by decide +kernel
theorem test_chk_w_in_bounds : gives (st 0x2000 0x1000 [(0, 5), (1, 5)] []) [0x4181] (·.pc = 0x1002) := by decide +kernel
theorem test_rte_format_2 : gives (st 0x2015 0x1000 [(15, 0x7FF4)] [(0x7FF4, 4, 0x00100000), (0x7FF8, 4, 0x3000201C),
    (0x7FFC, 4, 0x2FFE)]) [0x4E73] (fun t => t.sr = 0x0010 && t.pc = 0x3000 && t.a.isp = 0x8000) := by decide +kernel
theorem test_rte_format_error : traps (st 0x2000 0x3000 [(15, 0x7FF8)] [(0x7FF8, 4, 0x20000000), (0x7FFC, 4, 0x10009000),
    (0x38, 4, 0x2400)]) [0x4E73] 0x2000 0x2400 0x7FF0 [0x2000, 0, 0x3000, 0x0038, 0x2000, 0, 0x1000, 0x9000] := by
  decide +kernel
theorem test_stop : gives (st 0x2000 0x1000 [] []) [0x4E72, 0x2300] (fun t =>
    t.sr = 0x2300 && t.pc = 0x1004 && t.run = .stopped) := by decide +kernel
theorem test_stop_traced : gives2 (st 0xA000 0x1000 [(15, 0x8000)] [(0x24, 4, 0x3000)]) [0x4E72, 0x2000] (fun t =>
    t.run = .normal && t.pc = 0x3000 && t.bytesAt 0x7FF4 8 = wordBytes [0x2000, 0, 0x1004, 0x2024]) := by decide +kernel
theorem test_trap : traps { st 0x0010 0x1000 [] [(0x80, 4, 0x2000)] with a := { State.reset.a with isp := 0x8000 } } [0x4E40]
    0x2010 0x2000 0x7FF8 [0x0010, 0, 0x1002, 0x0080] := by decide +kernel
theorem test_trace : gives2 { st 0x8000 0x1000 [] [(0x24, 4, 0x3000)] with a := { State.reset.a with isp := 0x8000 } } [0x4E71]
    (fun t => t.sr = 0x2000 && t.pc = 0x3000 && t.a.isp = 0x7FF4 &&
      t.bytesAt 0x7FF4 12 = wordBytes [0x8000, 0, 0x1002, 0x2024, 0, 0x1000]) := by decide +kernel
theorem test_interrupt_from_master_state : gives { st 0x3000 0x1000 [] [(0x6C, 4, 0x4000)] with
    a := { State.reset.a with isp := 0x8000, msp := 0x6000 }, ipl := 3 } [0x4E71] (fun t =>
    t.sr = 0x2300 && t.pc = 0x4000 && t.a.msp = 0x5FF8 && t.a.isp = 0x7FF8 &&
      t.bytesAt 0x5FF8 8 = wordBytes [0x3000, 0, 0x1000, 0x006C] &&
      t.bytesAt 0x7FF8 8 = wordBytes [0x3000, 0, 0x1000, 0x106C]) := by decide +kernel
theorem test_level_7_interrupt : gives { st 0x2700 0x1000 [(15, 0x8000)] [(0x100, 4, 0x5000)] with
    ipl := 7, nmiLatch := true, iack := .vector 0x40 } [0x4E71] (fun t =>
    t.pc = 0x5000 && t.sr = 0x2700 && t.nmiLatch = false && t.interruptPending = false) := by decide +kernel
theorem test_line_a : traps (st 0x2000 0x1000 [(15, 0x8000)] [(0x28, 4, 0x2400)]) [0xA123] 0x2000 0x2400 0x7FF8
    [0x2000, 0, 0x1000, 0x0028] := by decide +kernel
theorem test_double_fault_halts : gives { st 0x2700 0x1000 [(15, 0x8000)] [(0x1000C, 4, 1)] with
    ctl := { Control.reset with vbr := 0x10000 } } [0x4EF9, 0, 0x2001] (·.run = .halted) := by decide +kernel
theorem test_reset_event : gives { st 0 0x1000 [(3, 3)] [(0, 4, 0x1000), (4, 4, 0x400)] with
    inputs := [.reset 3], ctl := { Control.reset with vbr := 0x12345678, cacr := 0x80008000, tc := 0x8000 } } [] (fun t =>
    t.a.isp = 0x1000 && t.pc = 0x400 && t.sr = 0x2700 && t.ctl.vbr = 0 && t.ctl.cacr = 0 && t.ctl.tc = 0x4000 &&
      t.modePins = 3 && t.getD 3 = 3) := by decide +kernel
theorem test_reset_event_odd_pc : gives { st 0 0x1000 [] [(4, 4, 0x401)] with inputs := [.reset 3] } [] (·.run = .halted) := by
  decide +kernel

/-! ### Multiprocessor, caches, MMU (R1056, R1105, R227, R252, 95_test_vectors 2.5) -/

theorem test_tas : leaves (st 0x2000 0x1000 [(0, 0xFF)] []) [0x4AC0] [(0, 0xFF)] [] (· = 8) := by decide +kernel
theorem test_cas_b_equal : leaves (st 0x2000 0x1000 [(0, 0x7F), (1, 1), (8, 0x2000)] [(0x2000, 1, 0x7F)]) [0x0AD0, 0x0040] []
    [(0x2000, 1, 1)] (· = 4) := by decide +kernel
theorem test_cas_b_not_equal : leaves (st 0x2000 0x1000 [(0, 0x17F), (1, 1), (8, 0x2000)] [(0x2000, 1, 0x80)])
    [0x0AD0, 0x0040] [(0, 0x180)] [(0x2000, 1, 0x80)] (· = 2) := by decide +kernel
theorem test_cas2_w : leaves (st 0x2000 0x1000 [(0, 1), (1, 9), (2, 0xAAAA), (3, 0xBBBB), (8, 0x3000), (9, 0x3002)]
    [(0x3000, 4, 0x00010002)]) [0x0CFC, 0x8080, 0x90C1] [(0, 1), (1, 2)] [(0x3000, 4, 0x00010002)] (· = 9) := by decide +kernel

/-- A dirty line of the data cache: set 5, way 2, physical $48C50 to $48C5F. -/
def lineState : State :=
  let s := st 0x2000 0x1000 [(8, 0x48C5C)] []
  { s with mem := { s.mem with dcache := [(22, ⟨0x123, 0x00112233445566778899AABBCCDDEEFF, 15⟩)] } }

theorem test_cinvl_drops_the_line : gives lineState [0xF448] (fun t =>
    t.mem.dcache = [] && t.valueAt 0x48C50 4 = 0) := by decide +kernel
theorem test_cpushl_writes_the_line : gives lineState [0xF468] (fun t =>
    t.mem.dcache = [] && t.valueAt 0x48C50 4 = 0x00112233 && t.valueAt 0x48C5C 4 = 0xCCDDEEFF) := by decide +kernel

/-- A user entry and a global supervisor entry for page $12 in both ATCs. -/
def atcState : State :=
  let s := st 0x2000 0x1000 [(8, 0x12FFF)] []
  let atc : List (Nat × AtcEntry) := [(8, ⟨false, false, 1, 0x77, false, false, false, 0, false, false, true⟩),
    (9, ⟨true, true, 1, 0x78, false, false, true, 0, false, false, true⟩)]
  { s with ctl := { s.ctl with dfc := 5, tc := 0 }, mem := { s.mem with iatc := atc, datc := atc } }

theorem test_pflushn_keeps_global : gives atcState [0xF500] (fun t => t.mem.iatc.length = 2 && t.mem.datc.length = 2) := by
  decide +kernel
theorem test_pflush_by_function_code : gives atcState [0xF508] (fun t =>
    t.mem.iatc.map (·.1) = [8] && t.mem.datc.map (·.1) = [8]) := by decide +kernel
theorem test_pflushan : gives atcState [0xF510] (fun t => t.mem.iatc.map (·.1) = [9] && t.mem.datc.map (·.1) = [9]) := by
  decide +kernel

/-- The tables of 95_test_vectors 2.5, with 4K pages. -/
def tableState : State :=
  let s := st 0 0x1000 [] [(0x10000, 4, 0x11002), (0x11040, 4, 0x12002), (0x1200C, 4, 0xABC001), (0xABC120, 4, 0x5A5A5A5A)]
  { s with ctl := { s.ctl with tc := 0x8000, urp := 0x10000, itt0 := 0x00FFC000 } }

theorem test_table_search : (match tableState.read 0x403120 4 with
    | .ok v t => v = 0x5A5A5A5A && t.valueAt 0x10000 4 = 0x1100A && t.valueAt 0x11040 4 = 0x1200A &&
        t.valueAt 0x1200C 4 = 0xABC009 && t.mem.datc.length = 1
    | _ => false) = true := by decide +kernel
theorem test_table_search_page_not_resident : (match tableState.read 0x404000 4 with
    | .fail f t => f.fa = 0x404000 && f.atc && t.mem.datc.length = 1
    | _ => false) = true := by decide +kernel
theorem test_transparent_write_protection :
    let c := { Control.reset with dtt0 := 0x000FA004 }
    translate c bare false 0x0ABCDEF0 true false = .ok 0x0ABCDEF0 0 bare ∧
    translate c bare false 0x0ABCDEF0 true true = .fault bare ∧
    ttrMatch c false 0x0ABCDEF0 false = none ∧ ttrMatch c false 0x10000000 true = none := ⟨rfl, rfl, rfl, rfl⟩
theorem test_table_search_8k_pages :
    let s := st 0x2000 0x1000 [] [(0x10EC, 4, 0x1802), (0x1854, 4, 0x3002), (0x3004, 4, 0xABCDE001)]
    (match translate { s.ctl with tc := 0xC000, srp := 0x1000 } s.mem false 0x76543210 true false with
      | .ok pa _ _ => decide (pa = 0xABCDF210)
      | _ => false) = true := by decide +kernel
theorem test_access_error_words :
    sswOf ⟨0x400000, true, false, false, true, 0, 0, 1, none⟩ FaultInfo.none 0 = 0x0501 ∧
    sswOf ⟨0x400002, true, false, false, false, 2, 0, 1, none⟩ FaultInfo.none 0 = 0x0441 ∧
    sswOf ⟨0x400002, true, false, false, false, 2, 0, 1, none⟩ ⟨2, 0x1000, false, []⟩ 0 = 0x2441 ∧
    wbStatus ⟨0x400002, [0xBE, 0xEF], ⟨0, 1, false, true, none⟩⟩ = 0xC1 ∧
    wb1Data ⟨0x400002, [0xBE, 0xEF], ⟨0, 1, false, true, none⟩⟩ 0 = 0xBEEF := by decide +kernel

/-! ### Floating point (R790, R1270, 95_test_vectors P4) -/

/-- A state with FP0, FP1 and FPCR given. -/
def fpu (x0 x1 : Fpr) (fpcr : Long) : State :=
  let s := st 0x2000 0x1000 [(15, 0x8000)] []
  { s with fpu := { s.fpu with fp := { s.fpu.fp with r0 := x0, r1 := x1 }, fpcr := fpcr } }

/-- FP0, FPSR and what is pending. -/
def fpIs (t : State) (x0 : Fpr) (fpsr : Long) (pending : Option (BitVec 8)) : Bool :=
  t.fpu.fp.r0 = x0 && t.fpu.fpsr = fpsr && t.fpu.pending = pending

theorem test_fmove_l : gives (st 0x2700 0 [] []) [0xF23C, 0x4000, 0, 1] (fpIs · ⟨false, 0x3FFF, 0x8000000000000000⟩ 0 none) := by
  decide +kernel
theorem test_fmove_s_infinity : gives (st 0x2700 0 [] []) [0xF23C, 0x4400, 0x7F80, 0] (fpIs · ⟨false, 0x7FFF, 0⟩ 0x02000000 none) := by
  decide +kernel
theorem test_fmove_s_denormal : gives (st 0x2700 0 [] []) [0xF23C, 0x4400, 0, 1] (fpIs · Fpr.resetNan 0 (some 55)) := by decide +kernel
theorem test_fmove_s_snan : gives (st 0x2700 0 [] []) [0xF23C, 0x4400, 0x7FA0, 0]
    (fpIs · ⟨false, 0x7FFF, 0xE000000000000000⟩ 0x01004080 none) := by decide +kernel
theorem test_fmove_s_snan_enabled : gives (fpu Fpr.zero Fpr.zero 0x4000) [0xF23C, 0x4400, 0x7FA0, 0]
    (fpIs · Fpr.zero 0x00004080 (some 54)) := by decide +kernel
theorem test_fadd_opposite_infinities : gives (fpu ⟨false, 0x7FFF, 0⟩ ⟨true, 0x7FFF, 0⟩ 0) [0xF200, 0x0422]
    (fpIs · Fpr.resetNan 0x01002080 none) := by decide +kernel
theorem test_fdiv_by_zero : gives (fpu ⟨false, 0x3FFF, 0x8000000000000000⟩ Fpr.zero 0) [0xF23C, 0x4020, 0, 0]
    (fpIs · ⟨false, 0x7FFF, 0⟩ 0x02000410 none) := by decide +kernel
theorem test_fdiv_by_zero_enabled : gives (fpu ⟨true, 0x3FFF, 0x8000000000000000⟩ Fpr.zero 0x0400) [0xF23C, 0x4020, 0, 0]
    (fpIs · ⟨true, 0x3FFF, 0x8000000000000000⟩ 0x00000410 (some 50)) := by decide +kernel
theorem test_fadd_overflow : gives (fpu ⟨false, 0x7FFE, 0xFFFFFFFFFFFFFFFF⟩ ⟨false, 0x7FFE, 0xFFFFFFFFFFFFFFFF⟩ 0)
    [0xF200, 0x0422] (fpIs · ⟨false, 0x7FFE, 0xFFFFFFFFFFFFFFFF⟩ 0x00001048 (some 53)) := by decide +kernel
theorem test_fmul_underflow : gives (fpu ⟨false, 1, 0x8000000000000000⟩ ⟨false, 1, 0x8000000000000000⟩ 0)
    [0xF200, 0x0423] (fpIs · ⟨false, 1, 0x8000000000000000⟩ 0x00000800 (some 51)) := by decide +kernel
theorem test_fabs_denormal : gives (fpu ⟨false, 0, 0x4000000000000000⟩ Fpr.zero 0) [0xF200, 0x0018]
    (fpIs · ⟨false, 0, 0x4000000000000000⟩ 0 (some 55)) := by decide +kernel
theorem test_fcmp_infinity : gives (fpu ⟨false, 0x7FFF, 0⟩ Fpr.zero 0) [0xF200, 0x0038]
    (fpIs · ⟨false, 0x7FFF, 0⟩ 0x04000000 none) := by decide +kernel
theorem test_fsqrt_negative_zero : gives (fpu ⟨true, 0, 0⟩ Fpr.zero 0) [0xF200, 0x0004] (fpIs · ⟨true, 0, 0⟩ 0x0C000000 none) :=
  by decide +kernel
theorem test_fsqrt_negative : gives (fpu ⟨true, 0x4001, 0x8000000000000000⟩ Fpr.zero 0) [0xF200, 0x0004]
    (fpIs · Fpr.resetNan 0x01002080 none) := by decide +kernel
theorem test_fsqrt_two : gives (fpu ⟨false, 0x4000, 0x8000000000000000⟩ Fpr.zero 0) [0xF200, 0x0004]
    (fpIs · ⟨false, 0x3FFF, 0xB504F333F9DE6484⟩ 0x00000208 none) := by decide +kernel
theorem test_fadd_round_to_nearest_even : gives
    (fpu ⟨false, 0x3FFF, 0x8000000000000000⟩ ⟨false, 0x3FBF, 0x8000000000000000⟩ 0) [0xF200, 0x0422]
    (fpIs · ⟨false, 0x3FFF, 0x8000000000000000⟩ 0x00000208 none) := by decide +kernel
theorem test_fadd_round_up : gives
    (fpu ⟨false, 0x3FFF, 0x8000000000000000⟩ ⟨false, 0x3FBF, 0x8000000000000000⟩ 0x30) [0xF200, 0x0422]
    (fpIs · ⟨false, 0x3FFF, 0x8000000000000001⟩ 0x00000208 none) := by decide +kernel
theorem test_fmul : gives (fpu ⟨false, 0x4000, 0xC000000000000000⟩ Fpr.zero 0) [0xF200, 0x0023]
    (fpIs · ⟨false, 0x4002, 0x9000000000000000⟩ 0 none) := by decide +kernel
theorem test_fmove_l_store : gives (fpu ⟨false, 0x4001, 0xA000000000000000⟩ Fpr.zero 0) [0xF200, 0x6000] (fun t =>
    t.getD 0 = 5 && t.fpu.fpsr = 0) := by decide +kernel
theorem test_fmove_w_store_round_up : gives (fpu ⟨false, 0x3FFE, 0x8000000000000000⟩ Fpr.zero 0x30) [0xF200, 0x7000] (fun t =>
    t.getD 0 = 1 && t.fpu.fpsr = 0x208) := by decide +kernel
theorem test_fmove_b_store_operand_error :
    (storeOf .b .rn ⟨false, 0x4007, 0x9600000000000000⟩).exc = 0x20 ∧
    (storeOf .b .rn ⟨true, 0x4006, 0x8000000000000000⟩).bits = none ∧
    (storeOf .b .rn ⟨false, 0x4005, 0xFF00000000000000⟩).exc = 0x22 := by decide +kernel
theorem test_fbgt_on_nan : gives { fpu Fpr.zero Fpr.zero 0x8000 with
    fpu := { Fpu.reset with fpsr := 0x01000000, fpcr := 0x8000 } } [0xF292, 0x0010] (fun t =>
    t.fpu.fpsr = 0x01008000 && t.bytesAt 0x7FF8 8 = wordBytes [0x2000, 0, 0x1000, 0x00C0]) := by decide +kernel
theorem test_fbgt_on_nan_disabled : gives { fpu Fpr.zero Fpr.zero 0 with fpu := { Fpu.reset with fpsr := 0x01000000 } }
    [0xF292, 0x0010] (fun t => t.fpu.fpsr &&& 0xFF00 = 0x8000 && t.pc = 0x1004) := by decide +kernel
theorem test_fbugt_on_nan : gives { fpu Fpr.zero Fpr.zero 0 with fpu := { Fpu.reset with fpsr := 0x01000000 } }
    [0xF28A, 0x0010] (fun t => t.fpu.fpsr = 0x01000000 && t.pc = 0x1012) := by decide +kernel
theorem test_fsin_is_unimplemented : gives (fpu Fpr.zero Fpr.zero 0) [0xF210, 0x440E] (fun t =>
    t.fpu.kind = .unimp && t.bytesAt 0x7FF4 12 = wordBytes [0x2000, 0, 0x1004, 0x202C, 0, 0]) := by decide +kernel
theorem test_pending_exception_comes_first : gives { fpu Fpr.zero Fpr.zero 0 with fpu := { Fpu.reset with pending := some 50 } }
    [0xF200, 0x0DA2] (fun t => t.fpu.pending = some 50 &&
      t.bytesAt 0x7FF8 8 = wordBytes [0x2000, 0, 0x1000, 0x00C8]) := by decide +kernel
theorem test_fsave_null : leaves (st 0x2000 0x1000 [(15, 0x8000)] [(0x7FFC, 4, 0xFFFFFFFF)]) [0xF327] [(15, 0x7FFC)]
    [(0x7FFC, 4, 0)] (· = 0) := by decide +kernel
theorem test_frestore_null : gives { fpu Fpr.zero Fpr.zero 0x20 with pc := 0x2000 } [0xF35F] (fun t =>
    t.fpu = Fpu.reset && t.getA 7 = 0x8004) := by decide +kernel
theorem test_fmovem_control : gives (st 0x2000 0x1000 [(8, 0x3000)] [(0x3000, 4, 0xFFFF), (0x3004, 4, 0x12345678)])
    [0xF210, 0x9400] (fun t => t.fpu.fpcr = 0xFFF0 && t.fpu.fpiar = 0x12345678 && t.fpu.fpsr = 0) := by decide +kernel
theorem test_fmovem_x_predecrement : leaves (fpu ⟨true, 0x3FFF, 0x8000000000000001⟩ Fpr.zero 0) [0xF227, 0xE003]
    [(15, 0x7FE8)] [(0x7FE8, 4, 0xBFFF0000), (0x7FEC, 4, 0x80000000), (0x7FF0, 4, 1), (0x7FF4, 4, 0)] (· = 0) := by
  decide +kernel

/-! ### Faults, traps that complete, events (42_floating_point R727, 90_conflicts C43, 20_memory R163, 70_reset_and_hazards
R1302, 10_state R87, 61_fp_exceptions R1262, 22_caches_bus R338) -/

theorem test_fmovem_fault_keeps_registers_loaded : gives
    (let s := st 0x2000 0x1000 [(8, 0x2FF4), (15, 0x8000)] 
       [(8, 4, 0x11111112), (0x2FF4, 4, 0x3FFF0000), (0x2FF8, 4, 0x80000000)]
     { s with mem := { s.mem with busErrors := [⟨0x3000, 0x3FFF, true, true⟩] } }) [0xF210, 0xD0C0] (fun t =>
    t.fpu.fp.r0 = ⟨false, 0x3FFF, 0x8000000000000000⟩ && t.fpu.fp.r1 = Fpr.resetNan && t.getA 7 = 0x7FC4) := by decide +kernel
theorem test_traced_trap_keeps_its_trace : gives (st 0xA000 0x1000 [(15, 0x8000)] [(0x80, 4, 0x2000)]) [0x4E40] (fun t =>
    t.pc = 0x2000 && t.trace = some 0x1000) := by decide +kernel
theorem test_moves_pushes_the_second_line : gives
    { lineState with ctl := { lineState.ctl with cacr := 0x80000000, sfc := 3 }, a := { lineState.a with a0 := 0x48C4E } }
    [0x0E90, 0] (fun t => t.mem.dcache = [] && t.valueAt 0x48C50 4 = 0x00112233 && t.getD 0 = 0) := by decide +kernel
theorem test_reset_inside_an_instruction : gives
    (let s := st 0x2000 0x1000 [(0, 7), (8, 0x2000)] [(0, 4, 0x8000), (4, 4, 0x400)]
     { s with mem := { s.mem with due := [(1, .reset 3)] } }) [0x2010] (fun t =>
    t.pc = 0x400 && t.a.isp = 0x8000 && t.modePins = 3 && t.getD 0 = 7) := by decide +kernel
theorem test_reset_inside_a_reset : gives
    (let s := st 0x2000 0x1000 [] [(0, 4, 0x8000), (4, 4, 0x400)]
     { s with inputs := [.reset 3], mem := { s.mem with due := [(3, .reset 5)] } }) [] (fun t =>
    t.pc = 0x400 && t.modePins = 5 && t.mem.struck.isNone && t.mem.due = [] && t.mem.pipe.length = 8) := by decide +kernel
theorem test_master_before_the_first_locked_cycle : gives
    (let s := st 0x2000 0x1000 [(8, 0x3000)] []
     { s with mem := { s.mem with due := [(1, .snoopWrite 0x3000 .byte 0 0x81)] } }) [0x4AD0] (fun t =>
    t.sr = 0x2008 && t.valueAt 0x3000 1 = 0x81) := by decide +kernel
theorem test_interrupt_level_needs_two_samples : gives { st 0x2000 0x1000 [] [] with
    inputs := [.interrupt 3 .auto, .interrupt 3 .auto] } [] (fun t =>
    t.ipl = 0 && (match step t with | .next u => u.ipl = 3 | _ => false)) := by decide +kernel
theorem test_only_fsqrt_maps : mappedCommand 0x0004 = 0x0005 ∧ mappedCommand 0x5C04 = 0x5C04 ∧ mappedCommand 0x6C04 = 0x6C04 := by
  decide +kernel
theorem test_snoop_invalidates_without_a_push : gives { lineState with inputs := [.snoopRead 0x48C50 .line 2] } []
    (fun t => t.mem.dcache = [] && t.valueAt 0x48C50 4 = 0) := by decide +kernel


/-! ### The privilege check (92_eei_decisions D31), prefetched words (10_state R89), CDIS (22_caches_bus R324) -/

/-- A user state with a supervisor stack. -/
def user : State := let s := st 0 0x1000 [] []; { s with a := { s.a with isp := 0x8000 } }

theorem test_privilege_before_illegal_mode : ([[0x46C8], [0x0E80, 0], [0xF300]] : List (List Word)).all (fun ws =>
    traps user ws 0x2000 0 0x7FF8 [0, 0, 0x1000, 0x0020]) = true := by decide +kernel
theorem test_prefetched_word_is_used : gives
    (let s := st 0x2000 0x1000 [] []
     { s with mem := { s.mem with pipe := [⟨0x1000, .word 0x1000 [0x70, 5]⟩] } }) [0x7007] (fun t =>
    t.getD 0 = 5 && t.mem.pipe = []) := by decide +kernel
theorem test_prefetched_fault_is_taken : gives
    (let s := st 0x2000 0x1000 [(15, 0x8000)] []
     { s with mem := { s.mem with
       ram := putBytes s.mem.ram 0 8 (toBytes 0x11111112 4), pipe := [⟨0x1000, .fault false⟩, ⟨0x1002, .fault false⟩] } }) [] (fun t =>
    t.getA 7 = 0x7FC4 && t.pc = 0x11111112 && (t.mem.pipe.map (·.la)).head? = some 0x11111110) := by decide +kernel
theorem test_prefetch_event : gives { st 0x2000 0x1000 [] [] with inputs := [.prefetch 0x1002 false] } [0x7005, 0x7007] (fun t =>
    t.mem.pipe = [⟨0x1000, .word 0x1000 [0x70, 5]⟩, ⟨0x1002, .word 0x1002 [0x70, 7]⟩]) := by decide +kernel
theorem test_exception_prefetches_the_handler : gives (st 0x2000 0x1000 [(15, 0x8000)] [(0x80, 4, 0x2002), (0x200C, 4, 0x12345678)])
    [0x4E40] (fun t => t.pc = 0x2002 && t.mem.pipe.map (·.la) = [0x2000, 0x2002, 0x2004, 0x2006, 0x2008, 0x200A, 0x200C, 0x200E] &&
    t.wordAt 0x200E = some 0x5678) := by decide +kernel
theorem test_reset_prefetches : State.reset.mem.pipe = handlerPipe [] 0 := by decide +kernel

/-- A supervisor state. -/
def sup : State := st 0x2000 0x1000 [(0, 7), (1, 2), (8, 0x3000), (9, 0x4000), (15, 0x8000)] [(0x3000, 4, 0x12345678)]

/-! ### A write fault behind a replacement push (60_exceptions R1096, R1099), MOVE16 on the bus (22_caches_bus R365), a store past
a line of a cache that is off (20_memory R195), BSUN (61_fp_exceptions R1261) -/

/-- Set 0 of the data cache full of dirty lines whose pushes end in TEA, as do writes to $3004. -/
def fullSet : State :=
  let s := st 0x2000 0x1000 [(8, 0x3000), (15, 0x8000)] [(0x108, 4, 0x11111112), (0x3000, 4, 0x11111111)]
  { s with
    ctl := { s.ctl with cacr := 0x80000000, vbr := 0x100 }
    mem := { s.mem with
      dcache := (List.range 4).map fun k => (k, ⟨BitVec.ofNat 22 (0x100 + k), 0, 15⟩)
      busErrors := [⟨0x3004, 0x3007, false, true⟩, ⟨0x40000, 0x40FFF, false, true⟩] } }

theorem test_bfchg_completes_behind_a_push : gives fullSet [0xEAD0, 0x0100] (fun t =>
    t.pc = 0x11111112 && t.valueAt 0x3000 4 = 0x1EEEEEEE && t.valueAt (t.getA 7 + 4) 2 = 0x1004) := by decide +kernel
theorem test_move16_shows_its_address : (sup.lineAccess 3).cycle.low = 3 ∧ (sup.lineAccess 0).cycle.low = 0 := by
  decide +kernel
theorem test_store_past_a_line_is_noted : gives { lineState with a := { lineState.a with a0 := 0x48C50 } } [0x20BC, 1, 2] (fun t =>
    t.valueAt 0x48C50 4 = 0x00010002 && t.mem.stale != []) := by decide +kernel
theorem test_bsun_has_no_e3 : gives
    (let s := st 0x2000 0x1000 [(15, 0x8000)] [(0xC0, 4, 0x2000)]
     { s with fpu := { s.fpu with fpcr := 0x8000, fpsr := 0x01000000 } }) [0xF291, 2] (fun t =>
    t.pc = 0x2000 && !t.fpu.frame.e3) := by decide +kernel
theorem test_cdis_between_two_lines : gives
    { lineState with
      ctl := { lineState.ctl with cacr := 0x80000000 }
      a := { lineState.a with a0 := 0x48C4E }
      mem := { lineState.mem with due := [(3, .pins true false)] } } [0x2010] (fun t =>
    t.getD 0 = 0 && t.mem.dcache.map (·.1) = [16, 22]) := by decide +kernel

/-! ### A snoop between two accesses of a cache (20_memory R175), the pushes before a locked sequence (20_memory R193), a packed
store of a restored frame (20_memory R156) -/

theorem test_snoop_between_two_hits : gives
    { lineState with
      ctl := { lineState.ctl with cacr := 0x80000000 }
      a := { lineState.a with a0 := 0x48C58 }
      mem := { lineState.mem with due := [(3, .snoopRead 0x48C50 .line 2)] } } [0x4CD0, 3] (fun t =>
    t.getD 0 = 0x8899AABB && t.getD 1 = 0) := by decide +kernel

/-- CAS2.L on two dirty lines, with what ends in TEA. -/
noncomputable def locked2 (es : List BusError) (p : State → Bool) : Bool := gives
  { lineState with
    ctl := { lineState.ctl with cacr := 0x80000000 }
    a := { lineState.a with a0 := 0x48C5C, a1 := 0x3000, isp := 0x8000 }
    mem := { lineState.mem with
      ram := putBytes lineState.mem.ram 0 8 (toBytes 0x11111112 4), busErrors := es
      dcache := lineState.mem.dcache ++ [(0, ⟨0x0C, 0x112233445566778899AABBCCDDEEFF00, 1⟩)] } }
  [0x0EFC, 0x8000, 0x9041] p
theorem test_locked_pushes_both_lines : locked2 [] (fun t => t.mem.dcache = [] &&
    t.getD 0 = 0xCCDDEEFF && t.getD 1 = 0x11223344) = true := by decide +kernel
theorem test_locked_pushes_come_first : locked2 [⟨0x3000, 0x3003, false, true⟩, ⟨0x48C5C, 0x48C5F, true, false⟩] (fun t =>
    t.pc = 0x11111112 && t.mem.dcache = []) = true := by decide +kernel
theorem test_packed_store_is_not_made : (match continueFp sup sup { FpuFrame.zero with cmd1 := 0x6C00, dest := 0x3000 } 1 with
    | .next t => t.pc = 0x1002 && t.valueAt 0x3000 4 = 0x12345678 | _ => false) = true := by decide +kernel

/-! ### A serialized page (20_memory R191), a packed destination (42_floating_point R692) -/

/-- RTE of an invalid frame in pages of a cache mode, a push waiting: the exec of an instruction in progress. -/
def returned (cm : Long) : Out :=
  let s := st 0x2000 0x1000 [(15, 0x8000)] [(0x38, 4, 0x11111110), (0x8004, 4, 0x11115111)]
  exec .rte { s with
    ctl := { s.ctl with dtt0 := 0x00FFC000 ||| cm }
    mem := { s.mem with pushFaults := [⟨0x5000, true, false, 0⟩] } }
/-- Whether the next state of an outcome has this pc, the push waiting still. -/
def reaches (pc : Long) (o : Out) : Bool := match o with | .next t => t.pc = pc && !t.mem.pushFaults.isEmpty | _ => false
theorem test_serialized_operand_is_not_read_twice : reaches 0x11111110 (returned 0x40) = true := by decide +kernel
theorem test_other_operand_may_be_read_again : reaches 0x1000 (returned 0x60) = true := by decide +kernel
/-- MOVE.L (A1),(A0) in pages of a cache mode, the destination in a dirty line whose push ends in TEA. -/
noncomputable def forced (cm : Long) (p : State → Bool) : Bool := gives
  (let s := st 0x2000 0x1000 [(8, 0x48C50), (9, 0x3000), (15, 0x8000)] [(8, 4, 0x11111112), (0x3000, 4, 0x12345678)]
   { s with
     ctl := { s.ctl with cacr := 0x80000000, dtt0 := 0x00FFC000 ||| cm }
     mem := { s.mem with dcache := lineState.mem.dcache, busErrors := [⟨0x48C5C, 0x48C5F, false, true⟩] } }) [0x2091] p
theorem test_forced_push_waits_after_a_serialized_read : forced 0x40 (fun t =>
    t.pc = 0x1002 && t.mem.pushFaults.length = 1 && t.valueAt 0x48C50 4 = 0x12345678) = true := by decide +kernel
theorem test_forced_push_aborts_otherwise : forced 0x60 (fun t =>
    t.pc = 0x11111112 && t.valueAt (t.getA 7 + 4) 1 = 0x10) = true := by decide +kernel
theorem test_two_pushes_wait : gives { fullSet with a := { fullSet.a with a1 := 0x5000 } } [0xB388] (fun t =>
    t.pc = 0x1002 && t.mem.pushFaults.length = 2) = true := by decide +kernel
theorem test_reset_reads_program_space : resetAccess.tm = 6 ∧ resetAccess.tt = 0 := by decide +kernel
theorem test_destination_code_7_is_packed : FpFmt.ofCode 7 = .p ∧ fmtBytes (.ofCode 7) = 12 := by decide +kernel

/-! ### The hypotheses of the statements are met -/

/-- `Flat` as a Bool. -/
def isFlat (s : State) : Bool :=
  !s.ctl.itt0.getLsbD 15 && !s.ctl.itt1.getLsbD 15 && !s.ctl.dtt0.getLsbD 15 && !s.ctl.dtt1.getLsbD 15 &&
  !s.ctl.tc.getLsbD 15 && !s.ctl.cacr.getLsbD 31 && !s.ctl.cacr.getLsbD 15 && s.mem.quiet && s.mem.pushFaults.isEmpty &&
  !s.mem.serialized

theorem flat_of {s : State} (h : isFlat s = true) : Flat s := by
  constructor <;> simp_all [isFlat]

theorem ready_of {s : State} (h : isFlat s = true) (e : s.pc.getLsbD 0 = false) : Ready s := ⟨flat_of h, e⟩

/-- A user state, and one with an odd pc. -/
def usr : State := { sup with sr := 0, a := { sup.a with usp := 0x6000 } }
def odd : State := { sup with pc := 0x1001 }

/-- Whether an outcome is a next state. -/
def isNext (o : Out) : Bool := match o with | .next _ => true | _ => false

theorem next_of {o : Out} (h : isNext o = true) : ∃ t, o = .next t := by
  cases o with
  | next t => exact ⟨t, rfl⟩
  | _ => cases h

/-- Whether the result of accesses is a fault of which `p` holds. -/
def isFail {α : Type} (p : AccessFault → State → Bool) (r : Res α) : Bool := match r with | .fail f u => p f u | _ => false

theorem failed_of {α : Type} {p : AccessFault → State → Bool} {r : Res α} (h : isFail p r = true) :
    ∃ f u, r = .fail f u ∧ p f u = true := by
  cases r with
  | fail f u => exact ⟨f, u, rfl, h⟩
  | ok => cases h

/-- `Reads` and `Evaluates` as Bools. -/
noncomputable def isRead (s : State) (z : Size) (ea : Ea) (pre : Nat) (l : Loc) (v : Long) (a : AddrRegs) : Bool :=
  match readEa s z ea pre s.pc with
  | .ok p u => decide (p = (l, v) ∧ u = { s with a := a })
  | _ => false

noncomputable def isEval (s : State) (ea : Ea) (n pre : Nat) (l : Loc) (a : AddrRegs) : Bool :=
  match evalEa s ea n (s.after pre) with
  | .ok p u => decide (p = l ∧ u = { s with a := a })
  | _ => false

theorem reads_of {s : State} {z : Size} {ea : Ea} {pre : Nat} {l : Loc} {v : Long} {a : AddrRegs}
    (h : isRead s z ea pre l v a = true) : Reads s z ea pre l v a := by
  unfold isRead at h
  split at h
  · next p u e => simp only [decide_eq_true_eq] at h; rw [Reads, e, h.1, h.2]
  · cases h

theorem evaluates_of {s : State} {ea : Ea} {n pre : Nat} {l : Loc} {a : AddrRegs}
    (h : isEval s ea n pre l a = true) : Evaluates s ea n pre l a := by
  unfold isEval at h
  split at h
  · next p u e => simp only [decide_eq_true_eq] at h; rw [Evaluates, e, h.1, h.2]
  · cases h

theorem ready_sup : Ready sup := ready_of (by decide +kernel) (by decide +kernel)
theorem ready_usr : Ready usr := ready_of (by decide +kernel) (by decide +kernel)

theorem wf_mem_sup : Memory.wf sup.mem := by decide +kernel

theorem witness_DecodeInvertsEncode : (Instr.addBEaDn 7 (.imm 0xFF)).wf = true ∧ (Instr.bcc 2 (.byte 0x7F)).wf = true ∧
    (Instr.tstL (.idx 7 (.full ⟨true, 7, true,
    3⟩ true false (.long 0xFFFFFFFF) (.post (.long 0xFFFFFFFF))))).wf = true := by
  decide +kernel

theorem witness_StepRunsTheDecodedInstruction :
    let s := load sup [0x007C, 0x0700]
    let u := load usr [0x4E71]
    (Ready s.started ∧ s.inputs = [] ∧ s.run = .normal ∧ s.trace = none ∧ s.interruptPending = false ∧ s.mem.stale = [] ∧
      s.wordAt (s.after 0) = some 0x007C ∧ s.wordAt (s.after 1) = some 0x0700 ∧ decode [0x007C] = .more ∧
      decode [0x007C, 0x0700] = .ok (.oriToSr 0x0700) [] ∧ s.super = true) ∧
    (Ready u.started ∧ Ready { u with mem := { u.mem with serialized := true } }.started ∧ u.inputs = [] ∧ u.run = .normal ∧ u.trace = none ∧ u.interruptPending = false ∧ u.mem.stale = [] ∧
      u.wordAt (u.after 0) = some 0x4E71 ∧ decode [0x4E71] = .ok .nop [] ∧ privilegedWord 0x4E71 = false) := by
  and_intros <;> first | decide +kernel | exact ready_of (by decide +kernel) (by decide +kernel)

theorem inv_nop : Inv (load State.reset [0x4E71]) :=
  ⟨by decide +kernel, by constructor <;> decide +kernel⟩

theorem witness_EveryStepKeepsTheInvariant :
    Inv (load State.reset [0x4E71]) ∧ ∃ t, step (load State.reset [0x4E71]) = .next t :=
  ⟨inv_nop, next_of (by decide +kernel)⟩

theorem witness_UserInstructionsLeaveTheSystemByte :
    usr.super = false ∧ (∃ t, exec .nop usr = .next t) ∧ ∃ t, exec (.trap 0) usr = .next t :=
  ⟨by decide +kernel, next_of (by decide +kernel), next_of (by decide +kernel)⟩

theorem witness_PrivilegedInstructionsTrapInUserState : Flat usr ∧ usr.super = false := ⟨ready_usr.flat,
    by decide +kernel⟩

theorem witness_TrapInstructionsTakeTheirException :
    Flat sup ∧ Ready sup ∧ sup.cond 0 = true ∧ sup.cond 1 = false ∧ srV sup.sr = false ∧
    Ready { sup with sr := 0xA002 } ∧ srV 0xA002 = true := by
  and_intros <;> first | decide +kernel | exact ready_of (by decide +kernel) (by decide +kernel) | exact flat_of (by decide +kernel)

theorem witness_OddAddressesAreAddressErrors :
    (Flat odd ∧ odd.inputs = [] ∧ odd.run = .normal ∧ odd.trace = none ∧ odd.interruptPending = false ∧
      odd.pc.getLsbD 0 = true) ∧
    Ready sup ∧ (branchTarget sup (brValue (.byte 1))).getLsbD 0 = true ∧ (Ea.absL 0x2001).wf .control 1 = true ∧
    Evaluates sup (.absL 0x2001) 0 1 (.mem 0x2001) sup.a ∧ (0x2001 : Long).getLsbD 0 = true ∧
    (let s := st 0x2000 0x1000 [(15, 0x8000)] [(0x8000, 4, 0x3001)]
     Ready s ∧ (s.valueAt (s.getA 7) 4).getLsbD 0 = true) ∧
    (let s := st 0x2000 0x1000 [(15, 0x8000)] [(0x8002, 4, 0x3001)]
     Ready s ∧ s.super = true ∧ (s.valueAt (s.getA 7 + 2) 4).getLsbD 0 = true ∧
      (s.valueAt (s.getA 7 + 6) 2).extractLsb' 12 4 = 0) ∧
    sup.cond 1 = false ∧ (sup.getD 0).extractLsb' 0 16 ≠ 0 ∧ sup.fpu.pending = none ∧ fpTruth 0 sup.fpu.fpsr = false :=
  by
  and_intros <;> first | decide +kernel | exact ready_of (by decide +kernel) (by decide +kernel) | exact flat_of (by decide +kernel) | exact evaluates_of (by decide +kernel)

theorem witness_TraceAndInterruptAtTheBoundary :
    (Ready { sup with sr := 0xA000 } ∧ (0xA000 : Word) &&& 0xC000 = 0x8000) ∧ sup.sr &&& 0xC000 = 0 ∧
    (Ready { sup with sr := 0xE000 } ∧ (0xE000 : Word) &&& 0xC000 = 0xC000) ∧
    (Ready { sup with sr := 0x6000 } ∧ (0x6000 : Word) &&& 0xC000 = 0x4000 ∧
      (branchTarget sup (brValue (.byte 2))).getLsbD 0 = false) ∧
    (Ready { sup with trace := some 0x1000 } ∧ sup.inputs = [] ∧ sup.run ≠ .halted) ∧
    (isFlat { sup with run := .halted } = true ∧ isFlat { sup with run := .stopped } = true ∧ sup.trace = none ∧
      sup.nmiLatch = false ∧ sup.ipl.toNat ≤ (sup.sr.extractLsb' 8 3).toNat) ∧
    ∀ p ∈ ([(0x2000, 1, false, .vector 0x40), (0x2600, 7, true, .auto), (0x3300, 4, false, .spurious),
        (0x3700, 7, true, .auto)] : List (Word × BitVec 3 × Bool × Iack)),
      let s := { sup with sr := p.1, ipl := p.2.1, nmiLatch := p.2.2.1, iack := p.2.2.2 }
      isFlat s = true ∧ s.inputs = [] ∧ s.run ≠ .halted ∧ s.trace = none ∧
      (s.nmiLatch = true ∨ (s.sr.extractLsb' 8 3).toNat < s.ipl.toNat) ∧ master s.sr = p.1.getLsbD 12 :=
  by
  and_intros <;> first | decide +kernel | exact ready_of (by decide +kernel) (by decide +kernel)

theorem witness_WordsThatAreNoInstructionTrap :
    (([0xA000, 0xAFFF, 0xF1C0, 0x4AFB] : List Word).all fun w =>
      sup.super && decide ((load sup [w]).wordAt sup.pc = some w) && isFlat (load sup [w])) = true ∧
    decode [0xA000] = .stop .aline ∧ decode [0xAFFF] = .stop .aline ∧ decode [0xF1C0] = .stop .fline ∧
    decode [0x4AFB] = .stop .illegal ∧ Ready sup ∧ sup.inputs = [] ∧ sup.run = .normal ∧ sup.trace = none ∧
    sup.interruptPending = false ∧ sup.mem.stale = [] ∧
    (∀ p ∈ ([([0xF200, 0x0005], .fline), ([0xD0B0, 0x0100], .illegal), ([0xF230, 0x4022, 0x0108], .illegal)] :
        List (List Word × Reject)),
      let s := load sup p.1
      isFlat s = true ∧ s.pc.getLsbD 0 = false ∧ p.1 ≠ [] ∧ p.1.length ≤ maxWords ∧ s.super = true ∧
      (∀ k (h : k < p.1.length), s.wordAt (s.after k) = some p.1[k]) ∧ decode (p.1.take 1) = .more ∧
      decode (p.1.take (p.1.length - 1)) = .more ∧ decode p.1 = .stop p.2) := by
  and_intros <;> first | decide +kernel | exact ready_of (by decide +kernel) (by decide +kernel)

/-- A state in which the system answers TEA from $3000 to $3FFF. -/
def noBus : State := { sup with mem := { sup.mem with busErrors := [⟨0x3000, 0x3FFF, true, true⟩] } }

/-- The same, a bus-errored push waiting. -/
def noBusPush : State := { noBus with mem := { noBus.mem with pushFaults := [⟨0x5000, true, false, 0⟩] } }

/-- The same, a serialized page read before. -/
def noBusSerial : State := { noBusPush with mem := { noBusPush.mem with serialized := true } }

theorem witness_ReadFaultLeavesTheRegisters :
    (∃ f u, readEa noBus .l (.ind 0) 1 0x1000 = .fail f u ∧ u.mem.pushFaults.isEmpty = true) ∧
    (∃ f u, readEa noBusPush .l (.ind 0) 1 0x1000 = .fail f u ∧ (!u.mem.pushFaults.isEmpty && !u.mem.serialized) = true) ∧
    (∃ f u, readEa noBusSerial .l (.ind 0) 1 0x1000 = .fail f u ∧ (!u.mem.pushFaults.isEmpty && u.mem.serialized) = true) ∧
    (Reads noBus .l (.dn 0) 1 (.d 0) 7 noBus.a ∧ evalEa noBus (.ind 0) 4 0x1000 = .ok (.mem 0x3000) noBus ∧
      ∃ f w, ({ noBus with sr := logicSr noBus.sr .l 7, pc := 0x1002 } : State).write ⟨0x3000, toBytes 7 4, noBus.access⟩ =
        .fail f w ∧ (f.push.isNone && w.mem.pushFaults.isEmpty) = true) ∧
    (Reads noBusPush .l (.dn 0) 1 (.d 0) 7 noBusPush.a ∧ evalEa noBusPush (.ind 0) 4 0x1000 = .ok (.mem 0x3000) noBusPush ∧
      ∃ f w, ({ noBusPush with sr := logicSr noBusPush.sr .l 7, pc := 0x1002 } : State).write
        ⟨0x3000, toBytes 7 4, noBusPush.access⟩ = .fail f w ∧ (f.push.isNone && !w.mem.pushFaults.isEmpty) = true) ∧
    noBus.sr &&& 0xC000 = 0 ∧ Flat sup ∧
    ∀ w ∈ [(⟨0x3001, [1, 2], sup.access⟩ : Write), ⟨0x3003, [1, 2, 3, 4], sup.access⟩], w.bytes.length ≤ 4 := by
  refine ⟨failed_of (p := fun _ u => u.mem.pushFaults.isEmpty) (by decide +kernel),
    failed_of (p := fun _ u => !u.mem.pushFaults.isEmpty && !u.mem.serialized) (by decide +kernel),
    failed_of (p := fun _ u => !u.mem.pushFaults.isEmpty && u.mem.serialized) (by decide +kernel),
    ⟨reads_of (by decide +kernel), rfl,
      failed_of (p := fun f w => f.push.isNone && w.mem.pushFaults.isEmpty) (by decide +kernel)⟩,
    ⟨reads_of (by decide +kernel), rfl,
      failed_of (p := fun f w => f.push.isNone && !w.mem.pushFaults.isEmpty) (by decide +kernel)⟩,
    by decide +kernel, ready_sup.flat, by decide +kernel⟩

theorem witness_ResetEventLoadsStackAndProgramCounter :
    let s := { sup with inputs := [.reset 3] }
    s.inputs = .reset 3 :: [] ∧ s.mem.quiet = true ∧ (s.valueAt 4 4).getLsbD 0 = false := ⟨rfl, rfl, by decide +kernel⟩

theorem witness_MoveCopiesTheSource : Ready sup ∧ Ready usr := ⟨ready_sup, ready_usr⟩

theorem witness_MovemMovesTheListedRegisters :
    Ready sup ∧ sup.movemEa = none ∧ (Ea.ind 0).wf .controlAlt 1 = true ∧ (Ea.pcDisp 4).wf .control 1 = true ∧
    Memory.wf sup.mem := ⟨ready_sup, rfl, by decide +kernel, by decide +kernel, wf_mem_sup⟩

theorem witness_MovepUsesEverySecondByte : Ready sup ∧ Memory.wf sup.mem := ⟨ready_sup, wf_mem_sup⟩

theorem witness_RegisterAndAddressMoves : Ready sup ∧ (Ea.ind 0).wf .control 1 = true := ⟨ready_sup, by decide +kernel⟩

theorem witness_StackFrameInstructions : Ready sup ∧ (Ea.absL 0x2000).wf .control 1 = true ∧ (6 : BitVec 3) ≠ 7 :=
  ⟨ready_sup, by decide +kernel, by decide +kernel⟩

theorem witness_Move16CopiesALine : Ready sup ∧ (0 : BitVec 3) ≠ 1 ∧ Memory.wf sup.mem := ⟨ready_sup,
    by decide +kernel, wf_mem_sup⟩

theorem witness_AddInstructionsAdd : Ready sup ∧ ∀ r, Ea.dn 0 ≠ .an r := ⟨ready_sup, fun _ => Ea.noConfusion⟩

theorem witness_SubtractInstructionsSubtract : Ready usr ∧ ∀ r, Ea.ind 0 ≠ .an r := ⟨ready_usr, fun _ => Ea.noConfusion⟩

theorem witness_ExtendedArithmeticUsesX : Ready sup ∧ Ready { sup with sr := 0x2010 } :=
  ⟨ready_sup, ready_of (by decide +kernel) (by decide +kernel)⟩

theorem witness_CompareInstructionsSetFlagsOnly : Ready sup := ready_sup

/-- Bounds 2 and 5 at $3000, D0 to D3 at and beyond them. -/
def bounds (d : Long) : State := st 0x2000 0x1000 [(0, d), (1, 5), (8, 0x3000)] [(0x3000, 4, 0x00020005)]

theorem witness_BoundsChecks :
    (Ready (bounds 2) ∧ (Ea.ind 0).wf .control 1 = true ∧ Evaluates (bounds 2) (.ind 0) 0 2 (.mem 0x3000) (bounds 2).a) ∧
    (([0, 5, 0xFFFF, 6] : List Long).all fun d => isFlat (bounds d)) = true ∧
    Reads (bounds 0) .w (.dn 1) 1 (.d 1) 5 (bounds 0).a ∧
    (0 ≤ signedAt .w 0 ∧ signedAt .w 5 ≤ 5) ∧ signedAt .w 0xFFFF < 0 ∧ signedAt .w 5 < signedAt .w 6 := by
  and_intros <;> first | decide +kernel | exact ready_of (by decide +kernel) (by decide +kernel) | exact evaluates_of (by decide +kernel) | exact reads_of (by decide +kernel)

theorem witness_WriteOnlyInstructions : Ready sup ∧ sup.super = true := ⟨ready_sup, by decide +kernel⟩

/-- CLR completes where a read of its operand ends in a bus error. -/
theorem test_clr_does_not_read :
    let u := { sup with mem := { sup.mem with busErrors := [⟨0x3000, 0x3003, true, false⟩] } }
    isFail (fun _ _ => true) (readEa u .w (.ind 0) 1 u.pc) = true ∧
    (match exec (.clrW (.ind 0)) u with | .next t => t.pc = 0x1002 && t.valueAt 0x3000 4 = 0x5678 | _ => false) = true := by
  decide +kernel

theorem witness_MultiplyInstructionsMultiply : Ready sup := ready_sup

/-- A dividend and a divisor. -/
def dividend (d0 d1 : Long) : State := st 0x2000 0x1000 [(0, d0), (1, d1)] []

theorem witness_DivideInstructionsDivide :
    isFlat (dividend 0x1FFFF 2) = true ∧ isFlat (dividend 0x20000 2) = true ∧ isFlat (dividend 9 0) = true ∧
    Reads (dividend 0x1FFFF 2) .w (.dn 1) 1 (.d 1) 2 (dividend 0x1FFFF 2).a ∧ (unsignedAt .w 2 : Int) ≠ 0 ∧
    Reads (dividend 9 0) .w (.dn 1) 1 (.d 1) 0 (dividend 9 0).a ∧
    Reads (dividend 0x80000000 0xFFFFFFFF) .l (.dn 1) 2 (.d 1) 0xFFFFFFFF (dividend 0x80000000 0xFFFFFFFF).a ∧
    unsignedAt .l 0xFFFFFFFF ≠ 0 ∧ (0x1FFFF : Int).tdiv 2 < 2 ^ 16 ∧ ¬ (0x20000 : Int).tdiv 2 < 2 ^ 16 := by
  and_intros <;> first | decide +kernel | exact reads_of (by decide +kernel)

theorem witness_LogicalInstructions : Ready sup := ready_sup

theorem witness_ShiftsAreRepeatedSingleShifts : 32 ∈ [8, 16, 32] ∧ 0xFFFFFFFF < 2 ^ 32 ∧ 8 ∈ [8, 16,
    32] ∧ 0 < 2 ^ 8 := by
  norm_num

theorem witness_ShiftInstructionsShift : Ready sup := ready_sup

theorem witness_BitInstructionsChangeOneBit : Ready sup := ready_sup

theorem witness_BitFieldsOfADataRegister : Ready sup ∧ fieldWidth sup ⟨false, 31, false, 0⟩ = 32 := ⟨ready_sup,
    by decide +kernel⟩

theorem witness_BitFieldsOfMemory : Ready sup ∧ (Ea.ind 0).wf .control 1 = true ∧ Memory.wf sup.mem :=
  ⟨ready_sup, by decide +kernel, wf_mem_sup⟩

theorem witness_DecimalInstructions : Ready sup ∧ isBcd 0x99 = true ∧ isBcd 0x00 = true ∧ (0x0F19 : Long).toNat % 16 ≤ 9 :=
  ⟨ready_sup, by decide +kernel, by decide +kernel, by decide +kernel⟩

theorem witness_BranchesAndJumps :
    Ready sup ∧ sup.cond 0 = true ∧ sup.cond 1 = false ∧ Ready { sup with d := sup.d.set 0 0 } ∧
    (sup.pc + 2 + 0x10).getLsbD 0 = false ∧ (Ea.ind 0).wf .control 1 = true ∧
    Evaluates sup (.ind 0) 0 1 (.mem 0x3000) sup.a ∧ (0x3000 : Long).getLsbD 0 = false ∧
    (({ sup with d := sup.d.set 0 0 } : State).getD 0).extractLsb' 0 16 - 1 = 0xFFFF ∧
    (sup.getD 0).extractLsb' 0 16 - 1 ≠ 0xFFFF := by
  and_intros <;> first | decide +kernel | exact ready_of (by decide +kernel) (by decide +kernel) | exact evaluates_of (by decide +kernel)

theorem witness_CallsAndReturns :
    Ready sup ∧ (sup.pc + 2 + 0x10).getLsbD 0 = false ∧ (Ea.ind 0).wf .control 1 = true ∧
    Evaluates sup (.ind 0) 0 1 (.mem 0x3000) sup.a ∧ (sup.valueAt (sup.getA 7) 4).getLsbD 0 = false ∧
    (sup.valueAt (sup.getA 7 + 2) 4).getLsbD 0 = false := by
  and_intros <;> first | decide +kernel | exact ready_of (by decide +kernel) (by decide +kernel) | exact evaluates_of (by decide +kernel)

theorem witness_StatusRegisterResetAndStop :
    Ready sup ∧ sup.super = true ∧ sup.sr &&& 0xC000 = 0 ∧ Ready { sup with sr := 0xA000 } ∧
    (0xA000 : Word) &&& 0xC000 = 0x8000 ∧ Ready { sup with sr := 0x6000 } ∧ (0x6000 : Word) &&& 0xC000 = 0x4000 := by
  and_intros <;> first | decide +kernel | exact ready_of (by decide +kernel) (by decide +kernel)

theorem witness_MovecMovesControlRegisters :
    Ready sup ∧ sup.super = true ∧ controlReg 0x801 = some .vbr ∧ controlReg 0x802 = none := by
  and_intros <;> first | decide +kernel | exact ready_of (by decide +kernel) (by decide +kernel)

theorem witness_MovesUsesTheFunctionCodes :
    Ready sup ∧ sup.super = true ∧ (Ea.post 0).wf .memAlt 1 = true ∧
    Ready { sup with ctl := { sup.ctl with sfc := 5, dfc := 7 } } := by
  and_intros <;> first | decide +kernel | exact ready_of (by decide +kernel) (by decide +kernel)

/-- A frame of a format on the stack at $8000, and one of format $0 above it. -/
def framed (f : Long) : State := st 0x2000 0x1000 [(15, 0x8000)]
  [(0x8000, 4, 0x20000000), (0x8004, 4, 0x20000000 + 0x1000 * f), (0x8008, 4, 0x20000000), (0x800C, 4, 0x20000000)]

/-- A frame of format $7 with a special status word. -/
def faulted (ssw : Long) : State := st 0x2000 0x1000 [(15, 0x8000)]
  [(0x8000, 4, 0x20000000), (0x8004, 4, 0x20007008), (0x8008, 4, 0x3000), (0x800C, 2, ssw)]

/-- The handler of the exception that a continued frame of `faulted` becomes. -/
def continuedHandler (v : BitVec 8) (f : BitVec 4) : Long :=
  ofBytes (getBytes (putBytes (faulted 0).mem.ram 0 0x8030 (frameBytes 0x2000 0x2000 f v (toBytes 0x3000 4))) 0
    ((faulted 0).ctl.vbr + 4 * v.zeroExtend 32) 4)

theorem witness_RteContinues : (continuedHandler 9 2).getLsbD 0 = false ∧ (continuedHandler 11 2).getLsbD 0 = false ∧
    (continuedHandler 50 3).getLsbD 0 = false := by
  and_intros <;> decide +kernel

theorem witness_RteRestoresTheFrame :
    (∀ p ∈ ([(0, 0), (1, 1), (2, 2), (3, 3), (7, 7), (4, 4), (15, 15)] : List (Long × Nat)),
      isFlat (framed p.1) = true ∧ (framed p.1).super = true ∧
      (((framed p.1).valueAt 0x8006 2).extractLsb' 12 4).toNat = p.2 ∧
      ((framed p.1).valueAt 0x8002 4).getLsbD 0 = false) ∧
    (∀ p ∈ ([(0, 0), (0x1000, 1), (0x2000, 2), (0x4000, 4), (0x8000, 8), (0x3000, 3)] : List (Long × Nat)),
      let s := faulted p.1
      isFlat s = true ∧ s.super = true ∧ ((s.valueAt 0x8006 2).extractLsb' 12 4).toNat = 7 ∧
      ((s.valueAt 0x800C 2).extractLsb' 12 4).toNat = p.2 ∧ (s.valueAt 0x8002 4).getLsbD 0 = false) ∧
    (((framed 1).valueAt 0x800E 2).extractLsb' 12 4).toNat = 0 ∧ ((framed 1).valueAt 0x800A 4).getLsbD 0 = false := by
  decide +kernel

theorem witness_CompareAndSwap :
    Ready sup ∧ (Ea.post 0).wf .memAlt 1 = true ∧
    (let z := Size.l
     let v := sup.valueAt (sup.getR 8) 4
     unsignedAt z v ≠ unsignedAt z (sup.getD 0) ∧
     unsignedAt z (sup.valueAt (sup.getR 9) 4) = unsignedAt z (sup.getD 2)) := by
  and_intros <;> first | decide +kernel | exact ready_of (by decide +kernel) (by decide +kernel)

/-- Two dirty lines of the data cache, in one set. -/
def twoLines : State :=
  { lineState with mem := { lineState.mem with
      dcache := lineState.mem.dcache ++ [(23, ⟨0x124, 0x112233445566778899AABBCCDDEEFF00, 8⟩)] } }

theorem test_cpusha_writes_every_dirty_line : gives twoLines [0xF478] (fun t => t.mem.dcache = [] &&
    t.valueAt 0x48C50 4 = 0x00112233 && t.valueAt 0x4905C 4 = 0xDDEEFF00) := by decide +kernel

theorem witness_CacheMaintenance :
    lineState.super = true ∧ lineState.pc.getLsbD 0 = false ∧ lineState.mem.pushFaults = [] ∧
    lineState.mem.quiet = true ∧ (lineState.mem.dcache.map (·.1)).Nodup ∧ (1 : BitVec 2).getLsbD 0 = true ∧
    (∃ x ∈ lineState.mem.dcache,
      (x.2.addr x.1 &&& 0xFFFFFFF0 == lineState.getA 0 &&& 0xFFFFFFF0) = true ∧ x.2.dirty.getLsbD 3 = true) ∧
    Memory.wf lineState.mem ∧
    (twoLines.super = true ∧ twoLines.pc.getLsbD 0 = false ∧ twoLines.mem.pushFaults = [] ∧ twoLines.mem.quiet = true ∧
      (twoLines.mem.dcache.map (·.1)).Nodup ∧ Memory.wf twoLines.mem ∧
      (∀ x ∈ twoLines.mem.dcache, ∀ y ∈ twoLines.mem.dcache, x.2.addr x.1 = y.2.addr y.1 → x = y) ∧
      (22, ⟨0x123, 0x00112233445566778899AABBCCDDEEFF, 15⟩) ∈ twoLines.mem.dcache ∧
      (23, ⟨0x124, 0x112233445566778899AABBCCDDEEFF00, 8⟩) ∈ twoLines.mem.dcache) := by
  and_intros <;> decide +kernel

theorem witness_PflushRemovesEntries :
    atcState.super = true ∧ atcState.pc.getLsbD 0 = false ∧ atcState.mem.pushFaults = [] := ⟨by decide +kernel,
    by decide +kernel, rfl⟩

/-- Tables with 4K pages whose descriptors are marked used and modified, the page writable, nothing protected. -/
def walked (d1 d3 : Long) : State :=
  let s := st 0x2000 0x1000 [(8, 0x00403120)] 
    [(0x10000, 4, d1), (0x11040, 4, 0x1200A), (0x12004, 4, d3), (0x1200C, 4, d3), (0x13000, 4, 0xABC001)]
  { s with ctl := { s.ctl with tc := 0, urp := 0x10000 } }

/-- An entry for user page $403120, M clear, and its key. -/
def unmodified (eightK : Bool) : Nat × AtcEntry :=
  (if eightK then 4 else 12, ⟨false, false, 0x40, 0xABC, false, false, false, 0, false, false, true⟩)

theorem witness_AddressTranslation :
    ((0x000FA004 : Long).getLsbD 15 = true ∧ (∀ k < 8, (0x000FA004 : Long).getLsbD (16 + k) = true ∨
      (0x0ABCDEF0 : Long).getLsbD (24 + k) = (0x000FA004 : Long).getLsbD (24 + k)) ∧ (0x000FA004 : Long).getLsbD 13 = true) ∧
    ∀ eightK ∈ [false, true], ∀ p ∈ ([(0x11002, 0xABC001, 1), (0x1100A, 0xABC099, 1), (0x1100A, 0xABC01D, 1),
        (0x11002, 0x13002, 2), (0, 0, 0)] : List (Long × Long × Nat)),
      let s := { walked p.1 p.2.1 with ctl := { (walked p.1 p.2.1).ctl with tc := if eightK then 0xC000 else 0x8000 } }
      ttrMatch s.ctl false 0x403120 false = none ∧ s.mem.mdis = false ∧ s.ctl.cacr.getLsbD 31 = false ∧
      s.mem.quiet = true ∧ s.mem.atc false = [] ∧
      (let x := unmodified eightK
        let m := { s.mem with datc := [x] }
        let names (e : AtcEntry) : Prop := e.fc2 = false ∧
          if eightK then e.la.extractLsb' 1 15 = (0x403120 : Long).extractLsb' 17 15 else e.la = (0x403120 : Long).extractLsb' 16 16
        m.quiet = true ∧ m.atc false = [x] ∧ tabGet (m.atc false) x.1 = some x.2 ∧ names x.2 ∧ x.2.r = true ∧
        x.2.w = false ∧ x.2.m = false ∧ x.1 / 4 = if eightK then ((0x403120 : Long).extractLsb' 13 4).toNat else ((0x403120 : Long).extractLsb' 12 4).toNat) ∧
      s.valueAt 0x10000 4 = p.1 ∧
      (p.2.2 ≠ 0 → s.valueAt (p.1.extractLsb' 9 23 ++ (0x403120 : Long).extractLsb' 18 7 ++ 0#2) 4 = 0x1200A ∧
        s.valueAt (if eightK then 0x12004 else 0x1200C) 4 = p.2.1 ∧
        (p.2.2 = 2 → s.valueAt 0x13000 4 = 0xABC001)) := by
  decide +kernel

theorem witness_PtestReportsInMmusr :
    (∀ p ∈ ([(0x1100A, 0), (0, 1)] : List (Long × Nat)),
      let d1 := p.1
      let s := walked d1 0xABC019
      isFlat s = true ∧ s.pc.getLsbD 0 = false ∧ s.super = true ∧ s.mem.iatc = [] ∧ s.mem.datc = [] ∧
      s.ctl.tc.getLsbD 14 = false ∧
      s.valueAt (s.ctl.urp.extractLsb' 9 23 ++ (s.getA 0).extractLsb' 25 7 ++ 0#2) 4 = d1) ∧
    (0 : Long).getLsbD 1 = false ∧
    (let s := { walked 0 0 with ctl := { (walked 0 0).ctl with dtt0 := 0x00FFC000 } }
     (ttrMatch s.ctl false (s.getA 0) (s.ctl.dfc.getLsbD 2)).isSome = true ∧ s.super = true ∧ s.mem.pushFaults = []) := by
  decide +kernel

/-- One half. -/
def half : Fpr := ⟨false, 0x3FFE, 0x8000000000000000⟩

theorem witness_RoundingIsCorrect :
    0 < (⟨0x18000000000000001, 0⟩ : Exact).n ∧ 0 < (⟨1, 0⟩ : Exact).n ∧ (1 : Nat) < 2 ^ Prec.single.bits ∧
    (⟨1, 0⟩ : Exact).value = (1 : Nat) * (2 : ℚ) ^ (0 : Int) := by
  refine ⟨by decide +kernel, by decide +kernel, by decide +kernel, ?_⟩
  norm_num [Exact.value]

theorem witness_FloatResultsHaveTheirValues :
    half.cls = .norm ∧ Fpr.zero.cls = .zero ∧ half.s = false ∧
    ({ half with s := !half.s } : Fpr).cls = .norm ∧ ({ half with s := !half.s } : Fpr).s = true ∧
    half.isNan = false ∧ Fpr.resetNan.isNan = true ∧ (⟨false, 0x7FFF, 1⟩ : Fpr).cls = .snan ∧
    ∀ s, (Fpr.infinity s).cls = .inf ∧ (Fpr.infinity s).s = s := by decide +kernel

theorem witness_FloatArithmeticInstructions :
    Ready sup ∧ sup.fpu.pending = none ∧ half.cls ≠ .denorm ∧ half.cls ≠ .unnorm := ⟨ready_sup, rfl,
    by decide +kernel, by decide +kernel⟩

theorem witness_FloatExceptionsOfOperations :
    (0 < (⟨1, -127⟩ : Exact).n ∧ (⟨1, -127⟩ : Exact).value < (2 : ℚ) ^ Prec.single.minExp) ∧
    (2 : ℚ) ^ Prec.single.minExp ≤ (⟨1, -126⟩ : Exact).value ∧
    (2 : ℚ) ^ Prec.single.maxExp ≤ (roundTo Prec.single.bits .rn false ⟨1, 128⟩).value ∧
    (roundTo Prec.single.bits .rn false ⟨1, 127⟩).value < (2 : ℚ) ^ Prec.single.maxExp ∧
    half.cls = .norm ∧ Fpr.zero.cls = .zero ∧ Fpr.resetNan.isNan = true ∧ half.isNan = false ∧
    (⟨true, 0x7FFF, 1⟩ : Fpr).cls = .snan ∧ (0x40 : BitVec 8).getLsbD 6 = true ∧ FpOp.add.dyadic = true ∧ FpOp.abs.dyadic = false ∧
    (Fpr.infinity true).cls = .inf ∧ (Fpr.infinity false).cls = .inf ∧ (Fpr.infinity true).s ≠ (Fpr.infinity false).s ∧
    ({ half with s := true } : Fpr).cls = .norm ∧ (0x20 : BitVec 8).getLsbD 5 = true ∧ (4 : BitVec 8).getLsbD 2 = true := by
  have h1 : (roundTo Prec.single.bits .rn false ⟨1, 128⟩) = ⟨128, 0x8000000000000000, false⟩ := by decide +kernel
  have h2 : (roundTo Prec.single.bits .rn false ⟨1, 127⟩) = ⟨127, 0x8000000000000000, false⟩ := by decide +kernel
  have h3 : BitVec.toNat (0x8000000000000000 : BitVec 64) = 2 ^ 63 := by decide +kernel
  rw [h1, h2]
  refine ⟨⟨by decide +kernel, ?_⟩, ?_, ?_, ?_, by decide +kernel⟩ <;>
    norm_num [Exact.value, Rounded.value, Prec.minExp, Prec.maxExp, zpow_neg, h3]

theorem witness_PendingFloatExceptionIsTaken :
    let s := { sup with fpu := { sup.fpu with pending := some 50 } }
    Flat s ∧ s.fpu.pending = some 50 := ⟨flat_of (by decide +kernel), rfl⟩

theorem witness_UnimplementedFloatInstructionsTrap : Ready sup ∧ sup.fpu.pending = none := ⟨ready_sup, rfl⟩

theorem witness_FloatStores :
    Ready sup ∧ sup.fpu.pending = none ∧ (Ea.ind 0).wf (FpFmt.dstModes .x) 1 = true ∧ (Ea.dn 0).wf (FpFmt.dstModes .l) 1 = true ∧
    (Ea.ind 0).wf .memAlt 1 = true ∧ half.cls ≠ .denorm ∧ half.cls ≠ .unnorm ∧
    (⟨false, 0, 1⟩ : Fpr).cls = .denorm ∧ reported (storeOf .s .rn half).exc 0 0x18 = none ∧
    reported (storeOf .s .rn ⟨false, 0x407F, 0x8000000000000000⟩).exc 0 0x18 = some 53 := by
  and_intros <;> first | decide +kernel | exact ready_of (by decide +kernel) (by decide +kernel)

/-- A value of each class, and magnitudes on both sides of 2^-126 and 2^128. -/
theorem witness_FloatStores_bits :
    Fpr.zero.cls = .zero ∧ (Fpr.infinity true).cls = .inf ∧ Fpr.resetNan.cls = .qnan ∧
    (⟨true, 0x7FFF, 0xA000000000000000⟩ : Fpr).cls = .snan ∧ half.cls = .norm ∧
    (⟨false, 0x3F80, 0x8000000000000000⟩ : Fpr).cls = .norm ∧
    |(⟨false, 0x3F80, 0x8000000000000000⟩ : Fpr).value| < (2 : ℚ) ^ (2 - (2 : Int) ^ (8 - 1)) ∧
    (2 : ℚ) ^ (2 - (2 : Int) ^ (8 - 1)) ≤ |(⟨false, 0x3F81, 0x8000000000000000⟩ : Fpr).value| ∧
    (⟨127, 0x8000000000000000, false⟩ : Rounded).value < (2 : ℚ) ^ ((2 : Int) ^ (8 - 1)) ∧
    (2 : ℚ) ^ ((2 : Int) ^ (8 - 1)) ≤ (⟨128, 0x8000000000000000, false⟩ : Rounded).value := by
  have h1 : (⟨false, 0x3F80, 0x8000000000000000⟩ : Fpr).lsbExp = -190 := by decide +kernel
  have h2 : (⟨false, 0x3F81, 0x8000000000000000⟩ : Fpr).lsbExp = -189 := by decide +kernel
  have h3 : BitVec.toNat (0x8000000000000000 : BitVec 64) = 2 ^ 63 := by decide +kernel
  refine ⟨by decide +kernel, by decide +kernel, by decide +kernel, by decide +kernel, by decide +kernel, by decide +kernel,
    ?_, ?_, ?_, ?_⟩ <;> norm_num [Fpr.value, h1, h2, Rounded.value, h3, zpow_neg]

/-- The fields of stored values: 1.5 (the spec's example), the NAN with the fraction 01 at its top made nonsignaling, minus
infinity, a zero. -/
theorem test_store_fields :
    (storeOf .s .rn ⟨false, 0x3FFF, 0xC000000000000000⟩).bits = some 0x3FC00000 ∧
    (storeOf .s .rn ⟨true, 0x7FFF, 0xA000000000000000⟩).bits = some 0xFFE00000 ∧
    (storeOf .d .rn (Fpr.infinity true)).bits = some 0xFFF0000000000000 ∧
    (storeOf .d .rn ⟨false, 0x3FFF, 0xC000000000000001⟩) = ⟨0x02, some 0x3FF8000000000000, .none, none⟩ := by decide +kernel

theorem witness_FloatToInteger :
    (∀ p ∈ [(FpFmt.b, 8), (.w, 16), (.l, 32)], p ∈ [(FpFmt.b, 8), (.w, 16), (.l, 32)]) ∧
    (⟨true, 0x4006, 0x8000000000000000⟩ : Fpr).cls = .norm ∧
    (2 : ℚ) ^ (8 - 1) ≤ |(⟨true, 0x4006, 0x8000000000000000⟩ : Fpr).value| ∧ half.cls = .norm ∧
    (storeOf .b .rn half).bits = some 0 ∧ (storeOf .b .rp half).bits = some 1 ∧ Fpr.zero.cls = .zero ∧
    (Fpr.infinity false).cls = .inf ∧ Fpr.resetNan.cls = .qnan ∧ (⟨true, 0x7FFF, 1⟩ : Fpr).cls = .snan := by
  have h : (⟨true, 0x4006, 0x8000000000000000⟩ : Fpr).lsbExp = -56 := by decide +kernel
  have h3 : BitVec.toNat (0x8000000000000000 : BitVec 64) = 2 ^ 63 := by decide +kernel
  refine ⟨fun p hp => hp, by decide +kernel, ?_, by decide +kernel⟩
  rw [Fpr.value, h]
  norm_num [zpow_neg, h3]

theorem witness_FloatControlRegisterMoves :
    Ready sup ∧ sup.fpu.pending = none ∧ (Ea.ind 0).wf 0x7FC 1 = true ∧ (Ea.ind 0).wf .memAlt 1 = true ∧ Memory.wf sup.mem :=
  ⟨ready_sup, rfl, by decide +kernel, by decide +kernel, wf_mem_sup⟩

theorem witness_FmovemMovesDataRegisters :
    Ready sup ∧ sup.fpu.pending = none ∧ (Ea.ind 0).wf .controlAlt 1 = true ∧ (Ea.post 0).wf .movemLoad 1 = true ∧
    Memory.wf sup.mem := ⟨ready_sup, rfl, by decide +kernel, by decide +kernel, wf_mem_sup⟩

/-- A NAN condition, with an FPCR. -/
def onNan (fpcr : Long) : State := { sup with fpu := { sup.fpu with fpsr := 0x01000000, fpcr := fpcr } }

theorem witness_FloatConditionals :
    (Ready sup ∧ sup.fpu.pending = none ∧ sup.fpu.fpsr.getLsbD 24 = false ∧ fpTruth 0 sup.fpu.fpsr = false ∧
      fpTruth 15 sup.fpu.fpsr = true ∧ (sup.getD 0).extractLsb' 0 16 - 1 ≠ 0xFFFF ∧
      (sup.getD 2).extractLsb' 0 16 - 1 = 0xFFFF ∧ (sup.pc + 2 + 0x10).getLsbD 0 = false) ∧
    Ready (onNan 0) ∧ Ready (onNan 0x8000) ∧ (onNan 0).fpu.pending = none ∧ (onNan 0x8000).fpu.pending = none ∧
    (18 : BitVec 5).getLsbD 4 = true ∧ (31 : BitVec 5).getLsbD 4 = true ∧ (0x01000000 : Long).getLsbD 24 = true ∧
    fpTruth 18 0x01000000 = false ∧ fpTruth 31 0x01000000 = true := by
  and_intros <;> first | decide +kernel | exact ready_of (by decide +kernel) (by decide +kernel)

/-- The first long word of a state frame at $3000: a version, a size. -/
def saved (version size : Byte) : State :=
  { sup with mem := { sup.mem with ram := [(0x3000, version), (0x3001, size)] } }

theorem flat_saved (v z : Byte) : isFlat (saved v z) = true := by
  have h : isFlat sup = true := by decide +kernel
  exact h

theorem witness_FloatStateFrames :
    Ready sup ∧ sup.super = true ∧ (Ea.pre 0).wf .movemStore 1 = true ∧ (Ea.post 0).wf .movemLoad 1 = true ∧
    Evaluates (saved 0 0) (.post 0) 0 1 (.mem 0x3000) sup.a ∧
    (∀ v z : Byte, isFlat (saved v z) = true ∧ ((saved v z).valueAt 0x3000 4).extractLsb' 24 8 = v ∧
      ((saved v z).valueAt 0x3000 4).extractLsb' 16 8 = z) ∧
    Config.fpuVersion ≠ 0 ∧ (0x41#8 ∉ [0x00#8, 0x28#8, 0x60#8]) ∧
    FpFmt.ofCode ((0x6000 : Word).extractLsb' 10 3) ≠ .p ∧ FpFmt.ofCode ((0x6C00 : Word).extractLsb' 10 3) = .p ∧
    (∀ p ∈ ([(0x0422, 0), (0x6000, 3), (0x6C00, 3), (0x0001, 0)] : List (Word × Nat)),
      let f := { FpuFrame.zero with cmd1 := p.1, cuSavePc := Config.cuSavePcContinue }
      f.e1 = false ∧ f.e3 = false ∧ f.cuSavePc = Config.cuSavePcContinue ∧ (f.cmd1.extractLsb' 13 3).toNat = p.2) ∧
    fpOpOf 0x22 = some (.add, none) ∧ fpOpOf 0x01 = none := by
  have version : Config.fpuVersion ≠ 0 := by
    have h := Config.fpuVersionLessOne.isLt
    intro e
    have := congrArg BitVec.toNat e
    simp [Config.fpuVersion] at this
    omega
  refine ⟨ready_sup, by decide +kernel, by decide +kernel, by decide +kernel, evaluates_of (by decide +kernel),
    fun v z => ⟨flat_saved v z, ?_, ?_⟩, version, by decide +kernel, by decide +kernel, by decide +kernel, ?_,
    by decide +kernel⟩
  iterate 2
    simp [saved, State.valueAt, State.bytesAt, getBytes, cellGet, ofBytes]
    (apply BitVec.eq_of_getLsbD_eq; intro i hi; interval_cases i <;> simp [unlisted])
  · simp [FpuFrame.zero]

/-- Both caches on. -/
def cacheOn : Control := { lineState.ctl with cacr := 0x80008000 }

/-- The line of `lineState` in the instruction cache, clean. -/
def codeLine : MemSys := { bare with icache := [(22, ⟨0x123, 0x00112233445566778899AABBCCDDEEFF, 0⟩)] }

theorem witness_CacheAccessesAndSnoops :
    cacheOn.dcacheOn lineState.mem = true ∧ lineState.mem.quiet = true ∧ lineState.mem.inhibit = [] ∧ lineState.mem.pushFaults = [] ∧
    lineOffset 0x48C5E + 2 ≤ 16 ∧ lineOffset 0x3000 + 16 ≤ 16 ∧
    (findLine lineState.mem.dcache 0x48C5E).isSome = true ∧ findLine lineState.mem.dcache 0x3000 = none ∧
    freeWay lineState.mem.dcache (cacheSet 0x3000) = some 0 ∧ freeWay lineState.mem.dcache (cacheSet 0x10050) = some 0 ∧
    (∀ x, findLine lineState.mem.dcache 0x48C5E = some x → x.2.dirty ≠ 0) ∧ BusSize.long.align 0x48C5C = 0x48C5C ∧
    cacheOn.icacheOn codeLine = true ∧ codeLine.quiet = true ∧ codeLine.inhibit = [] ∧
    (findLine codeLine.icache 0x48C5E).isSome = true ∧ findLine codeLine.icache 0x3000 = none ∧
    freeWay codeLine.icache (cacheSet 0x3000) = some 0 := by
  decide +kernel

end Sys2Proof.Tests
end

section
/-! PROOFS. What an instruction of a program can and cannot change of what the invariants speak of: the control registers, the
system byte, the reserved bits and the form of memory. Each shared operation is treated once, for every property of states that
such changes leave alone; the invariant (10_state R60 to R76) and the bounds on user instructions (R60, R62) are two of them. -/

namespace Sys2Proof.Machine

/-! ### Bits of a word under a mask -/

theorem and_eq_of_and_eq {n : Nat} {x y k m : BitVec n} (h : x &&& k = y &&& k) (hm : k &&& m = m) :
    x &&& m = y &&& m := by
  rw [← hm, ← BitVec.and_assoc, ← BitVec.and_assoc, h]

theorem and_and_eq_zero {n : Nat} (v : BitVec n) {a b : BitVec n} (h : a &&& b = 0) : v &&& a &&& b = 0 := by
  rw [BitVec.and_assoc, h]
  exact BitVec.and_zero

/-- Words that agree on the bits of a mask. -/
theorem and_eq_of_bits {n : Nat} {x y m : BitVec n} (h : ∀ k, m.getLsbD k = true → x.getLsbD k = y.getLsbD k) :
    x &&& m = y &&& m := by
  apply BitVec.eq_of_getLsbD_eq
  intro k _
  rw [BitVec.getLsbD_and, BitVec.getLsbD_and]
  cases hk : m.getLsbD k
  · rw [Bool.and_false, Bool.and_false]
  · rw [h k hk]

/-- The bits of a mask lie where a check of all its bits says that they do. -/
theorem range_of_bit {n : Nat} {m : BitVec n} {p : Nat → Prop} [DecidablePred p] {k : Nat} (hk : m.getLsbD k = true)
    (h : ∀ k < n, m.getLsbD k = true → p k) : p k :=
  h k (BitVec.lt_of_getLsbD hk) hk

/-! ### What a program can do without an exception -/

/-- From `s` to `t` nothing has changed that the invariants speak of, but for CCR and what keeps the canonical form of memory
and the reserved bits zero. -/
structure Keeps (s t : State) : Prop where
  ctl : t.ctl = s.ctl
  system : t.sr &&& 0xFF00 = s.sr &&& 0xFF00
  low : s.sr &&& 0x00E0 = 0 → t.sr &&& 0x00E0 = 0
  fpcr : s.fpu.fpcr &&& 0xFFFF000F = 0 → t.fpu.fpcr &&& 0xFFFF000F = 0
  mem : Memory.wf s.mem → Memory.wf t.mem

/-- A property of states that a program cannot end by itself: it survives every change that `Keeps` allows, the entry of an
exception, and the restoring of an earlier state's registers over later memory or a later FPU. -/
structure Stable (P : State → Prop) : Prop where
  keeps : ∀ {s t : State}, P s → Keeps s t → P t
  enters : ∀ {s : State}, P s → P { s with sr := enterSupervisor s.sr }
  withMem : ∀ {s u : State}, P s → P u → P { s with mem := u.mem }
  withFpu : ∀ {s u : State}, P s → P u → P { s with fpu := u.fpu }

/-- The reserved bits of the control registers are zero (10_state R67 to R71). -/
structure Control.Clean (c : Control) : Prop where
  cacr : c.cacr &&& 0x7FFF7FFF = 0
  tc : c.tc &&& 0x3FFF = 0
  itt0 : c.itt0 &&& 0x00001C9B = 0
  itt1 : c.itt1 &&& 0x00001C9B = 0
  dtt0 : c.dtt0 &&& 0x00001C9B = 0
  dtt1 : c.dtt1 &&& 0x00001C9B = 0
  urp : c.urp &&& 0x1FF = 0
  srp : c.srp &&& 0x1FF = 0
  mmusr : c.mmusr &&& 8 = 0

/-- A property of states that the privileged instructions keep too: it survives every value of the SR and of the control
registers that does not set a reserved bit. -/
structure Supervised (P : State → Prop) : Prop where
  sr : ∀ {s : State} {v : Word}, P s → (s.sr &&& 0x08E0 = 0 → v &&& 0x08E0 = 0) → P { s with sr := v }
  ctl : ∀ {s : State} {c : Control}, P s → (s.ctl.Clean → c.Clean) → P { s with ctl := c }

/-- The next state, if there is one, has the property. -/
def NextIs (P : State → Prop) (o : Out) : Prop := ∀ t, o = .next t → P t

/-- The state has the property whether the access was made or has faulted. -/
def Res.All {α : Type} (P : State → Prop) : Res α → Prop
  | .ok _ s => P s
  | .fail _ s => P s

/-- The state has the property whether all writes were made or one has faulted. -/
def Written.All (P : State → Prop) : Written → Prop
  | .all s => P s
  | .fault _ _ _ s => P s

/-- The state has the property however the fetch of an instruction ended. -/
def Fetched.All (P : State → Prop) : Fetched → Prop
  | .instr _ s => P s
  | .reject _ s => P s
  | .privileged s => P s
  | .fault _ s => P s
  | .tooLong => True

variable {P : State → Prop} {s s0 : State}

theorem nextIs_next {t : State} (h : P t) : NextIs P (.next t) := by
  rintro _ ⟨⟩
  exact h

theorem nextIs_refused {r : Refusal} : NextIs P (.refused r) := fun _ e => by cases e

theorem Res.All.bind {α β : Type} {r : Res α} {k : α → State → Res β} (h : r.All P)
    (hk : ∀ a s, P s → (k a s).All P) : (r.bind k).All P := by
  cases r with
  | ok a s => exact hk a s h
  | fail f s => exact h

/-- A state that differs in no field that the invariants speak of, and keeps the canonical form of memory. -/
theorem Stable.frame (hP : Stable P) (h : P s) {t : State} (hk : t.ctl = s.ctl ∧ t.sr = s.sr ∧ t.fpu.fpcr = s.fpu.fpcr)
    (hm : Memory.wf s.mem → Memory.wf t.mem) : P t := by
  obtain ⟨hc, hs, hf⟩ := hk
  exact hP.keeps h ⟨hc, by rw [hs], by rw [hs]; exact id, by rw [hf]; exact id, hm⟩

/-- A change of the condition codes only. -/
theorem Stable.ccr (hP : Stable P) (h : P s) {v : Word} (hv : ∀ k, 5 ≤ k → v.getLsbD k = s.sr.getLsbD k) :
    P { s with sr := v } :=
  hP.keeps h ⟨rfl, and_eq_of_bits fun k hk => hv k (range_of_bit hk (by decide)),
    fun h0 => (and_eq_of_bits fun k hk => hv k (range_of_bit hk (by decide))).trans h0, id, id⟩

/-! ### Registers and flags -/

theorem setA_stable (hP : Stable P) (h : P s) (n : BitVec 3) (v : Long) : P (s.setA n v) := hP.frame h ⟨rfl, rfl, rfl⟩ id

theorem setD_stable (hP : Stable P) (h : P s) (n : BitVec 3) (v : Long) : P (s.setD n v) := hP.frame h ⟨rfl, rfl, rfl⟩ id

theorem setDz_stable (hP : Stable P) (h : P s) (z : Size) (n : BitVec 3) (v : Long) : P (s.setDz z n v) :=
  hP.frame h ⟨rfl, rfl, rfl⟩ id

theorem setR_stable (hP : Stable P) (h : P s) (n : BitVec 4) (v : Long) : P (s.setR n v) := by
  unfold State.setR
  split
  · exact setA_stable hP h _ v
  · exact setD_stable hP h _ v

theorem draw_stable (hP : Stable P) (h : P s) (w : Nat) : P (s.draw w).2 := hP.frame h ⟨rfl, rfl, rfl⟩ id

theorem setXNZVC_stable (hP : Stable P) (h : P s) (x n z v c : Bool) : P (s.setXNZVC x n z v c) :=
  hP.ccr h (setXNZVC_high s x n z v c)

theorem setNZVC_stable (hP : Stable P) (h : P s) (n z v c : Bool) : P (s.setNZVC n z v c) := setXNZVC_stable hP h _ n z v c

theorem setLogic_stable (hP : Stable P) (h : P s) (z : Size) (r : Long) : P (s.setLogic z r) := setNZVC_stable hP h _ _ _ _

theorem setZ_stable (hP : Stable P) (h : P s) (z : Bool) : P (s.setZ z) := setNZVC_stable hP h _ _ _ _

theorem setCompare_stable (hP : Stable P) (h : P s) (z : Size) (t : Sum) : P (s.setCompare z t) := setNZVC_stable hP h _ _ _ _

/-- The bits of the SR that a write of CCR makes. -/
theorem setCcr_bit (v : Word) (k : Nat) (hk : 5 ≤ k) :
    (s.setCcr v).sr.getLsbD k = if k < 8 then false else s.sr.getLsbD k := by
  show (s.sr.extractLsb' 8 8 ++ 0#3 ++ v.extractLsb' 0 5 : Word).getLsbD k = _
  simp only [BitVec.getLsbD_append, if_neg (show ¬ k < 5 by omega), BitVec.getLsbD_extractLsb', BitVec.getLsbD_zero]
  rcases Nat.lt_or_ge k 8 with h8 | h8
  · simp [h8, show k - 5 < 3 by omega]
  · rcases Nat.lt_or_ge k 16 with h16 | h16
    · simp [show ¬ k < 8 by omega, show ¬ k - 5 < 3 by omega, show k - 5 - 3 < 8 by omega, show 8 + (k - 5 - 3) = k by omega]
    · simp [show ¬ k < 8 by omega, show ¬ k - 5 < 3 by omega, show ¬ k - 5 - 3 < 8 by omega, BitVec.getLsbD_of_ge _ _ h16]

/-- Writing CCR keeps the system byte and clears the reserved bits beside it. -/
theorem setCcr_stable (hP : Stable P) (h : P s) (v : Word) : P (s.setCcr v) := by
  have high : ∀ k, 8 ≤ k → (s.setCcr v).sr.getLsbD k = s.sr.getLsbD k := fun k hk => by
    rw [setCcr_bit v k (by omega), if_neg (by omega)]
  have low : ∀ k, 5 ≤ k ∧ k < 8 → (s.setCcr v).sr.getLsbD k = (0#16).getLsbD k := fun k hk => by
    rw [setCcr_bit v k hk.1, if_pos hk.2, BitVec.getLsbD_zero]
  exact hP.keeps h ⟨rfl, and_eq_of_bits fun k hk => high k (range_of_bit hk (by decide)),
    fun _ => (and_eq_of_bits fun k hk => low k (range_of_bit (p := fun k => 5 ≤ k ∧ k < 8) hk (by decide))).trans rfl,
    id, id⟩

end Sys2Proof.Machine
end

section
/-! PROOFS. The shared operations keep every stable property: accesses, operands, exceptions, the end of an instruction. -/

namespace Sys2Proof.Machine

variable {P : State → Prop} {s s0 : State}

/-! ### Accesses -/

/-- An access changes memory only, and keeps its canonical form. -/
theorem lift_stable {α : Type} (hP : Stable P) (h : P s) {r : MRes α} (hr : Memory.wf s.mem → Memory.wf r.mem) :
    (s.lift r).All P := by
  cases r with
  | ok a m => exact hP.frame h ⟨rfl, rfl, rfl⟩ hr
  | fail f m => exact hP.frame h ⟨rfl, rfl, rfl⟩ hr

theorem readVia_stable (hP : Stable P) (h : P s) (a : Access) (la : Long) (n : Nat) : (s.readVia a la n).All P :=
  (lift_stable hP h dataRead_wf).bind fun _ _ h => h

theorem read_stable (hP : Stable P) (h : P s) (la : Long) (n : Nat) : (s.read la n).All P := readVia_stable hP h _ la n

theorem readLocked_stable (hP : Stable P) (h : P s) (la : Long) (n : Nat) : (s.readLocked la n).All P :=
  readVia_stable hP h _ la n

theorem beginLocked_stable (hP : Stable P) (h : P s) (l : List (Long × Nat)) : (s.beginLocked l).All P :=
  lift_stable hP h lockedBegin_wf

theorem write_stable (hP : Stable P) (h : P s) (w : Write) : (s.write w).All P := lift_stable hP h dataWrite_wf

theorem writeAll_stable (hP : Stable P) : ∀ (ws : List Write) {s : State}, P s → (writeAll s ws).All P
  | [], _, h => h
  | w :: ws, s, h => by
    have hw := write_stable hP h w
    unfold writeAll
    split <;> (rename_i e; rw [e] at hw)
    · exact writeAll_stable hP ws hw
    · exact hw

/-! ### Operands -/

theorem indexedEa_stable (hP : Stable P) (h : P s) (base : Long) (x : IndexExt) : (indexedEa s base x).All P := by
  unfold indexedEa
  split
  · exact h
  · extract_lets b i
    split
    · exact h
    · exact (read_stable hP h _ 4).bind fun _ _ h => h
    · exact (read_stable hP h _ 4).bind fun _ _ h => h

theorem evalEa_stable (hP : Stable P) (h : P s) (e : Ea) (n : Nat) (pcv : Long) : (evalEa s e n pcv).All P := by
  cases e with
  | dn r => exact h
  | an r => exact h
  | ind r => exact h
  | post r => exact setA_stable hP h r _
  | pre r => exact setA_stable hP h r _
  | disp r d => exact h
  | idx r x => exact (indexedEa_stable hP h _ x).bind fun _ _ h => h
  | absW a => exact h
  | absL a => exact h
  | pcDisp d => exact h
  | pcIdx x => exact (indexedEa_stable hP h _ x).bind fun _ _ h => h
  | imm v => exact h

theorem controlEa_stable (hP : Stable P) (h : P s) (e : Ea) (pcv : Long) : (controlEa s e pcv).All P :=
  (evalEa_stable hP h e 0 pcv).bind fun _ _ h => h

theorem readLoc_stable (hP : Stable P) (h : P s) (z : Size) (l : Loc) : (readLoc s z l).All P := by
  cases l with
  | d n => exact h
  | a n => exact h
  | mem a => exact read_stable hP h a _
  | imm v => exact h

theorem readEa_stable (hP : Stable P) (h : P s) (z : Size) (e : Ea) (pre : Nat) (pc : Long) :
    (readEa s z e pre pc).All P :=
  (evalEa_stable hP h e _ _).bind fun l _ h => (readLoc_stable hP h z l).bind fun _ _ h => h

theorem putLoc_stable (hP : Stable P) (h : P s) (z : Size) (l : Loc) (v : Long) : P (putLoc s z l v).1 := by
  cases l with
  | d n => exact setDz_stable hP h z n v
  | a n => exact setA_stable hP h n _
  | mem a => exact h
  | imm v => exact h

/-! ### Taking an exception -/

theorem halt_stable (hP : Stable P) (h : P s) : P s.halt := hP.frame h ⟨rfl, rfl, rfl⟩ id

theorem started_stable (hP : Stable P) (h : P s) : P s.started := hP.frame h ⟨rfl, rfl, rfl⟩ id

theorem fillPipe_stable (hP : Stable P) (h : P s) : P s.fillPipe :=
  hP.frame h ⟨rfl, rfl, rfl⟩ (fun hm => prefetchRow_wf (refill_wf hm))

theorem writeFields_stable (hP : Stable P) (base : Long) : ∀ (fs : List Field) {s : State}, P s →
    (writeFields s base fs).All P
  | [], _, h => h
  | f :: fs, s, h => by
    unfold writeFields
    split
    · exact h
    · exact (write_stable hP h _).bind fun _ _ h => writeFields_stable hP base fs h

theorem pushFrame_stable (hP : Stable P) (h : P s) (sr : Word) (spc : Long) (format : BitVec 4) (vector : BitVec 8)
    (extra : List Field) : (pushFrame s sr spc format vector extra).All P :=
  writeFields_stable hP _ _ (setA_stable hP h 7 _)

theorem enterVector_stable (hP : Stable P) (h : P s) (vector : BitVec 8) : P (enterVector s vector) := by
  have hr := readVia_stable hP h frameAccess (s.ctl.vbr + 4 * vector.zeroExtend 32) 4
  unfold enterVector
  split <;> (rename_i e; rw [e] at hr)
  · exact halt_stable hP hr
  · split
    · exact hP.frame hr ⟨rfl, rfl, rfl⟩ id
    · exact fillPipe_stable hP (hP.frame hr ⟨rfl, rfl, rfl⟩ id)

/-- Taking an exception keeps a stable property, also where it ends in a double bus fault. -/
theorem takeException_stable (hP : Stable P) (h : P s) (vector : BitVec 8) (format : BitVec 4) (spc : Long)
    (extra : List Field) : P (takeException s vector format spc extra) := by
  have hf : (pushFrame { s.started with sr := enterSupervisor s.sr } s.sr spc format vector extra).All P :=
    pushFrame_stable hP (hP.enters (started_stable hP h)) s.sr spc format vector extra
  unfold takeException
  split <;> (rename_i e; rw [e] at hf)
  · exact halt_stable hP hf
  · exact enterVector_stable hP hf vector

theorem trap0_stable (hP : Stable P) (h : P s) (vector : BitVec 8) (spc : Long) : P (trap0 s vector spc) :=
  takeException_stable hP h vector 0 spc []

theorem trap2_stable (hP : Stable P) (h : P s) (vector : BitVec 8) (spc addr : Long) : P (trap2 s vector spc addr) :=
  takeException_stable hP h vector 2 spc _

theorem trap3_stable (hP : Stable P) (h : P s) (vector : BitVec 8) (spc ea : Long) : P (trap3 s vector spc ea) :=
  takeException_stable hP h vector 3 spc _

theorem addressError_stable (hP : Stable P) (h : P s) (pc target : Long) : P (addressError s pc target) :=
  trap2_stable hP h 3 pc _

theorem accessError_stable (hP : Stable P) (h : P s) (f : AccessFault) (i : FaultInfo) (spc : Long) :
    P (accessError s f i spc) :=
  takeException_stable hP (by exact hP.frame h ⟨rfl, rfl, rfl⟩ id) 2 7 spc _

/-- A privileged instruction keeps a stable property if it does so in supervisor state. -/
theorem ifSupervisor_stable (hP : Stable P) (h : P s) {body : Out} (hb : s.super = true → NextIs P body) :
    NextIs P (ifSupervisor s body) := by
  unfold ifSupervisor
  split
  · rename_i hs
    exact hb hs
  · exact nextIs_next (trap0_stable hP h 8 s.pc)

/-! ### Aborting and completing an instruction -/

theorem restart_stable (hP : Stable P) (h0 : P s0) (h : P s) : NextIs P (restart s0 s.mem) := nextIs_next (hP.withMem h0 h)

theorem abort_stable (hP : Stable P) (h0 : P s0) (h : P s) (f : AccessFault) : NextIs P (abort s0 s f) := by
  unfold abort
  split
  · exact restart_stable hP h0 h
  · exact nextIs_next (accessError_stable hP (hP.withMem h0 h) f _ _)

theorem abortWrite_stable (hP : Stable P) (h0 : P s0) (h : P s) (f : AccessFault) (w : Write) :
    NextIs P (abortWrite s0 s f w) := by
  unfold abortWrite
  split
  · exact restart_stable hP h0 h
  · exact nextIs_next (accessError_stable hP (hP.withMem h0 h) f _ _)

theorem orAbort_stable {α : Type} (hP : Stable P) (h0 : P s0) {r : Res α} {k : α → State → Out} (hr : r.All P)
    (hk : ∀ a s, P s → NextIs P (k a s)) : NextIs P (orAbort s0 r k) := by
  cases r with
  | ok a s => exact hk a s hr
  | fail f s => exact abort_stable hP h0 hr f

theorem settleTrace_stable (hP : Stable P) (h : P s) (s0 : State) (flow : Bool) : P (s0.settleTrace s flow) := by
  refine hP.frame h ⟨rfl, rfl, rfl⟩ (fun hm => ?_)
  unfold State.settleTrace
  split <;> exact hm

theorem endInstrEa_stable (hP : Stable P) (h : P s) (s0 : State) (flow : Bool) (ea : Option Long) :
    P (endInstrEa s0 s flow ea) := by
  have ht := settleTrace_stable hP h s0 flow
  unfold endInstrEa
  extract_lets t u
  split
  · exact addressError_stable hP ht _ _
  · have hu : P u := hP.frame ht ⟨rfl, rfl, rfl⟩ id
    split
    · exact hP.frame hu ⟨rfl, rfl, rfl⟩ id
    · exact hu

theorem writeFault_stable (hP : Stable P) (h : P s) (f : AccessFault) (i : FaultInfo) : P (writeFault s f i) := by
  unfold writeFault
  split
  · split
    · exact accessError_stable hP (by exact hP.frame h ⟨rfl, rfl, rfl⟩ id) _ i _
    · exact accessError_stable hP h f i _
  · exact accessError_stable hP h f i _

theorem complete_stable (hP : Stable P) (h0 : P s0) (h : P s) (ws : List Write) (flow : Bool) :
    NextIs P (complete s0 s ws flow) := by
  have hw := writeAll_stable hP ws h
  unfold complete
  split <;> (rename_i e; rw [e] at hw)
  · exact nextIs_next (endInstrEa_stable hP hw s0 flow none)
  · split
    · exact nextIs_next (writeFault_stable hP (settleTrace_stable hP hw s0 flow) _ _)
    · exact abortWrite_stable hP h0 hw _ _

theorem completeOrAbort_stable (hP : Stable P) (h0 : P s0) (h : P s) (ws : List Write) (flow : Bool) :
    NextIs P (completeOrAbort s0 s ws flow) := by
  have hw := writeAll_stable hP ws h
  unfold completeOrAbort
  split <;> (rename_i e; rw [e] at hw)
  · exact nextIs_next (endInstrEa_stable hP hw s0 flow none)
  · exact abortWrite_stable hP h0 hw _ _

theorem nextWith_stable (hP : Stable P) (h0 : P s0) (h : P s) (n : Nat) (ws : List Write) : NextIs P (nextWith s0 s n ws) :=
  complete_stable hP h0 (by exact hP.frame h ⟨rfl, rfl, rfl⟩ id) ws false

theorem next_stable (hP : Stable P) (h0 : P s0) (h : P s) (n : Nat) : NextIs P (next s0 s n) :=
  nextWith_stable hP h0 h n []

theorem jump_stable (hP : Stable P) (h0 : P s0) (h : P s) (target : Long) (ws : List Write) :
    NextIs P (jump s0 s target ws) :=
  complete_stable hP h0 (by exact hP.frame h ⟨rfl, rfl, rfl⟩ id) ws true

theorem ownTrap_stable (hP : Stable P) (h0 : P s0) (h : P s) {take : State → State} (ht : P (take s)) :
    NextIs P (ownTrap s0 s take) := by
  unfold ownTrap
  split
  · exact restart_stable hP h0 h
  · exact nextIs_next ht

theorem tracedTrap_stable (hP : Stable P) (h0 : P s0) (h : P s) {take : State → State} (ht : ∀ u, P u → P (take u)) :
    NextIs P (tracedTrap s0 s take) :=
  ownTrap_stable hP h0 h (hP.frame (ht _ (settleTrace_stable hP h s0 true)) ⟨rfl, rfl, rfl⟩ id)

theorem trapNext_stable (hP : Stable P) (h0 : P s0) (h : P s) (vector : BitVec 8) (n : Nat) :
    NextIs P (trapNext s0 s vector n) :=
  tracedTrap_stable hP h0 h fun _ h => trap2_stable hP h vector _ _

/-! ### Shapes of instructions -/

/-- A computation on an operand that keeps the property. -/
def KeptBy (P : State → Prop) (f : State → Long → Long → State × Long) : Prop := ∀ s a b, P s → P (f s a b).1

theorem eaToDn_stable (hP : Stable P) (h : P s) (z : Size) (e : Ea) (dn : BitVec 3)
    {f : State → Long → Long → State × Long} (hf : KeptBy P f) : NextIs P (eaToDn s z e dn f) :=
  orAbort_stable hP h (readEa_stable hP h z e 1 _) fun _ _ hu => next_stable hP h (setDz_stable hP (hf _ _ _ hu) z dn _) _

theorem modifyEa_stable (hP : Stable P) (h : P s) (z : Size) (e : Ea) (pre : Nat) (src : Long)
    {f : State → Long → Long → State × Long} (hf : KeptBy P f) : NextIs P (modifyEa s z e pre src f) :=
  orAbort_stable hP h (readEa_stable hP h z e pre _) fun x _ hu =>
    nextWith_stable hP h (putLoc_stable hP (hf _ _ _ hu) z x.1 _) _ _

theorem testEa_stable (hP : Stable P) (h : P s) (z : Size) (e : Ea) (pre : Nat) {f : State → Long → State}
    (hf : ∀ s v, P s → P (f s v)) : NextIs P (testEa s z e pre f) :=
  orAbort_stable hP h (readEa_stable hP h z e pre _) fun x _ hu => next_stable hP h (hf _ x.2 hu) _

theorem storeEa_stable (hP : Stable P) (h : P s) (z : Size) (e : Ea) (pre : Nat) {f : State → State × Long}
    (hf : ∀ s, P s → P (f s).1) : NextIs P (storeEa s z e pre f) :=
  orAbort_stable hP h (evalEa_stable hP h e _ _) fun l _ hu => nextWith_stable hP h (putLoc_stable hP (hf _ hu) z l _) _ _

theorem extended_stable (hP : Stable P) (h : P s) (z : Size) (rx : BitVec 3) (mem : Bool) (ry : BitVec 3) (n : Nat)
    {f : State → Long → Long → State × Long} (hf : KeptBy P f) : NextIs P (extended s z rx mem ry n f) := by
  unfold extended
  split
  · refine orAbort_stable hP h ?_ fun x u hu => nextWith_stable hP h (putLoc_stable hP (hf _ _ _ hu) z x.1 _) n _
    exact (readEa_stable hP h z _ 1 _).bind fun _ _ h => (readEa_stable hP h z _ 1 _).bind fun _ _ h => h
  · exact next_stable hP h (setDz_stable hP (hf _ _ _ h) z rx _) n

end Sys2Proof.Machine
end

section
/-! PROOFS. The families of integer instructions keep every stable property. -/

namespace Sys2Proof.Machine

variable {P : State → Prop} {s s0 : State}

/-! ### What instructions compute -/

theorem addOp_kept (hP : Stable P) (z : Size) : KeptBy P (addOp z) := fun _ _ _ h => setXNZVC_stable hP h _ _ _ _ _

theorem subOp_kept (hP : Stable P) (z : Size) : KeptBy P (subOp z) := fun _ _ _ h => setXNZVC_stable hP h _ _ _ _ _

theorem addxOp_kept (hP : Stable P) (z : Size) : KeptBy P (addxOp z) := fun _ _ _ h => setXNZVC_stable hP h _ _ _ _ _

theorem subxOp_kept (hP : Stable P) (z : Size) : KeptBy P (subxOp z) := fun _ _ _ h => setXNZVC_stable hP h _ _ _ _ _

theorem negOp_kept (hP : Stable P) (z : Size) : KeptBy P (negOp z) := fun _ _ b h => subOp_kept hP z _ b 0 h

theorem negxOp_kept (hP : Stable P) (z : Size) : KeptBy P (negxOp z) := fun _ _ b h => subxOp_kept hP z _ b 0 h

theorem logicOp_kept (hP : Stable P) (f : Long → Long → Long) (z : Size) : KeptBy P (logicOp f z) :=
  fun _ _ _ h => setLogic_stable hP h z _

theorem compareOp_stable (hP : Stable P) (h : P s) (z : Size) (src dst : Long) : P (compareOp z s src dst) :=
  setCompare_stable hP h z _

theorem bitOp_kept (hP : Stable P) (f : Long → Long → Long) (z : Size) (bit : Nat) :
    KeptBy P fun s _ d => bitOp f z bit s d := fun _ _ _ h => setZ_stable hP h _

theorem applyShift_kept (hP : Stable P) (z : Size) (f : Nat → Nat → Nat → Bool → Shifted) (r : Nat) :
    KeptBy P fun s _ d => applyShift z f r s d := fun _ _ _ h => setXNZVC_stable hP h _ _ _ _ _

theorem setDecimal_stable (hP : Stable P) (h : P s) (r : Long) (c : Bool) : P (s.setDecimal r c) :=
  setXNZVC_stable hP (draw_stable hP h 2) _ _ _ _ _

theorem decimal_stable (hP : Stable P) (h : P s) (valid : Bool) (t : Int) : P (decimal s valid t).1 := by
  unfold decimal
  split
  · split
    · exact setDecimal_stable hP h _ _
    · split <;> exact setDecimal_stable hP h _ _
  · exact setDecimal_stable hP (draw_stable hP h 9) _ _

theorem abcdOp_kept (hP : Stable P) : KeptBy P abcdOp := fun _ _ _ h => decimal_stable hP h _ _

theorem sbcdOp_kept (hP : Stable P) : KeptBy P sbcdOp := fun _ _ _ h => decimal_stable hP h _ _

theorem packOp_stable (hP : Stable P) (h : P s) (u : Long) (adj : BitVec 16) : P (packOp s u adj).1 := by
  unfold packOp
  split
  · exact h
  · exact draw_stable hP h 8

theorem packUnpack_stable (hP : Stable P) (h : P s) (z z' : Size) (rx : BitVec 3) (mem : Bool) (ry : BitVec 3)
    {f : State → Long → State × Long} (hf : ∀ s u, P s → P (f s u).1) : NextIs P (packUnpack z z' rx mem ry f s) := by
  unfold packUnpack
  split
  · exact orAbort_stable hP h (readEa_stable hP h z _ 2 _) fun _ _ hu =>
      nextWith_stable hP h (setA_stable hP (hf _ _ hu) rx _) 2 _
  · exact next_stable hP h (setDz_stable hP (hf _ _ h) z' rx _) 2

/-! ### Bits and bit fields -/

theorem bitTest_stable (hP : Stable P) (h : P s) (ea : Ea) (pre bit : Nat) : NextIs P (bitTest ea pre bit s) :=
  testEa_stable hP h _ ea pre fun _ v h => bitOp_kept hP _ _ bit _ 0 v h

theorem bitModify_stable (hP : Stable P) (h : P s) (f : Long → Long → Long) (ea : Ea) (pre bit : Nat) :
    NextIs P (bitModify f ea pre bit s) :=
  modifyEa_stable hP h _ ea pre 0 (bitOp_kept hP f _ bit)

theorem readChunks_stable (hP : Stable P) : ∀ (ns : List Nat) {s : State} (a : Long) (acc : BitVec 64), P s →
    (readChunks s a acc ns).All P
  | [], _, _, _, h => h
  | n :: ns, _, a, _, h => (read_stable hP h a n).bind fun _ _ h => readChunks_stable hP ns _ _ h

/-- A field can be read, and a new value put back, without ending a stable property. -/
theorem getField_stable (hP : Stable P) (h : P s) (ea : Ea) (off : Long) (w : Nat) :
    (getField s ea off w).All P ∧ ∀ g u, getField s ea off w = .ok g u → ∀ f t, P t → P (g.put f t).1 := by
  unfold getField
  split
  · refine ⟨h, ?_⟩
    rintro g u e f t ht
    cases e
    exact setD_stable hP ht _ _
  · refine ⟨(controlEa_stable hP h ea _).bind fun _ _ h => (readChunks_stable hP _ _ _ h).bind fun _ _ h => h, ?_⟩
    rintro g u e f t ht
    cases hc : controlEa s ea (s.after 2) with
    | fail => rw [hc] at e; cases e
    | ok base v =>
      rw [hc] at e
      simp only [Res.bind_ok] at e
      revert e
      generalize readChunks v _ 0 _ = r
      cases r with
      | fail => exact fun e => by cases e
      | ok m v' => exact fun e => by cases e; exact ht

theorem setField_stable (hP : Stable P) (h : P s) (f : Long) (w : Nat) : P (s.setField f w) := setNZVC_stable hP h _ _ _ _

theorem fieldRead_stable (hP : Stable P) (h : P s) (bf : BfSpec) (ea : Ea) {k : State → Long → Nat → State}
    (hk : ∀ s f w, P s → P (k s f w)) : NextIs P (fieldRead bf ea k s) :=
  orAbort_stable hP h (getField_stable hP h ea _ _).1 fun _ _ hu => next_stable hP h (hk _ _ _ (setField_stable hP hu _ _)) _

theorem fieldModify_stable (hP : Stable P) (h : P s) (bf : BfSpec) (ea : Ea) (new cc : Long → Nat → Long) :
    NextIs P (fieldModify bf ea new cc s) := by
  obtain ⟨hr, hput⟩ := getField_stable hP h ea (fieldOffset s bf) (fieldWidth s bf)
  unfold fieldModify
  extract_lets w
  cases e : getField s ea (fieldOffset s bf) w with
  | ok g u =>
    rw [e] at hr
    exact nextWith_stable hP h (hput g u e _ _ (setField_stable hP hr _ w)) _ _
  | fail f u =>
    rw [e] at hr
    exact abort_stable hP h hr f

/-! ### Program control -/

theorem notTaken_stable (hP : Stable P) (h : P s) (target : Long) (n : Nat) : NextIs P (notTaken s target n) := by
  unfold notTaken
  split
  · exact nextIs_next (addressError_stable hP h _ _)
  · exact next_stable hP h h n

theorem execBcc_stable (hP : Stable P) (h : P s) (cc : BitVec 4) (disp : BrDisp) : NextIs P (execBcc cc disp s) := by
  unfold execBcc
  split
  · exact jump_stable hP h h _ []
  · exact notTaken_stable hP h _ _

theorem callTo_stable (hP : Stable P) (h0 : P s0) (h : P s) (target : Long) (n : Nat) : NextIs P (callTo s0 s target n) :=
  jump_stable hP h0 (setA_stable hP h 7 _) target _

theorem execDbcc_stable (hP : Stable P) (h : P s) (cc : BitVec 4) (dn : BitVec 3) (d : BitVec 16) :
    NextIs P (execDbcc cc dn d s) := by
  unfold execDbcc
  split
  · exact next_stable hP h h 2
  · extract_lets c s1
    have h1 : P s1 := setDz_stable hP h .w dn _
    split
    · exact next_stable hP h h1 2
    · exact jump_stable hP h h1 _ []

theorem execRtd_stable (hP : Stable P) (h : P s) (d : BitVec 16) : NextIs P (execRtd d s) :=
  orAbort_stable hP h (read_stable hP h _ 4) fun _ _ hu => jump_stable hP h (setA_stable hP hu 7 _) _ []

theorem execRts_stable (hP : Stable P) (h : P s) : NextIs P (execRts s) :=
  orAbort_stable hP h (read_stable hP h _ 4) fun _ _ hu => jump_stable hP h (setA_stable hP hu 7 _) _ []

theorem execRtr_stable (hP : Stable P) (h : P s) : NextIs P (execRtr s) :=
  orAbort_stable hP h ((read_stable hP h _ 2).bind fun _ _ h => (read_stable hP h _ 4).bind fun _ _ h => h) fun _ _ hu =>
    jump_stable hP h (setCcr_stable hP (setA_stable hP hu 7 _) _) _ []

theorem execNop_stable (hP : Stable P) (h : P s) : NextIs P (execNop s) :=
  next_stable hP h (s := { s with mem := s.mem.synchronize }) (hP.frame h ⟨rfl, rfl, rfl⟩ synchronize_wf) 1

theorem tstEa_stable (hP : Stable P) (h : P s) (z : Size) (ea : Ea) : NextIs P (tstEa z ea s) :=
  testEa_stable hP h z ea 1 fun _ _ h => setLogic_stable hP h z _

/-! ### Data movement -/

theorem moveEa_stable (hP : Stable P) (h : P s) (z : Size) (src dst : Ea) : NextIs P (moveEa z src dst s) :=
  orAbort_stable hP h
    ((readEa_stable hP h z src 1 _).bind fun _ _ h => (evalEa_stable hP h dst _ _).bind fun _ _ h => h)
    fun x _ hu => nextWith_stable hP h (putLoc_stable hP (setLogic_stable hP hu z _) z x.1 _) _ _

theorem moveaEa_stable (hP : Stable P) (h : P s) (z : Size) (an : BitVec 3) (ea : Ea) : NextIs P (moveaEa z an ea s) :=
  orAbort_stable hP h (readEa_stable hP h z ea 1 _) fun _ _ hu => next_stable hP h (setA_stable hP hu an _) _

theorem movemBase_stable (hP : Stable P) (h : P s) (ea : Ea) : (movemBase s ea).All P := by
  unfold movemBase
  split
  case h_1 | h_2 => exact h
  case h_3 | h_4 | h_5 =>
    split
    · exact h
    · exact controlEa_stable hP h _ _
  case h_6 => exact controlEa_stable hP h _ _

theorem movemAbort_stable (hP : Stable P) (h0 : P s0) (h : P s) (f : AccessFault) (ea : Long) :
    NextIs P (movemAbort s0 s f ea) := by
  unfold movemAbort
  split
  · exact restart_stable hP h0 h
  · split
    · exact abort_stable hP (s0 := { s with pc := s0.pc }) (hP.frame h ⟨rfl, rfl, rfl⟩ id) h f
    · exact nextIs_next (accessError_stable hP (by exact hP.frame h ⟨rfl, rfl, rfl⟩ id) f _ _)

theorem movemStore_stable (hP : Stable P) (h : P s) (z : Size) (list : BitVec 16) (ea : Ea) :
    NextIs P (movemStore z list ea s) := by
  refine orAbort_stable hP h (movemBase_stable hP h ea) fun a s1 h1 => ?_
  extract_lets ws
  have hw := writeAll_stable hP ws h1
  split <;> (rename_i e; rw [e] at hw)
  · exact movemAbort_stable hP h (hP.withMem h hw) _ a
  · refine next_stable hP h ?_ _
    split
    · exact setA_stable hP hw _ _
    · exact hw

theorem movemLoads_stable (hP : Stable P) (z : Size) (skip : Option (BitVec 4)) : ∀ (rs : List (BitVec 4)) {s : State}
    (a : Long), P s → (movemLoads s z skip a rs).All P
  | [], _, _, h => h
  | r :: rs, s, a, h => by
    have hr := read_stable hP h a z.bytes
    unfold movemLoads
    split <;> (rename_i e; rw [e] at hr)
    · exact hr
    · refine movemLoads_stable hP z skip rs _ ?_
      split
      · exact hr
      · exact setR_stable hP hr r _

theorem movemLoad_stable (hP : Stable P) (h : P s) (z : Size) (list : BitVec 16) (ea : Ea) :
    NextIs P (movemLoad z list ea s) := by
  refine orAbort_stable hP h (movemBase_stable hP h ea) fun a s1 h1 => ?_
  extract_lets skip
  have hl := movemLoads_stable hP z skip (listRegs list) a h1
  split <;> (rename_i e; rw [e] at hl)
  · exact movemAbort_stable hP h hl _ a
  · refine next_stable hP h ?_ _
    split
    · exact setA_stable hP hl _ _
    · exact hl

theorem movepRead_stable (hP : Stable P) : ∀ (n : Nat) {s : State} (a acc : Long), P s → (movepRead s a acc n).All P
  | 0, _, _, _, h => h
  | n + 1, _, a, _, h => (read_stable hP h a 1).bind fun _ _ h => movepRead_stable hP n _ _ h

theorem movepLoad_stable (hP : Stable P) (h : P s) (z : Size) (dx ay : BitVec 3) (d : BitVec 16) :
    NextIs P (movepLoad z dx ay d s) :=
  orAbort_stable hP h (movepRead_stable hP _ _ _ h) fun _ _ hu => next_stable hP h (setDz_stable hP hu z dx _) 2

theorem execLea_stable (hP : Stable P) (h : P s) (an : BitVec 3) (ea : Ea) : NextIs P (execLea an ea s) :=
  orAbort_stable hP h (controlEa_stable hP h ea _) fun _ _ hu => next_stable hP h (setA_stable hP hu an _) _

theorem execPea_stable (hP : Stable P) (h : P s) (ea : Ea) : NextIs P (execPea ea s) :=
  orAbort_stable hP h (controlEa_stable hP h ea _) fun _ _ hu => nextWith_stable hP h (setA_stable hP hu 7 _) _ _

theorem linkAn_stable (hP : Stable P) (h : P s) (an : BitVec 3) (d : Long) (n : Nat) : NextIs P (linkAn an d n s) :=
  nextWith_stable hP h (setA_stable hP (setA_stable hP (setA_stable hP h 7 _) an _) 7 _) n _

theorem execUnlk_stable (hP : Stable P) (h : P s) (an : BitVec 3) : NextIs P (execUnlk an s) := by
  refine orAbort_stable hP h (read_stable hP h _ 4) fun v s1 h1 => ?_
  split
  · exact next_stable hP h (setA_stable hP (draw_stable hP h1 32) 7 _) 1
  · exact next_stable hP h (setA_stable hP (setA_stable hP h1 7 _) an _) 1

theorem exchange_stable (hP : Stable P) (h : P s) (x y : BitVec 4) : NextIs P (exchange x y s) :=
  next_stable hP h (setR_stable hP (setR_stable hP h x _) y _) 1

theorem move16_stable (hP : Stable P) (h : P s) (src dst : Long) (n : Nat) {after : State → State}
    (ha : ∀ s, P s → P (after s)) : NextIs P (move16 src dst n after s) :=
  orAbort_stable hP h (lift_stable hP h dataRead_wf) fun _ _ hu => nextWith_stable hP h (ha _ hu) n _

theorem execMove16AxPlusAyPlus_stable (hP : Stable P) (h : P s) (ax ay : BitVec 3) :
    NextIs P (execMove16AxPlusAyPlus ax ay s) := by
  refine move16_stable hP h _ _ 2 fun u hu => ?_
  split
  · exact setA_stable hP (draw_stable hP hu 1) ax _
  · exact setA_stable hP (setA_stable hP hu ax _) ay _

/-! ### Integer arithmetic and shifts -/

theorem addressOp_stable (hP : Stable P) (h : P s) (z : Size) (an : BitVec 3) (ea : Ea) (f : Long → Long → Long) :
    NextIs P (addressOp z an ea f s) :=
  orAbort_stable hP h (readEa_stable hP h z ea 1 _) fun _ _ hu => next_stable hP h (setA_stable hP hu an _) _

theorem quickOp_stable (hP : Stable P) (h : P s) (z : Size) (data : BitVec 3) (ea : Ea) (fa : Long → Long → Long)
    {f : State → Long → Long → State × Long} (hf : KeptBy P f) : NextIs P (quickOp z data ea fa f s) := by
  unfold quickOp
  split
  · exact next_stable hP h (setA_stable hP h _ _) 1
  · exact modifyEa_stable hP h z ea 1 _ hf

theorem compareAddress_stable (hP : Stable P) (h : P s) (z : Size) (an : BitVec 3) (ea : Ea) :
    NextIs P (compareAddress z an ea s) :=
  testEa_stable hP h z ea 1 fun _ _ h => compareOp_stable hP h .l _ _

theorem compareMem_stable (hP : Stable P) (h : P s) (z : Size) (ax ay : BitVec 3) : NextIs P (compareMem z ax ay s) :=
  orAbort_stable hP h ((readEa_stable hP h z _ 1 _).bind fun _ _ h => (readEa_stable hP h z _ 1 _).bind fun _ _ h => h)
    fun _ _ hu => next_stable hP h (compareOp_stable hP hu z _ _) 1

theorem setBounds_stable (hP : Stable P) (h : P s) (r lb ub : Long) : P (setBounds s r lb ub) :=
  setNZVC_stable hP (draw_stable hP h 2) _ _ _ _

theorem compareBounds_stable (hP : Stable P) (h : P s) (z : Size) (rn : BitVec 4) (ea : Ea) {k : State → Out}
    (hk : ∀ s, P s → NextIs P (k s)) : NextIs P (compareBounds z rn ea s k) := by
  refine orAbort_stable hP h ?_ fun b u hu => hk _ ?_
  · exact (controlEa_stable hP h ea _).bind fun _ _ h =>
      (read_stable hP h _ _).bind fun _ _ h => (read_stable hP h _ _).bind fun _ _ h => h
  · split <;> exact setBounds_stable hP hu _ _ _

theorem compare2_stable (hP : Stable P) (h : P s) (z : Size) (rn : BitVec 4) (ea : Ea) : NextIs P (compare2 z rn ea s) :=
  compareBounds_stable hP h z rn ea fun _ hu => next_stable hP h hu _

theorem check2_stable (hP : Stable P) (h : P s) (z : Size) (rn : BitVec 4) (ea : Ea) : NextIs P (check2 z rn ea s) := by
  refine compareBounds_stable hP h z rn ea fun u hu => ?_
  split
  · exact trapNext_stable hP h hu 6 _
  · exact next_stable hP h hu _

theorem clearEa_stable (hP : Stable P) (h : P s) (z : Size) (ea : Ea) : NextIs P (clearEa z ea s) :=
  storeEa_stable hP h z ea 1 fun _ h => setLogic_stable hP h z 0

theorem setDnLogic_stable (hP : Stable P) (h : P s) (z : Size) (dn : BitVec 3) (v : Long) : NextIs P (setDnLogic z dn v s) :=
  next_stable hP h (setLogic_stable hP (setDz_stable hP h z dn v) z v) 1

theorem mulWord_stable (hP : Stable P) (h : P s) (signed : Bool) (dn : BitVec 3) (ea : Ea) :
    NextIs P (mulWord signed dn ea s) :=
  orAbort_stable hP h (readEa_stable hP h .w ea 1 _) fun _ _ hu =>
    next_stable hP h (setLogic_stable hP (setD_stable hP hu dn _) .l _) _

theorem mulLong32_stable (hP : Stable P) (h : P s) (signed : Bool) (dl : BitVec 3) (ea : Ea) :
    NextIs P (mulLong32 signed dl ea s) :=
  orAbort_stable hP h (readEa_stable hP h .l ea 2 _) fun _ _ hu =>
    next_stable hP h (setNZVC_stable hP (setD_stable hP hu dl _) _ _ _ _) _

theorem setPair_stable (hP : Stable P) (h : P s) (hi lo : BitVec 3) (vhi vlo : Long) : P (setPair s hi lo vhi vlo) := by
  unfold setPair
  split
  · exact setD_stable hP (draw_stable hP h 32) lo _
  · exact setD_stable hP (setD_stable hP h hi _) lo _

theorem mulLong64_stable (hP : Stable P) (h : P s) (signed : Bool) (dh dl : BitVec 3) (ea : Ea) :
    NextIs P (mulLong64 signed dh dl ea s) :=
  orAbort_stable hP h (readEa_stable hP h .l ea 2 _) fun _ _ hu =>
    next_stable hP h (setNZVC_stable hP (setPair_stable hP hu dh dl _ _) _ _ _ _) _

theorem zeroDivide_stable (hP : Stable P) (h0 : P s0) (h : P s) (n : Nat) : NextIs P (zeroDivide s0 s n) :=
  trapNext_stable hP h0 (setNZVC_stable hP (draw_stable hP h 3) _ _ _ _) 5 n

theorem divideOverflow_stable (hP : Stable P) (h0 : P s0) (h : P s) (n : Nat) : NextIs P (divideOverflow s0 s n) :=
  next_stable hP h0 (setNZVC_stable hP (draw_stable hP h 2) _ _ _ _) n

theorem divWord_stable (hP : Stable P) (h : P s) (signed : Bool) (dn : BitVec 3) (ea : Ea) :
    NextIs P (divWord signed dn ea s) := by
  refine orAbort_stable hP h (readEa_stable hP h .w ea 1 _) fun x u hu => ?_
  extract_lets n b a q fits qw
  split
  · exact zeroDivide_stable hP h hu n
  · split
    · exact next_stable hP h (setNZVC_stable hP (setD_stable hP hu dn _) _ _ _ _) n
    · exact divideOverflow_stable hP h hu n

theorem divLong32_stable (hP : Stable P) (h : P s) (signed : Bool) (ea : Ea) (dividend : State → Int)
    {put : State → Long → Long → State} (hput : ∀ s r q, P s → P (put s r q)) :
    NextIs P (divLong32 signed ea s dividend put) := by
  refine orAbort_stable hP h (readEa_stable hP h .l ea 2 _) fun x u hu => ?_
  extract_lets n b a q ql
  split
  · exact zeroDivide_stable hP h hu n
  · split
    · exact next_stable hP h (setNZVC_stable hP (hput _ _ _ hu) _ _ _ _) n
    · exact divideOverflow_stable hP h hu n

theorem divQuotient_stable (hP : Stable P) (h : P s) (signed : Bool) (dq : BitVec 3) (ea : Ea) :
    NextIs P (divQuotient signed dq ea s) :=
  divLong32_stable hP h signed ea _ fun _ _ _ h => setD_stable hP h dq _

theorem divRemainder_stable (hP : Stable P) (h : P s) (signed : Bool) (dr dq : BitVec 3) (ea : Ea) :
    NextIs P (divRemainder signed dr dq ea s) :=
  divLong32_stable hP h signed ea _ fun _ _ _ h => setD_stable hP (setD_stable hP h dr _) dq _

theorem divQuad_stable (hP : Stable P) (h : P s) (signed : Bool) (dr dq : BitVec 3) (ea : Ea) :
    NextIs P (divQuad signed dr dq ea s) :=
  divLong32_stable hP h signed ea _ fun _ _ _ h => setPair_stable hP h dr dq _ _

theorem shiftReg_stable (hP : Stable P) (h : P s) (z : Size) (f : Nat → Nat → Nat → Bool → Shifted) (cnt : BitVec 3)
    (ir : Bool) (dy : BitVec 3) : NextIs P (shiftReg z f cnt ir dy s) :=
  next_stable hP h (setDz_stable hP (applyShift_kept hP z f _ _ 0 _ h) z dy _) 1

theorem shiftMem_stable (hP : Stable P) (h : P s) (f : Nat → Nat → Nat → Bool → Shifted) (ea : Ea) :
    NextIs P (shiftMem f ea s) :=
  modifyEa_stable hP h .w ea 1 0 (applyShift_kept hP .w f 1)

theorem execSwap_stable (hP : Stable P) (h : P s) (dn : BitVec 3) : NextIs P (execSwap dn s) :=
  next_stable hP h (setLogic_stable hP (setD_stable hP h dn _) .l _) 1

/-! ### TAS, CAS, CAS2 -/

theorem execTas_stable (hP : Stable P) (h : P s) (ea : Ea) : NextIs P (execTas ea s) := by
  refine orAbort_stable hP h (evalEa_stable hP h ea 1 _) fun l u hu => ?_
  split
  · exact next_stable hP h (setLogic_stable hP (setDz_stable hP hu .b _ _) .b _) 1
  · exact orAbort_stable hP h ((beginLocked_stable hP hu _).bind fun _ _ h => readLocked_stable hP h _ 1) fun _ _ hv =>
      nextWith_stable hP h (setLogic_stable hP hv .b _) _ _

theorem compareSwap_stable (hP : Stable P) (h : P s) (z : Size) (du dc : BitVec 3) (ea : Ea) :
    NextIs P (compareSwap z du dc ea s) := by
  refine orAbort_stable hP h ?_ fun p u hu => ?_
  · exact (evalEa_stable hP h ea _ _).bind fun _ _ h =>
      (beginLocked_stable hP h _).bind fun _ _ h => (readLocked_stable hP h _ _).bind fun _ _ h => h
  · extract_lets t u'
    have hu' : P u' := setCompare_stable hP hu z t
    split
    · exact nextWith_stable hP h hu' _ _
    · exact nextWith_stable hP h (setDz_stable hP hu' z dc _) _ _

theorem compareSwap2_stable (hP : Stable P) (h : P s) (z : Size) (rn1 : BitVec 4) (du1 dc1 : BitVec 3) (rn2 : BitVec 4)
    (du2 dc2 : BitVec 3) : NextIs P (compareSwap2 z rn1 du1 dc1 rn2 du2 dc2 s) := by
  refine orAbort_stable hP h ?_ fun p u hu => ?_
  · exact (beginLocked_stable hP h _).bind fun _ _ h =>
      (readLocked_stable hP h _ _).bind fun _ _ h => (readLocked_stable hP h _ _).bind fun _ _ h => h
  · have hc (t : Sum) : P (u.setCompare z t) := setCompare_stable hP hu z t
    have hd (t : Sum) : P (((u.setCompare z t).setDz z dc2 p.2).setDz z dc1 p.1) :=
      setDz_stable hP (setDz_stable hP (hc t) z dc2 _) z dc1 _
    extract_lets t1 t2 u1 u2
    split
    · split
      · exact nextWith_stable hP h (hc t2) 3 _
      · exact nextWith_stable hP h (hd t2) 3 _
    · exact nextWith_stable hP h (hd t1) 3 _

/-! ### Traps -/

theorem execBkpt_stable (hP : Stable P) (h : P s) (n : BitVec 3) : NextIs P (execBkpt n s) :=
  nextIs_next (trap0_stable hP (by exact hP.frame h ⟨rfl, rfl, rfl⟩ acknowledge_wf) 4 _)

theorem execIllegal_stable (hP : Stable P) (h : P s) : NextIs P (execIllegal s) := nextIs_next (trap0_stable hP h 4 _)

theorem execTrap_stable (hP : Stable P) (h : P s) (n : BitVec 4) : NextIs P (execTrap n s) :=
  tracedTrap_stable hP h h fun _ h => trap0_stable hP h _ _

theorem trapIf_stable (hP : Stable P) (h : P s) (c : Bool) (n : Nat) : NextIs P (trapIf c n s) := by
  unfold trapIf
  split
  · exact trapNext_stable hP h h 7 n
  · exact next_stable hP h h n

theorem checkBound_stable (hP : Stable P) (h : P s) (z : Size) (dn : BitVec 3) (ea : Ea) :
    NextIs P (checkBound z dn ea s) := by
  refine orAbort_stable hP h (readEa_stable hP h z ea 1 _) fun x u hu => ?_
  have hc (n : Option Bool) : P (u.setCheck n) := setNZVC_stable hP (draw_stable hP hu 4) _ _ _ _
  extract_lets n b v
  split
  · exact trapNext_stable hP h (hc _) 6 n
  · split
    · exact trapNext_stable hP h (hc _) 6 n
    · exact next_stable hP h (hc _) n

end Sys2Proof.Machine
end

section
/-! PROOFS. The floating-point instructions keep every stable property. -/

namespace Sys2Proof.Machine

variable {P : State → Prop} {s s0 : State}

/-! ### The FPU's part of the state -/

theorem setFp_stable (hP : Stable P) (h : P s) (n : BitVec 3) (v : Fpr) : P (s.setFp n v) := hP.frame h ⟨rfl, rfl, rfl⟩ id

theorem setFpsr_stable (hP : Stable P) (h : P s) (v : Long) : P (s.setFpsr v) := hP.frame h ⟨rfl, rfl, rfl⟩ id

theorem setFpiar_stable (hP : Stable P) (h : P s) (v : Long) : P (s.setFpiar v) := hP.frame h ⟨rfl, rfl, rfl⟩ id

/-- The FPCR is stored with its reserved bits zero, whatever it was. -/
theorem setFpcr_stable (hP : Stable P) (h : P s) (v : Long) : P (s.setFpcr v) := by
  refine hP.keeps h ⟨rfl, rfl, id, fun _ => ?_, id⟩
  rw [setFpcr_fpcr, BitVec.and_assoc]
  exact BitVec.and_zero

theorem fpuReset_stable (hP : Stable P) (h : P s) : P { s with fpu := Fpu.reset } :=
  hP.keeps h ⟨rfl, rfl, id, fun _ => BitVec.zero_and, id⟩

theorem drawFrame_stable (hP : Stable P) (h : P s) : P s.drawFrame.2 := draw_stable hP h 380

theorem post_stable (hP : Stable P) (h : P s) (v : BitVec 8) (f : FpuFrame) : P (s.post v f) := hP.frame h ⟨rfl, rfl, rfl⟩ id

theorem postStore_stable (hP : Stable P) (h : P s) (v : BitVec 8) (l : Loc) (f : FpuFrame) : P (s.postStore v l f) :=
  hP.frame h ⟨rfl, rfl, rfl⟩ id

theorem beginFp_stable (hP : Stable P) (h : P s) : P s.beginFp := hP.frame h ⟨rfl, rfl, rfl⟩ id

/-- A pending floating-point exception is taken, or the instruction goes on with an FPU that is not null. -/
theorem ifNotPending_stable (hP : Stable P) (h : P s) {body : State → Out} (hb : ∀ u, P u → NextIs P (body u)) :
    NextIs P (ifNotPending s body) := by
  unfold ifNotPending
  split
  · exact nextIs_next (trap0_stable hP h _ _)
  · refine hb _ ?_
    split
    · exact hP.frame h ⟨rfl, rfl, rfl⟩ id
    · exact h

/-! ### Operands -/

theorem readLongs_stable (hP : Stable P) : ∀ (n : Nat) {s : State} (a : Long), P s → (readLongs n s a).All P
  | 0, _, _, h => h
  | n + 1, _, a, h => (read_stable hP h a 4).bind fun _ _ h => (readLongs_stable hP n _ h).bind fun _ _ h => h

theorem readFmt_stable (hP : Stable P) (h : P s) (f : FpFmt) (a : Long) : (readFmt s f a).All P := by
  unfold readFmt
  split
  · exact readLongs_stable hP 3 a h
  · exact readLongs_stable hP 3 a h
  · exact readLongs_stable hP 2 a h
  · exact (read_stable hP h a _).bind fun _ _ h => h

theorem readFpSrc_stable (hP : Stable P) (h : P s) (src : FpSrc) : (readFpSrc s src).All P := by
  cases src with
  | fp m => exact h
  | ea f e =>
    refine (evalEa_stable hP h e _ _).bind fun l u hu => ?_
    cases l with
    | d n => exact hu
    | a n => exact hu
    | imm v => exact hu
    | mem a => exact (readFmt_stable hP hu f a).bind fun _ _ h => h

/-! ### Arithmetic -/

theorem prec_stable (hP : Stable P) (h : P s) (forced : Option Prec) : P (s.prec forced).2 := by
  unfold State.prec
  split
  · exact h
  · split
    · exact h
    · exact h
    · exact h
    · exact draw_stable hP h 2

theorem runFp_stable (hP : Stable P) (h : P s) (op : FpOp) (forced : Option Prec) (cmd : Word) (dn : BitVec 3)
    (src : FpOperand) (dst : Option Fpr) : P (runFp op forced cmd dn src dst s) := by
  have hp := prec_stable hP h forced
  unfold runFp
  extract_lets p s1 enable o fpu s2 s3
  have h2 : P s2 := hP.frame hp ⟨rfl, rfl, rfl⟩ id
  have h3 : P s3 := by
    simp only [s3]
    split
    · exact setFp_stable hP h2 dn _
    · exact h2
  split
  · exact h3
  · exact post_stable hP (drawFrame_stable hP h3) _ _

theorem fpArith_stable (hP : Stable P) (h : P s) (op : FpOp) (forced : Option Prec) (code : BitVec 7) (src : FpSrc)
    (dn : BitVec 3) : NextIs P (fpArith op forced code src dn s) := by
  refine ifNotPending_stable hP h fun u hu => ?_
  have hb := beginFp_stable hP hu
  refine orAbort_stable hP hb (readFpSrc_stable hP hb src) fun x v hv => ?_
  extract_lets dst cmd d
  split
  · exact next_stable hP hb (post_stable hP (drawFrame_stable hP hv) _ _) _
  · exact next_stable hP hb (runFp_stable hP hv op forced cmd dn _ _) _

theorem unimplementedTrap_stable (hP : Stable P) (h : P s) (s0 : State) (f : FpuFrame) (n : Nat) (ea : Option Long) :
    NextIs P (unimplementedTrap s0 s f n ea) := by
  unfold unimplementedTrap
  extract_lets fpu u p
  have hu : P u := hP.frame h ⟨rfl, rfl, rfl⟩ id
  have hp : P p.2 := by
    simp only [p]
    split
    · exact hu
    · exact draw_stable hP hu 32
  split
  · exact nextIs_next (hP.frame (settleTrace_stable hP hp s0 false) ⟨rfl, rfl, rfl⟩ id)
  · exact nextIs_next (trap2_stable hP hp 11 _ _)

theorem unimplemented_stable (hP : Stable P) (h : P s) (code : BitVec 7) (dyadic : Bool) (src : FpSrc) (dn : BitVec 3) :
    NextIs P (unimplemented code dyadic src dn s) :=
  ifNotPending_stable hP h fun u hu => orAbort_stable hP hu (readFpSrc_stable hP hu src) fun _ _ hv =>
    unimplementedTrap_stable hP (drawFrame_stable hP hv) u _ _ _

theorem execFmovecrUnimplemented_stable (hP : Stable P) (h : P s) (dst : BitVec 3) (off : BitVec 7) :
    NextIs P (execFmovecrUnimplemented dst off s) :=
  ifNotPending_stable hP h fun u hu => unimplementedTrap_stable hP (drawFrame_stable hP hu) u _ _ _

/-! ### Stores -/

theorem postEa_stable (hP : Stable P) (h : P s) (l : Loc) : P (s.postEa l).2 := by
  unfold State.postEa
  split
  · exact h
  · exact draw_stable hP h 32

theorem endStore_stable (hP : Stable P) (h0 : P s0) (h : P s) (n : Nat) (ws : List Write) (l : Loc)
    (report : Option (BitVec 8)) : NextIs P (endStore s0 s n ws l report) := by
  cases report with
  | none => exact nextWith_stable hP h0 h n ws
  | some v =>
    have hw := writeAll_stable hP ws (s := { s with pc := s0.after n }) (hP.frame h ⟨rfl, rfl, rfl⟩ id)
    unfold endStore
    simp only
    split <;> (rename_i e; rw [e] at hw)
    · have hp := postEa_stable hP hw l
      split
      · exact nextIs_next (hP.frame (settleTrace_stable hP hp s0 false) ⟨rfl, rfl, rfl⟩ id)
      · exact nextIs_next (trap3_stable hP hp v _ _)
    · split
      · exact nextIs_next (writeFault_stable hP (by exact hP.frame (postEa_stable hP hw l) ⟨rfl, rfl, rfl⟩ id) _ _)
      · exact abort_stable hP h0 hw _

theorem putFmt_stable (hP : Stable P) (h : P s) (f : FpFmt) (l : Loc) (v : BitVec 96) : P (putFmt s f l v).1 := by
  unfold putFmt
  split
  · exact setDz_stable hP h _ _ _
  · exact h
  · exact h

theorem runStore_stable (hP : Stable P) (h0 : P s0) (h : P s) (f : FpFmt) (cmd : Word) (pc : Long) (x : Fpr) (l : Loc)
    (n : Nat) : NextIs P (runStore s0 s f cmd pc x l n) := by
  unfold runStore
  extract_lets o fpu s1 b p d
  have h1 : P s1 := hP.frame h ⟨rfl, rfl, rfl⟩ id
  have hb : P b.2 := by
    simp only [b]
    split
    · exact h1
    · exact draw_stable hP h1 96
  have hp : P p.1 := putFmt_stable hP hb f l _
  split
  · exact endStore_stable hP h0 hp n _ l none
  · exact endStore_stable hP h0 (postStore_stable hP (drawFrame_stable hP hp) _ l _) n _ l _

theorem fpMoveOut_stable (hP : Stable P) (h : P s) (f : FpFmt) (cmd : Word) (src : BitVec 3) (ea : Ea) :
    NextIs P (fpMoveOut f cmd src ea s) := by
  refine ifNotPending_stable hP h fun u hu => ?_
  have hb := beginFp_stable hP hu
  refine orAbort_stable hP hb (evalEa_stable hP hb ea _ _) fun l v hv => ?_
  extract_lets x n d fr
  split
  · exact endStore_stable hP hb (postStore_stable hP (drawFrame_stable hP hv) 55 l _) n [] l _
  · exact runStore_stable hP hb hv f cmd _ x l n

/-! ### Control registers, and several data registers -/

theorem loadControl_stable (hP : Stable P) (h : P s) (ea : Ea) {f : State → Long → State}
    (hf : ∀ s v, P s → P (f s v)) : NextIs P (loadControl ea s f) :=
  ifNotPending_stable hP h fun _ hu => testEa_stable hP hu .l ea 2 hf

theorem storeControl_stable (hP : Stable P) (h : P s) (ea : Ea) (v : State → Long) : NextIs P (storeControl ea s v) :=
  ifNotPending_stable hP h fun _ hu => storeEa_stable hP hu .l ea 2 fun _ h => h

theorem setControls_stable (hP : Stable P) (h : P s) (regs : BitVec 3) (v : BitVec 96) : P (setControls regs v s) := by
  unfold setControls
  extract_lets fpiar fpsr fpcr s1 s2
  have h1 : P s1 := by
    simp only [s1]
    split
    · exact setFpcr_stable hP h fpcr
    · exact h
  have h2 : P s2 := by
    simp only [s2]
    split
    · exact setFpsr_stable hP h1 fpsr
    · exact h1
  split
  · exact setFpiar_stable hP h2 fpiar
  · exact h2

theorem execFmovemLEaCtrlList_stable (hP : Stable P) (h : P s) (regs : BitVec 3) (ea : Ea) :
    NextIs P (execFmovemLEaCtrlList regs ea s) := by
  refine ifNotPending_stable hP h fun u hu => ?_
  refine orAbort_stable hP hu ?_ fun _ _ hv => next_stable hP hu (setControls_stable hP hv regs _) _
  refine (evalEa_stable hP hu ea _ _).bind fun l v hv => ?_
  cases l with
  | mem a => exact readLongs_stable hP _ a hv
  | imm v => exact hv
  | d n => exact hv
  | a n => exact hv

theorem execFmovemLCtrlListEa_stable (hP : Stable P) (h : P s) (regs : BitVec 3) (ea : Ea) :
    NextIs P (execFmovemLCtrlListEa regs ea s) :=
  ifNotPending_stable hP h fun _ hu => orAbort_stable hP hu (evalEa_stable hP hu ea _ _) fun _ _ hv =>
    nextWith_stable hP hu hv _ _

theorem loadFps_stable (hP : Stable P) : ∀ (ns : List (BitVec 3)) {s : State} (a : Long), P s → (loadFps ns s a).All P
  | [], _, _, h => h
  | n :: ns, _, a, h => (readLongs_stable hP 3 a h).bind fun _ _ h => loadFps_stable hP ns _ (setFp_stable hP h n _)

theorem execFmovemXEaList_stable (hP : Stable P) (h : P s) (mode : BitVec 2) (list : BitVec 8) (ea : Ea) :
    NextIs P (execFmovemXEaList mode list ea s) := by
  refine ifNotPending_stable hP h fun u hu => ?_
  extract_lets regs
  refine orAbort_stable hP hu (evalEa_stable hP hu ea _ _) fun l v hv => ?_
  have hl := loadFps_stable hP regs l.addr hv
  split <;> (rename_i e; rw [e] at hl)
  · exact next_stable hP hu hl _
  · exact abort_stable hP (hP.withFpu hu hl) hl _

theorem execFmovemXListEa_stable (hP : Stable P) (h : P s) (mode : BitVec 2) (list : BitVec 8) (ea : Ea) :
    NextIs P (execFmovemXListEa mode list ea s) :=
  ifNotPending_stable hP h fun _ hu => orAbort_stable hP hu (evalEa_stable hP hu ea _ _) fun _ _ hv =>
    completeOrAbort_stable hP hu (by exact hP.frame hv ⟨rfl, rfl, rfl⟩ id) _ false

/-! ### Conditionals -/

theorem takeBsun_stable (hP : Stable P) (h : P s) : P (takeBsun s) :=
  trap0_stable hP (by exact hP.frame (draw_stable hP (drawFrame_stable hP h) 2) ⟨rfl, rfl, rfl⟩ id) 48 _

theorem fpConditional_stable (hP : Stable P) (h : P s) (pred : BitVec 5) {k : Bool → State → State → Out}
    (hk : ∀ b u v, P u → P v → NextIs P (k b u v)) : NextIs P (fpConditional pred s k) := by
  refine ifNotPending_stable hP h fun u hu => ?_
  have hb : P u.setBsun := setFpsr_stable hP hu _
  extract_lets t
  split
  · split
    · exact nextIs_next (takeBsun_stable hP hb)
    · exact hk t u _ hu hb
  · exact hk t u u hu hu

theorem execFscc_stable (hP : Stable P) (h : P s) (pred : BitVec 5) (ea : Ea) : NextIs P (execFscc pred ea s) :=
  fpConditional_stable hP h pred fun _ _ _ hu hv => orAbort_stable hP hu (evalEa_stable hP hv ea 1 _) fun l _ hw =>
    nextWith_stable hP hu (putLoc_stable hP hw .b l _) _ _

theorem execFdbcc_stable (hP : Stable P) (h : P s) (pred : BitVec 5) (dn : BitVec 3) (d : BitVec 16) :
    NextIs P (execFdbcc pred dn d s) := by
  refine fpConditional_stable hP h pred fun t u v hu hv => ?_
  split
  · exact next_stable hP hu hv 3
  · extract_lets c w
    have hw : P w := setDz_stable hP hv .w dn _
    split
    · exact next_stable hP hu hw 3
    · exact jump_stable hP hu hw _ []

theorem fpTrapIf_stable (hP : Stable P) (h : P s) (pred : BitVec 5) (n : Nat) : NextIs P (fpTrapIf pred n s) := by
  refine fpConditional_stable hP h pred fun t u v hu hv => ?_
  split
  · exact ownTrap_stable hP hu hv (trap2_stable hP hv 7 _ _)
  · exact next_stable hP hu hv n

theorem execFnop_stable (hP : Stable P) (h : P s) : NextIs P (execFnop s) :=
  ifNotPending_stable hP h fun _ hu => next_stable hP hu hu 2

theorem fpBranch_stable (hP : Stable P) (h : P s) (pred : BitVec 5) (d : Long) (n : Nat) : NextIs P (fpBranch pred d n s) := by
  refine fpConditional_stable hP h pred fun t u v hu hv => ?_
  split
  · exact jump_stable hP hu hv _ []
  · split
    · exact nextIs_next (addressError_stable hP hv _ _)
    · exact next_stable hP hu hv n

/-! ### FSAVE and FRESTORE -/

theorem execFsave_stable (hP : Stable P) (h : P s) (ea : Ea) : NextIs P (execFsave ea s) := by
  refine ifSupervisor_stable hP h fun _ => ?_
  extract_lets k n
  refine orAbort_stable hP h (evalEa_stable hP h ea _ _) fun l u hu => ?_
  exact completeOrAbort_stable hP h (by exact hP.frame (draw_stable hP (draw_stable hP hu 16) 768) ⟨rfl, rfl, rfl⟩ id) _ false

theorem readImage_stable (hP : Stable P) : ∀ (n : Nat) {s : State} (a : Long), P s → (readImage n s a).All P
  | 0, _, _, h => h
  | n + 1, _, a, h => (read_stable hP h a 4).bind fun _ _ h => (readImage_stable hP n _ h).bind fun _ _ h => h

theorem restoreFrame_stable (hP : Stable P) (h : P s) (f : FpuFrame) : P (restoreFrame s f) := by
  unfold restoreFrame
  split <;> exact hP.frame h ⟨rfl, rfl, rfl⟩ id

theorem postAdd_stable (hP : Stable P) (h : P s) (ea : Ea) (n : Nat) : P (postAdd s ea n) := by
  unfold postAdd
  split
  · exact setA_stable hP h _ _
  · exact h

theorem continueFp_stable (hP : Stable P) (h0 : P s0) (h : P s) (f : FpuFrame) (n : Nat) :
    NextIs P (continueFp s0 s f n) := by
  have idle : NextIs P (complete s0 { s with pc := s0.after n } [] false) :=
    complete_stable hP h0 (by exact hP.frame h ⟨rfl, rfl, rfl⟩ id) [] false
  have arith (op : FpOp) (p : Option Prec) : NextIs P
      (if fmovecrWord f.cmd1 then complete s0 { s with pc := s0.after n } [] false
      else complete s0 { runFp op p f.cmd1 (f.cmd1.extractLsb' 7 3) (.ofFpr (canonical f.etemp))
        (if op.dyadic then some (canonical f.fptemp) else none) (s.setFpiar f.fpiarcu) with pc := s0.after n } [] false) := by
    split
    · exact idle
    · exact complete_stable hP h0
        (by exact hP.frame (runFp_stable hP (setFpiar_stable hP h _) op p _ _ _ _) ⟨rfl, rfl, rfl⟩ id) [] false
  unfold continueFp
  extract_lets s1 pc fmt
  split
  · split
    · exact idle
    · exact runStore_stable hP h0 (setFpiar_stable hP h _) fmt _ _ _ _ n
  · exact arith _ _
  · exact arith _ _
  · exact idle

theorem execFrestore_stable (hP : Stable P) (h : P s) (ea : Ea) : NextIs P (execFrestore ea s) := by
  refine ifSupervisor_stable hP h fun _ => ?_
  refine orAbort_stable hP h ?_ fun p u hu => ?_
  · exact (evalEa_stable hP h ea 0 _).bind fun _ _ h => (read_stable hP h _ 4).bind fun _ _ h => h
  split
  · exact ownTrap_stable hP h hu (trap0_stable hP (hP.withMem h hu) 14 _)
  · refine orAbort_stable hP h (readImage_stable hP _ _ hu) fun img v hv => ?_
    extract_lets w n fpu f
    have hw : P w := postAdd_stable hP hv ea _
    split
    · exact next_stable hP h (fpuReset_stable hP hw) n
    · exact next_stable hP h (by exact hP.frame hw ⟨rfl, rfl, rfl⟩ id) n
    · exact next_stable hP h (restoreFrame_stable hP hw _) n
    · split
      · exact continueFp_stable hP h (restoreFrame_stable hP hw f) f n
      · exact next_stable hP h (restoreFrame_stable hP hw f) n

end Sys2Proof.Machine
end

section
/-! PROOFS. The system instructions keep every stable property in user state, and in supervisor state those that no value of
the SR and of the control registers ends, where it sets no reserved bit. -/

namespace Sys2Proof.Machine

variable {P : State → Prop} {s s0 : State}

/-! ### Values with reserved bits zero -/

theorem enterSupervisor_bit (v : Word) {k : Nat} (hk : k < 13) : (enterSupervisor v).getLsbD k = v.getLsbD k := by
  have hm : ∀ k < 13, (0x2000 : Word).getLsbD k = false ∧ (0x3FFF : Word).getLsbD k = true := by decide
  obtain ⟨h1, h2⟩ := hm k hk
  rw [enterSupervisor, BitVec.getLsbD_and, BitVec.getLsbD_or, h1, h2, Bool.or_false, Bool.and_true]

theorem enterSupervisor_reserved {v : Word} (h : v &&& 0x08E0 = 0) : enterSupervisor v &&& 0x08E0 = 0 :=
  (and_eq_of_bits fun _ hk => enterSupervisor_bit v (range_of_bit (p := (· < 13)) hk (by decide))).trans h

theorem srMask_reserved (v : Word) : v &&& srMask &&& 0x08E0 = 0 := and_and_eq_zero v rfl

/-- A word that `write_cr` stores has the reserved bits of its register zero. -/
theorem writeCr_stable (hP : Stable P) (hS : Supervised P) (h : P s) (r : ControlReg) (v : Long) : P (writeCr s r v) := by
  cases r with
  | usp | msp | isp => exact hP.frame h ⟨rfl, rfl, rfl⟩ id
  | sfc | dfc | vbr => exact hS.ctl h fun hc => { hc with }
  | cacr => exact hS.ctl h fun hc => { hc with cacr := and_and_eq_zero v rfl }
  | tc => exact hS.ctl h fun hc => { hc with tc := and_and_eq_zero (v.extractLsb' 0 16) rfl }
  | itt0 => exact hS.ctl h fun hc => { hc with itt0 := and_and_eq_zero v rfl }
  | itt1 => exact hS.ctl h fun hc => { hc with itt1 := and_and_eq_zero v rfl }
  | dtt0 => exact hS.ctl h fun hc => { hc with dtt0 := and_and_eq_zero v rfl }
  | dtt1 => exact hS.ctl h fun hc => { hc with dtt1 := and_and_eq_zero v rfl }
  | mmusr => exact hS.ctl h fun hc => { hc with mmusr := and_and_eq_zero v rfl }
  | urp => exact hS.ctl h fun hc => { hc with urp := and_and_eq_zero v rfl }
  | srp => exact hS.ctl h fun hc => { hc with srp := and_and_eq_zero v rfl }

/-- Bit 3 of the MMUSR that a search leaves is zero. -/
theorem mmusrOf_reserved (e : SearchEnd) : mmusrOf e &&& 8 = 0 := by
  have h3 : (mmusrOf e).getLsbD 3 = false := by
    cases e with
    | page pd wp =>
      show (pd.extractLsb' 12 20 ++ 0#1 ++ pd.extractLsb' 4 7 ++ 0#1 ++ BitVec.ofBool wp ++ 0b01#2 : Long).getLsbD 3 = false
      simp only [BitVec.getLsbD_append]
      rfl
    | invalid wp => cases wp <;> rfl
    | busError => rfl
  refine (and_eq_of_bits fun k hk => ?_).trans (BitVec.zero_and (x := 8#32))
  rw [show k = 3 from range_of_bit (p := (· = 3)) hk (by decide), h3, BitVec.getLsbD_zero]

/-- PTEST gives an MMUSR with bit 3 zero. -/
theorem ptest_reserved {c : Control} {m m' : MemSys} {la v : Long} {wr : Bool} (h : ptest c m la wr = .ok v m') :
    v &&& 8 = 0 := by
  unfold ptest at h
  extract_lets fc instr m1 at h
  split at h
  · cases h
    decide
  · revert h
    cases tableSearch c m1 instr la fc wr none with
    | ok e u =>
      rintro ⟨⟩
      exact mmusrOf_reserved e
    | err f u => rintro ⟨⟩

/-! ### The status register, the control registers, MOVES -/

/-- The SR is loaded with its undefined bits zero. -/
theorem setSr_stable (hS : Supervised P) (h : P s) (v : Word) : P (s.setSr v) := hS.sr h fun _ => srMask_reserved v

theorem loadSr_stable (hP : Stable P) (hS : Supervised P) (h0 : P s0) (h : P s) (v : Word) (n : Nat) :
    NextIs P (loadSr s0 s v n) :=
  complete_stable hP h0 (by exact hP.frame (setSr_stable hS h v) ⟨rfl, rfl, rfl⟩ id) [] true

theorem execMoveToSr_stable (hP : Stable P) (hS : s.super = true → Supervised P) (h : P s) (ea : Ea) :
    NextIs P (execMoveToSr ea s) :=
  ifSupervisor_stable hP h fun hs => orAbort_stable hP h (readEa_stable hP h .w ea 1 _) fun _ _ hu =>
    loadSr_stable hP (hS hs) h hu _ _

theorem execMoveFromSr_stable (hP : Stable P) (h : P s) (ea : Ea) : NextIs P (execMoveFromSr ea s) :=
  ifSupervisor_stable hP h fun _ => storeEa_stable hP h .w ea 1 fun _ h => h

theorem execMovecRcRn_stable (hP : Stable P) (h : P s) (rn : BitVec 4) (code : BitVec 12) :
    NextIs P (execMovecRcRn rn code s) := by
  refine ifSupervisor_stable hP h fun _ => ?_
  split
  · exact nextIs_next (trap0_stable hP h 4 _)
  · exact next_stable hP h (setR_stable hP h rn _) 2

theorem execMovecRnRc_stable (hP : Stable P) (hS : s.super = true → Supervised P) (h : P s) (rn : BitVec 4)
    (code : BitVec 12) : NextIs P (execMovecRnRc rn code s) := by
  refine ifSupervisor_stable hP h fun hs => ?_
  split
  · exact nextIs_next (trap0_stable hP h 4 _)
  · exact next_stable hP h (by exact hP.frame (writeCr_stable hP (hS hs) h _ _) ⟨rfl, rfl, rfl⟩ id) 2

theorem moves_stable (hP : Stable P) (h : P s) (z : Size) (rn : BitVec 4) (toMem : Bool) (ea : Ea) :
    NextIs P (moves z rn toMem ea s) := by
  refine ifSupervisor_stable hP h fun _ => orAbort_stable hP h (evalEa_stable hP h ea _ _) fun l u hu => ?_
  split
  · refine nextWith_stable hP h ?_ _ _
    unfold movesValue
    split
    · exact hu
    · exact draw_stable hP hu 1
  · refine orAbort_stable hP h (readVia_stable hP hu _ _ _) fun v w hw => next_stable hP h ?_ _
    unfold State.setMoves
    split
    · exact setA_stable hP hw _ _
    · exact setDz_stable hP hw z _ v

theorem execReset_stable (hP : Stable P) (h : P s) : NextIs P (execReset s) :=
  ifSupervisor_stable hP h fun _ =>
    next_stable hP h (s := { s with rsto := s.rsto + 1, mem := s.mem.tick false }) (hP.frame h ⟨rfl, rfl, rfl⟩ tick_wf) 1

theorem execStop_stable (hP : Stable P) (hS : s.super = true → Supervised P) (h : P s) (imm : BitVec 16) :
    NextIs P (execStop imm s) :=
  ifSupervisor_stable hP h fun hs => loadSr_stable hP (hS hs) h (by exact hP.frame h ⟨rfl, rfl, rfl⟩ id) imm 2

/-! ### The MMUs and the caches -/

theorem memOnly_stable (hP : Stable P) (h : P s) {m : MemSys} (hm : Memory.wf s.mem → Memory.wf m) :
    NextIs P (memOnly s m) :=
  ifSupervisor_stable hP h fun _ => next_stable hP h (s := { s with mem := m }) (hP.frame h ⟨rfl, rfl, rfl⟩ hm) 1

theorem cinv_wf {m : MemSys} {caches : BitVec 2} {sc : Scope} (h : Memory.wf m) : Memory.wf (cinv m caches sc) := by
  unfold cinv
  extract_lets m1
  split
  · exact maintain_wf h
  · exact h

theorem cpush_stable (hP : Stable P) (h : P s) (caches : BitVec 2) (sc : Scope) : NextIs P (cpush caches sc s) := by
  refine ifSupervisor_stable hP h fun _ => ?_
  have hp : Memory.wf s.mem → Memory.wf
      (if caches.getLsbD 0 then pushSelected sc (s.mem.dcache.map (·.1)) s.mem else .ok () s.mem).mem := fun hm => by
    split
    · exact pushSelected_wf hm
    · exact hm
  split <;> (rename_i m e; rw [e] at hp)
  · exact abort_stable hP h (s := { s with mem := m }) (hP.frame h ⟨rfl, rfl, rfl⟩ hp) _
  · exact next_stable hP h (s := { s with mem := m }) (hP.frame h ⟨rfl, rfl, rfl⟩ hp) 1
  · exact next_stable hP h (s := { s with mem := cinv m caches sc })
      (hP.frame h ⟨rfl, rfl, rfl⟩ fun hm => cinv_wf (hp hm)) 1

theorem ptestAn_stable (hP : Stable P) (hS : s.super = true → Supervised P) (h : P s) (wr : Bool) (an : BitVec 3) :
    NextIs P (ptestAn wr an s) := by
  refine ifSupervisor_stable hP h fun hs => ?_
  have hp : Memory.wf s.mem → Memory.wf (ptest s.ctl s.mem (s.getA an) wr).mem := ptest_wf
  split <;> rename_i m e <;> rw [e] at hp
  · rename_i v
    have hm : P { s with mem := m } := hP.frame h ⟨rfl, rfl, rfl⟩ hp
    have hv : v &&& 8 = 0 := ptest_reserved e
    exact next_stable hP h (s := { s with mem := m, ctl := { s.ctl with mmusr := v } })
      ((hS hs).ctl hm fun hc => { hc with mmusr := hv }) 1
  · exact abort_stable hP h (s := { s with mem := m }) (hP.frame h ⟨rfl, rfl, rfl⟩ hp) _
  · exact next_stable hP h (s := { s with mem := m }) (hP.frame h ⟨rfl, rfl, rfl⟩ hp) 1

/-! ### RTE -/

theorem readHead_stable (hP : Stable P) (h : P s) : (readHead s).All P :=
  (readVia_stable hP h _ _ 2).bind fun _ _ h => (readVia_stable hP h _ _ 4).bind fun _ _ h =>
    (readVia_stable hP h _ _ 2).bind fun _ _ h => h

theorem readContinuation_stable (hP : Stable P) (h : P s) : (readContinuation s).All P :=
  (readVia_stable hP h _ _ 4).bind fun _ _ h => (readVia_stable hP h _ _ 2).bind fun _ _ h => h

theorem leaveFrame_stable (hP : Stable P) (hS : Supervised P) (h : P s) (f : FrameHead) (n : Long) :
    P (leaveFrame s f n) :=
  hP.frame (setSr_stable hS (setA_stable hP h 7 (s.getA 7 + n)) f.sr) ⟨rfl, rfl, rfl⟩ id

theorem continueAs_stable (hP : Stable P) (hS : Supervised P) (h : P s) (f : FrameHead) (ea : Long) (vector : BitVec 8)
    (format : BitVec 4) : P (continueAs s f ea vector format) := by
  unfold continueAs
  extract_lets base
  have hw := writeFields_stable hP base (frameHead f.sr f.pc format vector ++ [⟨8, 4, ea⟩]) (started_stable hP h)
  split <;> (rename_i e; rw [e] at hw)
  · exact halt_stable hP hw
  · exact enterVector_stable hP
      (hS.sr (setA_stable hP hw 7 base) fun _ => enterSupervisor_reserved (srMask_reserved f.sr)) vector

theorem postVector_stable (hP : Stable P) (h : P s) : P (postVector s).2 := by
  unfold postVector
  split
  · exact hP.frame h ⟨rfl, rfl, rfl⟩ id
  · exact draw_stable hP h 3

theorem rteAccess_stable (hP : Stable P) (hS : Supervised P) (h0 : P s0) (h : P s) (f : FrameHead) :
    NextIs P (rteAccess s0 s f) := by
  have hr := readContinuation_stable hP h
  unfold rteAccess
  split <;> (rename_i e; rw [e] at hr)
  · exact nextIs_next (halt_stable hP (hP.withMem h0 hr))
  · split
    · exact nextIs_next (endInstrEa_stable hP (leaveFrame_stable hP hS hr f 60) s0 true _)
    · exact nextIs_next (endInstrEa_stable hP (leaveFrame_stable hP hS hr f 60) s0 true _)
    · exact ownTrap_stable hP h0 hr (continueAs_stable hP hS hr f _ 9 2)
    · exact ownTrap_stable hP h0 hr (continueAs_stable hP hS hr f _ 11 2)
    · exact ownTrap_stable hP h0 hr (continueAs_stable hP hS (postVector_stable hP hr) f _ _ 3)
    · exact nextIs_refused

/-- However many throwaway frames RTE meets, each leaves a state with the property. -/
theorem rteFrames_stable (hP : Stable P) (hS : Supervised P) (h0 : P s0) : ∀ (k : Nat) {s : State}, P s →
    NextIs P (rteFrames k s0 s)
  | 0, _, _ => nextIs_next h0
  | k + 1, s, h => by
    have hr := readHead_stable hP h
    unfold rteFrames
    split <;> (rename_i e; rw [e] at hr)
    · exact abort_stable hP h0 hr _
    · split
      · exact nextIs_next (endInstrEa_stable hP (leaveFrame_stable hP hS hr _ 8) s0 true _)
      · exact rteFrames_stable hP hS h0 k (setSr_stable hS (setA_stable hP hr 7 _) _)
      · exact nextIs_next (endInstrEa_stable hP (leaveFrame_stable hP hS hr _ 12) s0 true _)
      · exact nextIs_next (endInstrEa_stable hP (leaveFrame_stable hP hS hr _ 12) s0 true _)
      · exact rteAccess_stable hP hS h0 hr _
      · exact ownTrap_stable hP h0 hr (trap0_stable hP (hP.withMem h0 hr) 14 _)

theorem execRte_stable (hP : Stable P) (hS : s.super = true → Supervised P) (h : P s) : NextIs P (execRte s) :=
  ifSupervisor_stable hP h fun hs => rteFrames_stable hP (hS hs) h rteBound h

end Sys2Proof.Machine
end

section
/-! PROOFS. Every instruction keeps every stable property. -/

namespace Sys2Proof.Machine

variable {P : State → Prop} {s : State}

theorem execBfextu_stable (hP : Stable P) (h : P s) (dn : BitVec 3) (bf : BfSpec) (ea : Ea) : NextIs P (execBfextu dn bf ea s) :=
  fieldRead_stable hP h bf ea fun _ f _ hu => setD_stable hP hu dn f

theorem execBfexts_stable (hP : Stable P) (h : P s) (dn : BitVec 3) (bf : BfSpec) (ea : Ea) : NextIs P (execBfexts dn bf ea s) :=
  fieldRead_stable hP h bf ea fun _ f w hu => setD_stable hP hu dn ((f <<< (32 - w)).sshiftRight (32 - w))

theorem execBfffo_stable (hP : Stable P) (h : P s) (dn : BitVec 3) (bf : BfSpec) (ea : Ea) : NextIs P (execBfffo dn bf ea s) := by
  unfold execBfffo
  extract_lets off base
  exact fieldRead_stable hP h bf ea fun _ f w hu => setD_stable hP hu dn (base + BitVec.ofNat 32 (leadingZeros f w))

/-- The cases of Instr stand together where one lemma speaks of their meaning. -/
theorem exec_stable (hP : Stable P) (hS : s.super = true → Supervised P) (h : P s) (i : Instr) : NextIs P (exec i s) := by
  cases i with unfold exec
  | oriToCcr | andiToCcr | eoriToCcr => exact next_stable hP h (setCcr_stable hP h _) 2
  | oriToSr | andiToSr | eoriToSr => exact ifSupervisor_stable hP h fun hs => loadSr_stable hP (hS hs) h h _ 2
  | oriB | oriW | oriL | andiB | andiW | andiL | eoriB | eoriW | eoriL | notB | notW | notL | orBDnEa | orWDnEa | orLDnEa
  | eorB | eorW | eorL | andBDnEa | andWDnEa | andLDnEa => exact modifyEa_stable hP h _ _ _ _ (logicOp_kept hP _ _)
  | subiB | subiW | subiL | subBDnEa | subWDnEa | subLDnEa => exact modifyEa_stable hP h _ _ _ _ (subOp_kept hP _)
  | addiB | addiW | addiL | addBDnEa | addWDnEa | addLDnEa => exact modifyEa_stable hP h _ _ _ _ (addOp_kept hP _)
  | cmpiB | cmpiW | cmpiL | cmpBEaDn | cmpWEaDn | cmpLEaDn =>
    exact testEa_stable hP h _ _ _ fun _ _ h => compareOp_stable hP h _ _ _
  | btst | btstDn => exact bitTest_stable hP h _ _ _
  | bchg | bchgDn | bclr | bclrDn | bset | bsetDn => exact bitModify_stable hP h _ _ _ _
  | movepWD16AyDx | movepLD16AyDx => exact movepLoad_stable hP h _ _ _ _
  | movepWDxD16Ay | movepLDxD16Ay => exact nextWith_stable hP h h 2 _
  | cmp2B | cmp2W | cmp2L => exact compare2_stable hP h _ _ _
  | chk2B | chk2W | chk2L => exact check2_stable hP h _ _ _
  | movesB | movesW | movesL => exact moves_stable hP h _ _ _ _
  | casB | casW | casL => exact compareSwap_stable hP h _ _ _ _
  | cas2W | cas2L => exact compareSwap2_stable hP h _ _ _ _ _ _ _
  | moveB | moveL | moveW => exact moveEa_stable hP h _ _ _
  | moveaL | moveaW => exact moveaEa_stable hP h _ _ _
  | negxB | negxW | negxL => exact modifyEa_stable hP h _ _ _ _ (negxOp_kept hP _)
  | clrB | clrW | clrL => exact clearEa_stable hP h _ _
  | negB | negW | negL => exact modifyEa_stable hP h _ _ _ _ (negOp_kept hP _)
  | moveFromSr => exact execMoveFromSr_stable hP h _
  | moveFromCcr | scc => exact storeEa_stable hP h _ _ _ fun _ h => h
  | moveToCcr => exact testEa_stable hP h _ _ _ fun _ _ h => setCcr_stable hP h _
  | moveToSr => exact execMoveToSr_stable hP hS h _
  | nbcd => exact modifyEa_stable hP h _ _ _ _ fun _ _ d h => sbcdOp_kept hP _ d 0 h
  | linkL | linkW => exact linkAn_stable hP h _ _ _
  | swap => exact execSwap_stable hP h _
  | bkpt => exact execBkpt_stable hP h _
  | pea => exact execPea_stable hP h _
  | extW | extL | extbL => exact setDnLogic_stable hP h _ _ _
  | movemWListEa | movemLListEa => exact movemStore_stable hP h _ _ _
  | movemWEaList | movemLEaList => exact movemLoad_stable hP h _ _ _
  | tstB | tstW | tstL => exact tstEa_stable hP h _ _
  | tas => exact execTas_stable hP h _
  | illegal => exact execIllegal_stable hP h
  | muluLEaDl | mulsLEaDl => exact mulLong32_stable hP h _ _ _
  | muluLEaDhDl | mulsLEaDhDl => exact mulLong64_stable hP h _ _ _ _
  | divuLEaDq | divsLEaDq => exact divQuotient_stable hP h _ _ _
  | divulLEaDrDq | divslLEaDrDq => exact divRemainder_stable hP h _ _ _ _
  | divuLEaDrDq | divsLEaDrDq => exact divQuad_stable hP h _ _ _ _
  | trap => exact execTrap_stable hP h _
  | unlk => exact execUnlk_stable hP h _
  | moveAnUsp => exact ifSupervisor_stable hP h fun _ => next_stable hP h (by exact hP.frame h ⟨rfl, rfl, rfl⟩ id) 1
  | moveUspAn => exact ifSupervisor_stable hP h fun _ => next_stable hP h (setA_stable hP h _ _) 1
  | reset => exact execReset_stable hP h
  | nop => exact execNop_stable hP h
  | stop => exact execStop_stable hP hS h _
  | rte => exact execRte_stable hP hS h
  | rtd => exact execRtd_stable hP h _
  | rts => exact execRts_stable hP h
  | trapv | trapccW | trapccL | trapcc => exact trapIf_stable hP h _ _
  | rtr => exact execRtr_stable hP h
  | movecRcRn => exact execMovecRcRn_stable hP h _ _
  | movecRnRc => exact execMovecRnRc_stable hP hS h _ _
  | jsr => exact orAbort_stable hP h (controlEa_stable hP h _ _) fun _ _ hu => callTo_stable hP h hu _ _
  | jmp => exact orAbort_stable hP h (controlEa_stable hP h _ _) fun _ _ hu => jump_stable hP h hu _ []
  | chkL | chkW => exact checkBound_stable hP h _ _ _
  | lea => exact execLea_stable hP h _ _
  | addqB | addqW | addqL => exact quickOp_stable hP h _ _ _ _ (addOp_kept hP _)
  | subqB | subqW | subqL => exact quickOp_stable hP h _ _ _ _ (subOp_kept hP _)
  | dbcc => exact execDbcc_stable hP h _ _ _
  | bra => exact jump_stable hP h h _ []
  | bsr => exact callTo_stable hP h h _ _
  | bcc => exact execBcc_stable hP h _ _
  | moveq => exact next_stable hP h (setLogic_stable hP (setD_stable hP h _ _) .l _) 1
  | orBEaDn | orWEaDn | orLEaDn | andBEaDn | andWEaDn | andLEaDn => exact eaToDn_stable hP h _ _ _ (logicOp_kept hP _ _)
  | divuW | divsW => exact divWord_stable hP h _ _ _
  | sbcd => exact extended_stable hP h _ _ _ _ _ (sbcdOp_kept hP)
  | pack => exact packUnpack_stable hP h _ _ _ _ _ fun _ _ h => packOp_stable hP h _ _
  | unpk => exact packUnpack_stable hP h _ _ _ _ _ fun _ _ h => h
  | subBEaDn | subWEaDn | subLEaDn => exact eaToDn_stable hP h _ _ _ (subOp_kept hP _)
  | subaW | subaL | addaW | addaL => exact addressOp_stable hP h _ _ _ _
  | subxB | subxW | subxL => exact extended_stable hP h _ _ _ _ _ (subxOp_kept hP _)
  | cmpaW | cmpaL => exact compareAddress_stable hP h _ _ _
  | cmpmB | cmpmW | cmpmL => exact compareMem_stable hP h _ _ _
  | muluW | mulsW => exact mulWord_stable hP h _ _ _
  | abcd => exact extended_stable hP h _ _ _ _ _ (abcdOp_kept hP)
  | exgDxDy | exgAxAy | exgDxAy => exact exchange_stable hP h _ _
  | addBEaDn | addWEaDn | addLEaDn => exact eaToDn_stable hP h _ _ _ (addOp_kept hP _)
  | addxB | addxW | addxL => exact extended_stable hP h _ _ _ _ _ (addxOp_kept hP _)
  | asrBDxDy | asrWDxDy | asrLDxDy | aslBDxDy | aslWDxDy | aslLDxDy | lsrBDxDy | lsrWDxDy | lsrLDxDy | lslBDxDy | lslWDxDy
  | lslLDxDy | roxrBDxDy | roxrWDxDy | roxrLDxDy | roxlBDxDy | roxlWDxDy | roxlLDxDy | rorBDxDy | rorWDxDy | rorLDxDy
  | rolBDxDy | rolWDxDy | rolLDxDy => exact shiftReg_stable hP h _ _ _ _ _
  | asrEa | aslEa | lsrEa | lslEa | roxrEa | roxlEa | rorEa | rolEa => exact shiftMem_stable hP h _ _
  | bftst => exact fieldRead_stable hP h _ _ fun _ _ _ h => h
  | bfextu => exact execBfextu_stable hP h _ _ _
  | bfchg | bfclr | bfset | bfins => exact fieldModify_stable hP h _ _ _ _
  | bfexts => exact execBfexts_stable hP h _ _ _
  | bfffo => exact execBfffo_stable hP h _ _ _
  | fmoveEaFpmFpn | fsmove | fdmove | fsqrt | fssqrt | fdsqrt | fabs | fsabs | fdabs | fneg | fsneg | fdneg | fdiv | fsdiv
  | fddiv | fadd | fsadd | fdadd | fmul | fsmul | fdmul | fsub | fssub | fdsub | fcmp | ftst =>
    exact fpArith_stable hP h _ _ _ _ _
  | fintUnimplemented | fsinhUnimplemented | fintrzUnimplemented | flognp1Unimplemented | fetoxm1Unimplemented
  | ftanhUnimplemented | fatanUnimplemented | fasinUnimplemented | fatanhUnimplemented | fsinUnimplemented
  | ftanUnimplemented | fetoxUnimplemented | ftwotoxUnimplemented | ftentoxUnimplemented | flognUnimplemented
  | flog10Unimplemented | flog2Unimplemented | fcoshUnimplemented | facosUnimplemented | fcosUnimplemented
  | fgetexpUnimplemented | fgetmanUnimplemented | fmodUnimplemented | fsgldivUnimplemented | fremUnimplemented
  | fscaleUnimplemented | fsglmulUnimplemented | fsincosUnimplemented => exact unimplemented_stable hP h _ _ _ _
  | fmovecrUnimplemented => exact execFmovecrUnimplemented_stable hP h _ _
  | fmoveLFpmEa | fmoveSFpmEa | fmoveXFpmEa | fmovePKFpmEa | fmoveWFpmEa | fmoveDFpmEa | fmoveBFpmEa | fmovePDnFpmEa =>
    exact fpMoveOut_stable hP h _ _ _ _
  | fmoveLEaFpcr => exact loadControl_stable hP h _ fun _ _ h => setFpcr_stable hP h _
  | fmoveLEaFpsr => exact loadControl_stable hP h _ fun _ _ h => setFpsr_stable hP h _
  | fmoveLEaFpiar => exact loadControl_stable hP h _ fun _ _ h => setFpiar_stable hP h _
  | fmovemLEaCtrlList => exact execFmovemLEaCtrlList_stable hP h _ _
  | fmoveLFpcrEa | fmoveLFpsrEa | fmoveLFpiarEa => exact storeControl_stable hP h _ _
  | fmovemLCtrlListEa => exact execFmovemLCtrlListEa_stable hP h _ _
  | fmovemXEaList => exact execFmovemXEaList_stable hP h _ _ _
  | fmovemXListEa => exact execFmovemXListEa_stable hP h _ _ _
  | fscc => exact execFscc_stable hP h _ _
  | fdbcc => exact execFdbcc_stable hP h _ _ _
  | ftrapccW | ftrapccL | ftrapcc => exact fpTrapIf_stable hP h _ _
  | fnop => exact execFnop_stable hP h
  | fbccW | fbccL => exact fpBranch_stable hP h _ _ _
  | fsave => exact execFsave_stable hP h _
  | frestore => exact execFrestore_stable hP h _
  | cinvl | cinvp | cinva => exact memOnly_stable hP h cinv_wf
  | cpushl | cpushp | cpusha => exact cpush_stable hP h _ _
  | pflushnAn | pflushAn => exact memOnly_stable hP h flushAddr_wf
  | pflushan | pflusha => exact memOnly_stable hP h flushAll_wf
  | ptestwAn | ptestrAn => exact ptestAn_stable hP hS h _ _
  | move16AxPlusAyPlus => exact execMove16AxPlusAyPlus_stable hP h _ _
  | move16AnPlusXxxL | move16XxxLAnPlus => exact move16_stable hP h _ _ 3 fun _ h => setA_stable hP h _ _
  | move16AnXxxL | move16XxxLAn => exact move16_stable hP h _ _ 3 fun _ h => h

end Sys2Proof.Machine
end

section
/-! PROOFS. What an instruction that begins in user state leaves of the system byte and of the control registers (10_state R60,
R62; 48_system_control R961). -/

namespace Sys2Proof.Machine

/-- What an instruction that began in `r` can end with: the control registers, M and the mask as they were, and either S and the
trace bits as they were, or those that an exception sets. -/
structure UserEnd (r t : State) : Prop where
  ctl : t.ctl = r.ctl
  kept : t.sr &&& 0x1700 = r.sr &&& 0x1700
  mode : (t.super = false ∧ t.sr &&& 0xC000 = r.sr &&& 0xC000) ∨ (t.super = true ∧ t.sr &&& 0xC000 = 0)

theorem userEnd_self {s : State} (hs : s.super = false) : UserEnd s s := ⟨rfl, rfl, .inl ⟨hs, rfl⟩⟩

/-- S is a bit of the system byte. -/
theorem super_eq_of_system {s t : State} (h : t.sr &&& 0xFF00 = s.sr &&& 0xFF00) : t.super = s.super := by
  have hb := congrArg (·.getLsbD 13) h
  simpa [State.super, supervisor] using hb

theorem enterSupervisor_kept (v : Word) : enterSupervisor v &&& 0x1700 = v &&& 0x1700 :=
  and_eq_of_bits fun _ hk => enterSupervisor_bit v (range_of_bit (p := (· < 13)) hk (by decide))

theorem enterSupervisor_untraced (v : Word) : enterSupervisor v &&& 0xC000 = 0 := and_and_eq_zero (v ||| 0x2000) rfl

theorem enterSupervisor_super (v : Word) : (enterSupervisor v).getLsbD 13 = true := by
  simp [enterSupervisor]

theorem userEnd_stable (r : State) : Stable (UserEnd r) where
  keeps := fun {s t} h k => by
    obtain ⟨hctl, hkept, hmode⟩ := h
    have htrace : t.sr &&& 0xC000 = s.sr &&& 0xC000 := and_eq_of_and_eq k.system rfl
    refine ⟨k.ctl.trans hctl, (and_eq_of_and_eq k.system rfl).trans hkept, ?_⟩
    rw [super_eq_of_system k.system, htrace]
    exact hmode
  enters := fun {s} h => ⟨h.ctl, (enterSupervisor_kept s.sr).trans h.kept,
    .inr ⟨enterSupervisor_super s.sr, enterSupervisor_untraced s.sr⟩⟩
  withMem := fun h _ => { h with }
  withFpu := fun h _ => { h with }

/-- Settles O7: what an instruction may do is stable (`exec_stable`), and the privileged bodies are never reached in user
state. -/
theorem userInstructionsLeaveTheSystemByte : Obligations.UserInstructionsLeaveTheSystemByte := by
  intro i s t hs ht
  have noSupervisor : s.super = true → Supervised (UserEnd s) := fun h => absurd (hs.symm.trans h) Bool.false_ne_true
  obtain ⟨hctl, hkept, hmode⟩ := exec_stable (userEnd_stable s) noSupervisor (userEnd_self hs) i t ht
  exact ⟨hctl, hkept, hmode⟩

end Sys2Proof.Machine
end

section
/-! PROOFS. Every step keeps memory canonical and reserved bits zero: first what the processor and the outside do between
instructions, for every property that instructions keep, then the invariant as one such property (10_state R60 to R76). -/

namespace Sys2Proof.Machine

variable {P : State → Prop} {s : State}

/-! ### The fetch -/

theorem fetchMore_stable (hP : Stable P) : ∀ (k : Nat) {s : State} (ws : List Word), P s → (fetchMore k s ws).All P
  | 0, _, _, _ => trivial
  | k + 1, s, ws, h => by
    have hf : Memory.wf s.mem → Memory.wf (fetchWord s.ctl s.mem s.super (s.after ws.length)).mem := fetchWord_wf
    unfold fetchMore
    split
    · exact h
    · exact h
    · split <;> rename_i m e <;> rw [e] at hf
      · exact fetchMore_stable hP k _ (hP.frame h ⟨rfl, rfl, rfl⟩ hf)
      · exact hP.frame h ⟨rfl, rfl, rfl⟩ hf

theorem fetchInstr_stable (hP : Stable P) (h : P s) : (fetchInstr s).All P := by
  have hf : Memory.wf s.mem → Memory.wf (fetchWord s.ctl s.mem s.super s.pc).mem := fetchWord_wf
  unfold fetchInstr
  split <;> rename_i m e <;> rw [e] at hf
  · exact hP.frame h ⟨rfl, rfl, rfl⟩ hf
  · have hm : P { s with mem := m } := hP.frame h ⟨rfl, rfl, rfl⟩ hf
    dsimp only
    split
    · exact hm
    · exact fetchMore_stable hP _ _ hm

theorem rejected_stable (hP : Stable P) (h : P s) (r : Reject) : P (rejected s r) := by
  cases r <;> exact trap0_stable hP h _ _

theorem runInstruction_stable (hP : Stable P) (hS : Supervised P) (h : P s) : NextIs P (runInstruction s) := by
  have hf := fetchInstr_stable hP h
  unfold runInstruction
  split <;> rename_i e <;> rw [e] at hf
  · exact exec_stable hP (fun _ => hS) hf _
  · exact nextIs_next (rejected_stable hP hf _)
  · exact nextIs_next (trap0_stable hP hf 8 _)
  · exact nextIs_next (accessError_stable hP hf _ _ _)
  · exact fun _ e => by cases e

/-! ### Exceptions at the boundary -/

/-- The interrupt mask is bits 8 to 10 of the SR. -/
theorem withMask_bit (v : Word) (level : BitVec 3) {k : Nat} (hk : k < 8 ∨ 11 ≤ k) :
    ((v &&& 0xF8FF) ||| (level.zeroExtend 16 <<< 8)).getLsbD k = v.getLsbD k := by
  have hlevel : (level.zeroExtend 16 <<< 8 : Word).getLsbD k = false := by
    rw [BitVec.getLsbD_shiftLeft]
    rcases hk with hk | hk
    · simp [hk]
    · simp [BitVec.getLsbD_of_ge level (k - 8) (by omega)]
  have hmask : ∀ k < 16, k < 8 ∨ 11 ≤ k → (0xF8FF : Word).getLsbD k = true := by decide
  rw [BitVec.getLsbD_or, BitVec.getLsbD_and, hlevel, Bool.or_false]
  rcases Nat.lt_or_ge k 16 with h16 | h16
  · exact (congrArg _ (hmask k h16 hk)).trans (Bool.and_true _)
  · rw [BitVec.getLsbD_of_ge v k h16, Bool.false_and]

theorem withMask_reserved {v : Word} (h : v &&& 0x08E0 = 0) (level : BitVec 3) :
    ((v &&& 0xF8FF) ||| (level.zeroExtend 16 <<< 8)) &&& 0x08E0 = 0 :=
  (and_eq_of_bits fun _ hk => withMask_bit v level (range_of_bit (p := fun k => k < 8 ∨ 11 ≤ k) hk (by decide))).trans h

theorem takeInterrupt_stable (hP : Stable P) (hS : Supervised P) (h : P s) : P (takeInterrupt s) := by
  unfold takeInterrupt
  extract_lets lvl ack v s1
  have h1 : P s1 := hP.frame
    (hS.sr h fun h0 => withMask_reserved (enterSupervisor_reserved h0) lvl) ⟨rfl, rfl, rfl⟩ acknowledge_wf
  have hp := pushFrame_stable hP h1 s.sr s.pc 0 v []
  split <;> rename_i s2 e <;> rw [e] at hp
  · exact halt_stable hP hp
  · split
    · have h2 : P { s2 with sr := s2.sr &&& 0xEFFF } := hS.sr hp fun h0 => (BitVec.and_assoc _ _ _).trans h0
      have hq := pushFrame_stable hP h2 (s.sr ||| 0x2000) s.pc 1 v []
      split <;> rename_i s3 e <;> rw [e] at hq
      · exact halt_stable hP hq
      · exact enterVector_stable hP hq v
    · exact enterVector_stable hP hp v

theorem reportPush_stable (hP : Stable P) (h : P s) (p : PushFault) : P (reportPush s p) :=
  accessError_stable hP (by exact hP.frame h ⟨rfl, rfl, rfl⟩ id) _ _ _

theorem advance_stable (hP : Stable P) (hS : Supervised P) (h : P s) : NextIs P (advance s) := by
  have hs := started_stable hP h
  unfold advance
  split
  · exact nextIs_next h
  · dsimp only
    split
    · exact nextIs_next (reportPush_stable hP hs _)
    · exact nextIs_next (trap2_stable hP (by exact hP.frame hs ⟨rfl, rfl, rfl⟩ id) 9 _ _)
    · split
      · exact nextIs_next (takeInterrupt_stable hP hS hs)
      · split
        · exact nextIs_next hs
        · split
          · exact nextIs_next (addressError_stable hP hs _ _)
          · exact runInstruction_stable hP hS hs

/-! ### Reset and the other events -/

/-- Reset disables the transparent translation registers, and gives the others values without reserved bits. -/
theorem resetRegisters_stable (hP : Stable P) (hS : Supervised P) (h : P s) (modes : BitVec 5) : P (resetRegisters s modes) := by
  have hsr : (0x2700 ||| (s.sr &&& 0x001F)) &&& 0x08E0 = 0 := by
    rw [BitVec.and_or_distrib_right, and_and_eq_zero _ rfl]
    rfl
  have htc : (0x4000 : Word) &&& 0x3FFF = 0 := rfl
  have kept {v : Long} (h0 : v &&& 0x00001C9B = 0) : disableTtr v &&& 0x00001C9B = 0 := (BitVec.and_assoc _ _ _).trans h0
  refine hP.frame (fpuReset_stable hP (hS.ctl (hS.sr h fun _ => hsr) fun hc => ?_)) ⟨rfl, rfl, rfl⟩ id
  exact { hc with
    cacr := BitVec.zero_and, tc := htc
    itt0 := kept hc.itt0, itt1 := kept hc.itt1, dtt0 := kept hc.dtt0, dtt1 := kept hc.dtt1 }

theorem resetOnce_stable (hP : Stable P) (hS : Supervised P) (h : P s) (modes : BitVec 5) : P (resetOnce s modes) := by
  have hr := readVia_stable hP (resetRegisters_stable hP hS h modes) resetAccess 0 4
  unfold resetOnce
  dsimp only
  split <;> rename_i e <;> rw [e] at hr
  · exact halt_stable hP hr
  · rename_i isp u
    have hu : P { u with a := { u.a with isp := isp } } := hP.frame hr ⟨rfl, rfl, rfl⟩ id
    have hv := readVia_stable hP hu resetAccess 4 4
    split <;> rename_i e <;> rw [e] at hv
    · exact halt_stable hP hv
    · split
      · exact hP.frame hv ⟨rfl, rfl, rfl⟩ id
      · exact fillPipe_stable hP (by exact hP.frame hv ⟨rfl, rfl, rfl⟩ id)

theorem resetUntil_stable (hP : Stable P) (hS : Supervised P) : ∀ (k : Nat) {s : State} (modes : BitVec 5), P s →
    P (resetUntil k s modes)
  | 0, _, modes, h => resetOnce_stable hP hS h modes
  | k + 1, s, modes, h => by
    have ht := resetOnce_stable hP hS h modes
    unfold resetUntil
    dsimp only
    split
    · exact ht
    · exact resetUntil_stable hP hS k _ ht

theorem applyReset_stable (hP : Stable P) (hS : Supervised P) (h : P s) (modes : BitVec 5) : P (applyReset s modes) :=
  resetUntil_stable hP hS _ modes h

theorem endReset_stable (hP : Stable P) (hS : Supervised P) (h : P s) {t : State} (ht : P t) : P (endReset s t) := by
  unfold endReset
  split
  · exact ht
  · exact applyReset_stable hP hS (by exact hP.frame (hP.withMem h ht) ⟨rfl, rfl, rfl⟩ id) _

theorem applyLevel_stable (hP : Stable P) (h : P s) (level : BitVec 3) (r : Iack) : P (applyLevel s level r) := by
  unfold applyLevel
  split
  · exact hP.frame h ⟨rfl, rfl, rfl⟩ id
  · exact hP.frame h ⟨rfl, rfl, rfl⟩ id

theorem applyPrefetch_stable (hP : Stable P) (hS : Supervised P) (h : P s) (la : Long) (other : Bool) :
    P (applyPrefetch s la other) := by
  unfold applyPrefetch
  split
  · exact endReset_stable hP hS h (hP.frame h ⟨rfl, rfl, rfl⟩ fun hm => prefetch_wf hm)
  · exact h

theorem applyEvent_stable (hP : Stable P) (hS : Supervised P) (h : P s) (e : Event) : P (applyEvent s e) := by
  cases e with
  | reset modes => exact applyReset_stable hP hS h modes
  | interrupt level r => exact applyLevel_stable hP h level r
  | pins | snoopRead | snoopWrite => exact hP.frame h ⟨rfl, rfl, rfl⟩ apply_wf
  | within => exact hP.frame h ⟨rfl, rfl, rfl⟩ id
  | prefetch la other => exact applyPrefetch_stable hP hS h la other

theorem step_stable (hP : Stable P) (hS : Supervised P) (h : P s) : NextIs P (step s) := by
  have ha := advance_stable hP hS h
  unfold step
  split
  · exact nextIs_next (applyEvent_stable hP hS (by exact hP.frame h ⟨rfl, rfl, rfl⟩ id) _)
  · split
    · rename_i t e
      exact nextIs_next (endReset_stable hP hS h (ha t e))
    · exact ha

/-! ### The invariant -/

theorem Reserved.clean (h : Reserved s) : s.ctl.Clean := ⟨h.cacr, h.tc, h.itt0, h.itt1, h.dtt0, h.dtt1, h.urp, h.srp, h.mmusr⟩

theorem reserved_of_clean (hsr : s.sr &&& 0x08E0 = 0) (hc : s.ctl.Clean) (hf : s.fpu.fpcr &&& 0xFFFF000F = 0) : Reserved s :=
  ⟨hsr, hc.cacr, hc.tc, hc.itt0, hc.itt1, hc.dtt0, hc.dtt1, hc.urp, hc.srp, hc.mmusr, hf⟩

/-- The reserved bits of the SR are one in the system byte and three beside it. -/
theorem srReserved_iff (v : Word) : v &&& 0x08E0 = 0 ↔ v &&& 0x0800 = 0 ∧ v &&& 0x00E0 = 0 := by
  have hsplit : v &&& 0x08E0 = (v &&& 0x0800) ||| (v &&& 0x00E0) := by
    rw [← BitVec.and_or_distrib_left]
    rfl
  constructor
  · intro h
    exact ⟨(and_eq_of_and_eq (h.trans BitVec.zero_and.symm) rfl).trans BitVec.zero_and,
      (and_eq_of_and_eq (h.trans BitVec.zero_and.symm) rfl).trans BitVec.zero_and⟩
  · rintro ⟨h1, h2⟩
    rw [hsplit, h1, h2]
    rfl

theorem inv_stable : Stable Inv where
  keeps := fun {s t} h k => by
    obtain ⟨hm, hr⟩ := h
    obtain ⟨hhigh, hlow⟩ := (srReserved_iff s.sr).1 hr.sr
    have hsr := (srReserved_iff t.sr).2 ⟨(and_eq_of_and_eq k.system rfl).trans hhigh, k.low hlow⟩
    have hc : t.ctl.Clean := k.ctl ▸ hr.clean
    exact ⟨k.mem hm, reserved_of_clean hsr hc (k.fpcr hr.fpcr)⟩
  enters := fun h => ⟨h.mem, { h.reserved with sr := enterSupervisor_reserved h.reserved.sr }⟩
  withMem := fun h hu => ⟨hu.mem, { h.reserved with }⟩
  withFpu := fun h hu => ⟨h.mem, { h.reserved with fpcr := hu.reserved.fpcr }⟩

theorem inv_supervised : Supervised Inv where
  sr := fun h hv => ⟨h.mem, { h.reserved with sr := hv h.reserved.sr }⟩
  ctl := fun h hc => ⟨h.mem, reserved_of_clean h.reserved.sr (hc h.reserved.clean) h.reserved.fpcr⟩

/-- Settles O6: a step does nothing but what every stable property survives (`step_stable`), and the invariant is stable. -/
theorem everyStepKeepsTheInvariant : Obligations.EveryStepKeepsTheInvariant := by
  intro s t h ht
  exact step_stable inv_stable inv_supervised h t ht

/-- Settles O5: every field that the invariant speaks of has its reset value. -/
theorem resetSatisfiesTheInvariant : Obligations.ResetSatisfiesTheInvariant :=
  ⟨reset_wf, reserved_of_clean rfl ⟨rfl, rfl, rfl, rfl, rfl, rfl, rfl, rfl, rfl⟩ rfl⟩

/-- Settles O4, by evaluation of the reset state. -/
theorem resetHoldsTheValuesOfTheSpec : Obligations.ResetHoldsTheValuesOfTheSpec := by
  have hfp (n : BitVec 3) : State.reset.getFp n = ⟨false, 0x7FFF, 0xFFFFFFFFFFFFFFFF⟩ := by
    rcases reg_cases n with h | h | h | h | h | h | h | h <;> subst h <;> rfl
  have httr : ∀ r ∈ [State.reset.ctl.itt0, State.reset.ctl.itt1, State.reset.ctl.dtt0, State.reset.ctl.dtt1],
      r.getLsbD 15 = false := by
    simp only [List.forall_mem_cons]
    exact ⟨rfl, rfl, rfl, rfl, fun _ h => absurd h List.not_mem_nil⟩
  exact ⟨rfl, rfl, rfl, rfl, httr, hfp, rfl, rfl, rfl, rfl, rfl⟩

end Sys2Proof.Machine
end

section
/-! PROOFS. Taking an exception in the flat configuration: the fields of a frame that lie end to end are stored as the bytes of
the frame, and the handler is entered. Trace and interrupt at the instruction boundary (10_state R61, R88; 60_exceptions R1125,
R1131, R1132). -/

namespace Sys2Proof.Machine

variable {s : State}

/-! ### Frames -/

/-- The bytes of the fields of a frame. -/
def fieldBytes (fs : List Field) : List Byte := fs.flatMap fun f => toBytes f.value f.size

/-- The fields lie end to end from an offset on. -/
def EndToEnd : Nat → List Field → Prop
  | _, [] => True
  | k, f :: fs => f.off = k ∧ EndToEnd (k + f.size) fs

/-- Fields that lie end to end are stored as one row of bytes. -/
theorem ramAfter_fieldWrites (base : Long) : ∀ {fs : List Field} {k : Nat} (_ : EndToEnd k fs) (ram : List Host.Cell),
    ramAfter ram (fieldWrites base fs) = putBytes ram 0 (base + BitVec.ofNat 32 k) (fieldBytes fs)
  | [], _, _, _ => rfl
  | f :: fs, k, h, ram => by
    obtain ⟨hk, h⟩ := h
    have hrow := putBytes_append 0 (toBytes f.value f.size) (fieldBytes fs) ram (base + BitVec.ofNat 32 k)
    rw [toBytes_length, BitVec.add_assoc, ← BitVec.ofNat_add] at hrow
    calc ramAfter ram (fieldWrites base (f :: fs))
        = ramAfter (putBytes ram 0 (base + BitVec.ofNat 32 k) (toBytes f.value f.size)) (fieldWrites base fs) := by
          rw [← hk]
          rfl
      _ = putBytes ram 0 (base + BitVec.ofNat 32 k) (toBytes f.value f.size ++ fieldBytes fs) := by
          rw [ramAfter_fieldWrites base h, hrow]

/-- The fields that a frame of a format adds to the first four words. -/
structure FrameFields (format : BitVec 4) (extra : List Field) : Prop where
  row : EndToEnd 8 extra
  size : frameSize format = 8 + (fieldBytes extra).length

theorem frameFields_zero : FrameFields 0 [] := ⟨trivial, rfl⟩

theorem frameFields_one : FrameFields 1 [] := ⟨trivial, rfl⟩

theorem frameFields_two (addr : Long) : FrameFields 2 [⟨8, 4, addr⟩] := ⟨⟨rfl, trivial⟩, rfl⟩

theorem fieldBytes_frame (sr : Word) (spc : Long) (format : BitVec 4) (vector : BitVec 8) (extra : List Field) :
    fieldBytes (frameHead sr spc format vector ++ extra) = frameBytes sr spc format vector (fieldBytes extra) := by
  simp [fieldBytes, frameHead, frameBytes]

theorem frameBytes_length (sr : Word) (spc : Long) (format : BitVec 4) (vector : BitVec 8) (extra : List Byte) :
    (frameBytes sr spc format vector extra).length = 8 + extra.length := by
  simp [frameBytes]
  omega

theorem frameSize_le (format : BitVec 4) : frameSize format ≤ 60 := by
  unfold frameSize
  split
  · omega
  · split <;> omega

/-- A frame pushed in the flat configuration is stored below the stack pointer, which then points to it. -/
theorem pushFrame_flat (h : Flat s) {format : BitVec 4} {extra : List Field} (hf : FrameFields format extra) (sr : Word)
    (spc : Long) (vector : BitVec 8) :
    ∃ p, pushFrame s sr spc format vector extra = .ok ()
      ((s.setA 7 (s.getA 7 - BitVec.ofNat 32 (frameSize format))).stored
        (putBytes s.mem.ram 0 (s.getA 7 - BitVec.ofNat 32 (frameSize format))
          (frameBytes sr spc format vector (fieldBytes extra))) p) := by
  have hrow : EndToEnd 0 (frameHead sr spc format vector ++ extra) := ⟨rfl, rfl, rfl, hf.row⟩
  obtain ⟨p, e⟩ := writeFields_flat (s.getA 7 - BitVec.ofNat 32 (frameSize format)) (frameHead sr spc format vector ++ extra)
    (s := s.setA 7 (s.getA 7 - BitVec.ofNat 32 (frameSize format))) (h.of_eq rfl rfl rfl rfl)
  rw [ramAfter_fieldWrites _ hrow, fieldBytes_frame, BitVec.add_zero] at e
  exact ⟨p, by simp only [pushFrame, getA_setA_self, e, setA_mem]⟩

/-! ### Entering a handler -/

/-- The vector is even: its handler is entered. -/
theorem enterVector_even (h : Flat s) {vector : BitVec 8} {handler : Long}
    (hv : s.valueAt (s.ctl.vbr + 4 * vector.zeroExtend 32) 4 = handler) (he : handler.getLsbD 0 = false) :
    ∃ p q, Refilled s.mem.ram handler q ∧ enterVector s vector = { s with
      pc := handler, trace := none, movemEa := none, run := .normal, mem := { s.mem with pipe := q, stale := p } } := by
  subst hv
  refine ⟨s.mem.stale.filter (·.stage ≠ .synchronized), _, handlerPipe_refilled _ _, ?_⟩
  rw [enterVector_flat h]
  exact if_neg (by rw [he]; exact Bool.false_ne_true)

/-- The vector is odd: the processor halts. -/
theorem enterVector_odd (h : Flat s) {vector : BitVec 8}
    (ho : (s.valueAt (s.ctl.vbr + 4 * vector.zeroExtend 32) 4).getLsbD 0 = true) : (enterVector s vector).run = .halted := by
  rw [enterVector_flat h, if_pos ho]
  rfl

/-- Whether the handler's address is even or odd, no reset strikes on the way to it. -/
theorem enterVector_struck (h : Flat s) (vector : BitVec 8) : (enterVector s vector).mem.struck = none := by
  have hs : s.mem.struck = none := (quiet_iff.1 h.bus).2.2.2.1
  rw [enterVector_flat h]
  split
  · exact hs
  · exact hs

/-- The memory of a frame, and a pc, give what `Enters` says of the bytes. -/
theorem enters_of_eq {vector : BitVec 8} {format : BitVec 4} {spc : Long} {extra : List Byte} {t : State}
    (hlen : 8 + extra.length ≤ 60)
    (ht : ∃ p k q, Refilled (exceptionRam s vector format spc extra) (handlerOf s vector format spc extra) q ∧ t = { s with
      sr := exceptionSr s.sr
      a := s.a.set (exceptionSr s.sr) 7 (exceptionSp s extra)
      pc := handlerOf s vector format spc extra
      mem := { s.mem with ram := exceptionRam s vector format spc extra, pipe := q, stale := p, draws := k }
      trace := none, movemEa := none, run := .normal }) : Enters s vector format spc extra t := by
  have hram : t.mem.ram = exceptionRam s vector format spc extra := by
    obtain ⟨p, k, q, -, rfl⟩ := ht
    rfl
  have hbytes := frameBytes_length s.sr spc format vector extra
  refine ⟨ht, putBytes_same hbytes hram, fun hw => ?_⟩
  rw [State.bytesAt, hram, ← hbytes]
  exact getBytes_putBytes hw.1 (by rw [hbytes]; omega)

/-- Taking an exception in the flat configuration enters its vector with the frame stored. -/
theorem takeException_frame (h : Flat s) {format : BitVec 4} {extra : List Field} (hf : FrameFields format extra) (spc : Long)
    (vector : BitVec 8) :
    ∃ p, takeException s vector format spc extra = enterVector ({ s with
      sr := exceptionSr s.sr, a := s.a.set (exceptionSr s.sr) 7 (exceptionSp s (fieldBytes extra)) }.stored
        (exceptionRam s vector format spc (fieldBytes extra)) p) vector := by
  obtain ⟨p, e⟩ := pushFrame_flat (s := { s with sr := exceptionSr s.sr }) (h.of_eq rfl rfl rfl rfl) hf s.sr spc vector
  have hsp : exceptionSp s (fieldBytes extra) = s.a.get (exceptionSr s.sr) 7 - BitVec.ofNat 32 (frameSize format) := by
    rw [exceptionSp, hf.size]
  have hpush : pushFrame { s with sr := enterSupervisor s.sr } s.sr spc format vector extra = _ := e
  refine ⟨p, ?_⟩
  rw [takeException, started_of_unserialized h.serial, hpush, exceptionRam, hsp]
  rfl

/-- Taking an exception in the flat configuration, whatever the address of its handler; no reset strikes meanwhile. -/
theorem takeException_takes (h : Flat s) {format : BitVec 4} {extra : List Field} (hf : FrameFields format extra) (spc : Long)
    (vector : BitVec 8) :
    Takes s vector format spc (fieldBytes extra) (takeException s vector format spc extra) ∧
      (takeException s vector format spc extra).mem.struck = none := by
  obtain ⟨p, e⟩ := takeException_frame h hf spc vector
  have hu : Flat { s with sr := exceptionSr s.sr, a := s.a.set (exceptionSr s.sr) 7 (exceptionSp s (fieldBytes extra)) } :=
    h.of_eq rfl rfl rfl rfl
  have hst := hu.stored (exceptionRam s vector format spc (fieldBytes extra)) p
  rw [e]
  refine ⟨?_, enterVector_struck hst vector⟩
  unfold Takes
  split
  · rename_i ho
    exact enterVector_odd hst ho
  · rename_i he
    obtain ⟨p', q, hq, e'⟩ := enterVector_even hst (vector := vector) rfl (Bool.eq_false_iff.2 he)
    exact enters_of_eq (hf.size ▸ frameSize_le format) ⟨p', s.mem.draws, q, hq, e'⟩

end Sys2Proof.Machine
end

section
/-! PROOFS. Trace and interrupt at the instruction boundary, and the halted and the stopped processor (10_state R61, R88;
60_exceptions R1072, R1125, R1131, R1132). -/

namespace Sys2Proof.Machine

variable {s : State}

/-! ### The trace that an instruction leaves -/

theorem traceBits {v c : Word} (h : v &&& 0xC000 = c) : v.getLsbD 15 = c.getLsbD 15 ∧ v.getLsbD 14 = c.getLsbD 14 := by
  subst h
  simp

theorem traced_of_bits {v c : Word} (h : v &&& 0xC000 = c) (m : MemSys) (flow : Bool) : traced v m flow = traced c m flow := by
  obtain ⟨h15, h14⟩ := traceBits h
  simp only [traced, h15, h14]

/-- An instruction that ends at an even pc leaves its address if it is traced. -/
theorem endInstr_trace (s0 : State) (flow : Bool) (he : s.pc.getLsbD 0 = false) :
    (endInstr s0 s flow).trace = if traced s0.sr s.mem flow then some s0.pc else none := by
  have ht : (s0.settleTrace s flow).pc.getLsbD 0 = false := he
  unfold endInstr endInstrEa
  simp only [ht, Bool.false_and, Bool.false_eq_true, if_false]
  cases flow <;> rfl

theorem nop_trace (h : Ready s) :
    ∃ t, exec .nop s = .next t ∧ t.trace = if traced s.sr s.mem.synchronize false then some s.pc else none :=
  ⟨_, rfl, endInstr_trace (s := { s with mem := s.mem.synchronize, pc := s.after 1 }) s false (h.after_even 1)⟩

theorem bra_trace {disp : BrDisp} (he : (branchTarget s (brValue disp)).getLsbD 0 = false) :
    ∃ t, exec (.bra disp) s = .next t ∧ t.trace = if traced s.sr s.mem true then some s.pc else none :=
  ⟨_, rfl, endInstr_trace (s := { s with pc := branchTarget s (brValue disp) }) s true he⟩

/-! ### The boundary -/

/-- A step without an event and without a reset meanwhile is what the processor does by itself. -/
theorem step_of_advance {t : State} (hi : s.inputs = []) (ha : advance s = .next t) (ht : t.mem.struck = none) :
    step s = .next t := by
  simp only [step, hi, ha, endReset, ht]

theorem Flat.struck (h : Flat s) : s.mem.struck = none := (quiet_iff.1 h.bus).2.2.2.1

theorem advance_trace (h : Flat s) (hr : s.run ≠ .halted) {pc : Long} (ht : s.trace = some pc) :
    advance s = .next (takeTrace s pc) := by
  simp only [advance, hr, if_false, started_of_unserialized h.serial, h.push, ht]

theorem advance_interrupt (h : Flat s) (hr : s.run ≠ .halted) (ht : s.trace = none) (hp : s.interruptPending = true) :
    advance s = .next (takeInterrupt s) := by
  simp only [advance, hr, if_false, started_of_unserialized h.serial, h.push, ht, hp, if_true]

theorem advance_stopped (h : Flat s) (hr : s.run = .stopped) (ht : s.trace = none) (hp : s.interruptPending = false) :
    advance s = .next s := by
  simp [advance, hr, started_of_unserialized h.serial, h.push, ht, hp]

/-- The trace exception names the traced instruction in its frame. -/
theorem step_trace (h : Flat s) (hi : s.inputs = []) (hr : s.run ≠ .halted) {pc : Long} (ht : s.trace = some pc) :
    ∃ t, step s = .next t ∧ Takes s 9 2 s.pc (toBytes pc 4) t := by
  obtain ⟨htakes, hstruck⟩ := takeException_takes (s := { s with trace := none }) (h.of_eq rfl rfl rfl rfl)
    (frameFields_two pc) s.pc 9
  refine ⟨takeTrace s pc, step_of_advance hi (advance_trace h hr ht) hstruck, ?_⟩
  have hbytes : fieldBytes [⟨8, 4, pc⟩] = toBytes pc 4 := List.append_nil _
  rw [hbytes] at htakes
  exact htakes

/-! ### The interrupt -/

/-- The status register after the entry of an interrupt: as after an exception, with the level as mask. -/
def interruptSr (sr : Word) (level : BitVec 3) : Word := (exceptionSr sr &&& 0xF8FF) ||| (level.zeroExtend 16 <<< 8)

theorem interruptSr_supervisor (sr : Word) (level : BitVec 3) : supervisor (interruptSr sr level) = true :=
  (withMask_bit (exceptionSr sr) level (by omega)).trans (enterSupervisor_super sr)

theorem interruptSr_master (sr : Word) (level : BitVec 3) : master (interruptSr sr level) = master sr :=
  (withMask_bit (exceptionSr sr) level (by omega)).trans (enterSupervisor_bit sr (by omega))

/-- An interrupt selects the stack that an exception selects. -/
theorem interruptSr_stack (sr : Word) (level : BitVec 3) :
    supervisor (interruptSr sr level) = supervisor (exceptionSr sr) ∧ master (interruptSr sr level) = master (exceptionSr sr) :=
  ⟨withMask_bit (exceptionSr sr) level (by omega), withMask_bit (exceptionSr sr) level (by omega)⟩

/-- Taking a latched interrupt clears the latch. -/
theorem interrupt_unlatched (latch : Bool) (ipl : BitVec 3) :
    (latch && (if latch then (7 : BitVec 3) else ipl) != 7) = false := by
  cases latch <;> rfl

/-- The state in which the first frame of an interrupt has been pushed, `p` being stale instruction words. -/
def interruptFrame (s : State) (p : List StaleWord) : State :=
  { s with
    sr := interruptSr s.sr s.interruptLevel, nmiLatch := false
    a := s.a.set (exceptionSr s.sr) 7 (exceptionSp s []) }.stored
      (exceptionRam s (s.iack.vectorFor s.interruptLevel) 0 s.pc []) p

theorem interruptFrame_flat (h : Flat s) (p : List StaleWord) : Flat (interruptFrame s p) := h.of_eq rfl rfl rfl rfl

/-- The state in which the throwaway frame is pushed: the interrupt stack is selected. -/
def throwawayState (s : State) (p : List StaleWord) : State :=
  { interruptFrame s p with sr := interruptSr s.sr s.interruptLevel &&& 0xEFFF }

theorem throwawayState_flat (h : Flat s) (p : List StaleWord) : Flat (throwawayState s p) := h.of_eq rfl rfl rfl rfl

/-- What an interrupt does once its first frame is pushed: from the interrupt stack it enters the handler, from the master stack
it first pushes the throwaway frame. -/
theorem takeInterrupt_frame (h : Flat s) : ∃ p, takeInterrupt s =
    if master s.sr then
      match pushFrame (throwawayState s p) (s.sr ||| 0x2000) s.pc 1 (s.iack.vectorFor s.interruptLevel) [] with
      | .fail _ u => u.halt
      | .ok _ u => enterVector u (s.iack.vectorFor s.interruptLevel)
    else enterVector (interruptFrame s p) (s.iack.vectorFor s.interruptLevel) := by
  obtain ⟨hsup, hmas⟩ := interruptSr_stack s.sr s.interruptLevel
  obtain ⟨p, e⟩ := pushFrame_flat (s := { s with sr := interruptSr s.sr s.interruptLevel, nmiLatch := false })
    (h.of_eq rfl rfl rfl rfl) frameFields_zero s.sr s.pc (s.iack.vectorFor s.interruptLevel)
  have hframe : pushFrame { s with sr := interruptSr s.sr s.interruptLevel, nmiLatch := false } s.sr s.pc 0
      (s.iack.vectorFor s.interruptLevel) [] = .ok () (interruptFrame s p) := by
    rw [e]
    simp only [State.getA, State.setA, AddrRegs.get_congr s.a hsup hmas, AddrRegs.set_congr s.a hsup hmas]
    rfl
  have hlatch : (s.nmiLatch && s.interruptLevel != 7) = false := interrupt_unlatched s.nmiLatch s.ipl
  refine ⟨p, ?_⟩
  unfold takeInterrupt
  extract_lets lvl ack v s1
  have hack : ack = (none, s.mem) := acknowledge_quiet h.bus lvl _
  have hv : v = s.iack.vectorFor s.interruptLevel := by simp only [v, hack, Option.map_none, Option.getD_none, lvl]
  have hs1 : s1 = { s with sr := interruptSr s.sr s.interruptLevel, nmiLatch := false } := by
    simp only [s1, hack, lvl, hlatch]
    rfl
  rw [hv, hs1, hframe, ← interruptSr_master s.sr s.interruptLevel]
  rfl

theorem interruptPending_iff :
    s.interruptPending = true ↔ s.nmiLatch = true ∨ (s.sr.extractLsb' 8 3).toNat < s.ipl.toNat := by
  rw [State.interruptPending, Bool.or_eq_true, decide_eq_true_iff, or_comm]

/-- An interrupt from the interrupt stack differs from any other exception in the mask and the latch. -/
theorem step_interrupt (h : Flat s) (hi : s.inputs = []) (hr : s.run ≠ .halted) (ht : s.trace = none)
    (hp : s.interruptPending = true) (hm : master s.sr = false) {v : BitVec 8} (hv : s.iack.vectorFor s.interruptLevel = v)
    (he : (handlerOf s v 0 s.pc []).getLsbD 0 = false) :
    ∃ t u, step s = .next t ∧ Enters s v 0 s.pc [] u ∧
      t = { u with sr := interruptSr s.sr s.interruptLevel, nmiLatch := false } := by
  subst hv
  obtain ⟨p, e⟩ := takeInterrupt_frame h
  rw [hm, if_neg Bool.false_ne_true] at e
  have hflat := interruptFrame_flat h p
  have hstruck : (takeInterrupt s).mem.struck = none := by
    rw [e]
    exact enterVector_struck hflat _
  obtain ⟨p', q, hq, e'⟩ := enterVector_even hflat rfl he
  exact ⟨_, _, step_of_advance hi (advance_interrupt h hr ht hp) hstruck,
    enters_of_eq (by decide) ⟨p', s.mem.draws, q, hq, rfl⟩, e.trans e'⟩

/-! ### The throwaway frame -/

theorem AddrRegs.master_stack (a : AddrRegs) {sr : Word} (hs : supervisor sr = true) (hm : master sr = true) (v : Long) :
    a.get sr 7 = a.msp ∧ a.set sr 7 v = { a with msp := v } := by
  simp [AddrRegs.get, AddrRegs.set, hs, hm]

theorem AddrRegs.interrupt_stack (a : AddrRegs) {sr : Word} (hs : supervisor sr = true) (hm : master sr = false) (v : Long) :
    a.get sr 7 = a.isp ∧ a.set sr 7 v = { a with isp := v } := by
  simp [AddrRegs.get, AddrRegs.set, hs, hm]

theorem clearMaster (v : Word) : supervisor (v &&& 0xEFFF) = supervisor v ∧ master (v &&& 0xEFFF) = false := by
  simp [supervisor, master]

/-- From master state the first frame goes on the master stack. -/
theorem throwawayState_master (hm : master s.sr = true) (p : List StaleWord) :
    throwawayState s p = { s with
      sr := interruptSr s.sr s.interruptLevel &&& 0xEFFF, nmiLatch := false
      a := { s.a with msp := s.a.msp - 8 }
      mem := { s.mem with
        ram := putBytes s.mem.ram 0 (s.a.msp - 8) (frameBytes s.sr s.pc 0 (s.iack.vectorFor s.interruptLevel) [])
        stale := p } } := by
  have hmaster : master (exceptionSr s.sr) = true := (enterSupervisor_bit s.sr (by omega)).trans hm
  obtain ⟨hget, hset⟩ := s.a.master_stack (sr := exceptionSr s.sr) (enterSupervisor_super s.sr) hmaster (s.a.msp - 8)
  have hsp : exceptionSp s [] = s.a.msp - 8 := by rw [exceptionSp, hget]; rfl
  rw [throwawayState, interruptFrame, exceptionRam, hsp, hset]
  rfl

/-- A frame on the interrupt stack. -/
theorem pushFrame_interruptStack (h : Flat s) (hs : supervisor s.sr = true) (hm : master s.sr = false) (sr : Word) (spc : Long)
    (vector : BitVec 8) :
    ∃ p, pushFrame s sr spc 1 vector [] = .ok () ({ s with a := { s.a with isp := s.a.isp - 8 } }.stored
      (putBytes s.mem.ram 0 (s.a.isp - 8) (frameBytes sr spc 1 vector [])) p) := by
  obtain ⟨hget, hset⟩ := s.a.interrupt_stack hs hm (s.a.isp - 8)
  obtain ⟨p, e⟩ := pushFrame_flat h frameFields_one sr spc vector
  have hsp : s.getA 7 - BitVec.ofNat 32 (frameSize 1) = s.a.isp - 8 := by rw [State.getA, hget]; rfl
  rw [hsp, State.setA, hset] at e
  exact ⟨p, e⟩

/-- An interrupt from master state pushes a second frame, on the interrupt stack, with S set in its SR. -/
theorem takeInterrupt_master (h : Flat s) (hm : master s.sr = true) : ∃ p p1,
    takeInterrupt s = enterVector
      ({ throwawayState s p with a := { s.a with msp := s.a.msp - 8, isp := s.a.isp - 8 } }.stored
        (putBytes (throwawayState s p).mem.ram 0 (s.a.isp - 8)
          (frameBytes (s.sr ||| 0x2000) s.pc 1 (s.iack.vectorFor s.interruptLevel) [])) p1)
      (s.iack.vectorFor s.interruptLevel) := by
  obtain ⟨hsup, hmas⟩ := clearMaster (interruptSr s.sr s.interruptLevel)
  obtain ⟨p, e⟩ := takeInterrupt_frame h
  have ha : (throwawayState s p).a = { s.a with msp := s.a.msp - 8 } := by rw [throwawayState_master hm]
  obtain ⟨p1, e1⟩ := pushFrame_interruptStack (throwawayState_flat h p)
    (hsup.trans (interruptSr_supervisor s.sr s.interruptLevel)) hmas (s.sr ||| 0x2000) s.pc (s.iack.vectorFor s.interruptLevel)
  rw [hm, if_pos rfl, e1, ha] at e
  exact ⟨p, p1, e⟩

/-- The step that takes an interrupt from master state. -/
theorem step_interrupt_master (h : Flat s) (hi : s.inputs = []) (hr : s.run ≠ .halted) (ht : s.trace = none)
    (hp : s.interruptPending = true) (hm : master s.sr = true) {v : BitVec 8} (hv : s.iack.vectorFor s.interruptLevel = v)
    {ram1 ram2 : List Host.Cell} (h1 : putBytes s.mem.ram 0 (s.a.msp - 8) (frameBytes s.sr s.pc 0 v []) = ram1)
    (h2 : putBytes ram1 0 (s.a.isp - 8) (frameBytes (s.sr ||| 0x2000) s.pc 1 v []) = ram2) {handler : Long}
    (hh : ofBytes (getBytes ram2 0 (s.ctl.vbr + 4 * v.zeroExtend 32) 4) = handler) (he : handler.getLsbD 0 = false) :
    ∃ p k q, Refilled ram2 handler q ∧ step s = .next { s with
      sr := interruptSr s.sr s.interruptLevel &&& 0xEFFF
      a := { s.a with msp := s.a.msp - 8, isp := s.a.isp - 8 }
      pc := handler
      mem := { s.mem with ram := ram2, pipe := q, stale := p, draws := k }
      trace := none, movemEa := none, run := .normal, nmiLatch := false } := by
  obtain ⟨p, p1, e⟩ := takeInterrupt_master h hm
  rw [throwawayState_master hm, hv, h1, h2] at e
  have hflat : Flat ({ s with
    sr := interruptSr s.sr s.interruptLevel &&& 0xEFFF, nmiLatch := false
    a := { s.a with msp := s.a.msp - 8, isp := s.a.isp - 8 }, mem := { s.mem with ram := ram2, stale := p1 } }) :=
    h.of_eq rfl rfl rfl rfl
  obtain ⟨p2, q, hq, e2⟩ := enterVector_even hflat (vector := v) (handler := handler) hh he
  exact ⟨p2, s.mem.draws, q, hq,
    step_of_advance hi ((advance_interrupt h hr ht hp).trans (congrArg Host.Outcome.next (e.trans e2))) h.struck⟩

/-! ### The obligation -/

/-- A halted processor stays as it is, and a stopped one for which nothing is due. -/
theorem step_idle (h : Flat s) (hi : s.inputs = [])
    (hr : s.run = .halted ∨ (s.run = .stopped ∧ s.trace = none ∧ s.nmiLatch = false ∧
      s.ipl.toNat ≤ (s.sr.extractLsb' 8 3).toNat)) : step s = .next s := by
  refine step_of_advance hi ?_ h.struck
  rcases hr with hr | ⟨hr, ht, hlatch, hmask⟩
  · simp only [advance, hr, if_true]
  · have hp : s.interruptPending = false := by
      rw [Bool.eq_false_iff, Ne, interruptPending_iff, hlatch]
      rintro (⟨⟨⟩⟩ | hlt)
      omega
    exact advance_stopped h hr ht hp

/-- Settles O11: the trace of NOP and BRA, the exceptions that the boundary takes, and the processor that does nothing. -/
theorem traceAndInterruptAtTheBoundary : Obligations.TraceAndInterruptAtTheBoundary := by
  refine ⟨fun s disp h => ?_, ?_, fun s h hi hr => step_idle h hi hr⟩
  · obtain ⟨t, e, ht⟩ := nop_trace h
    refine ⟨fun hb => ⟨t, e, ?_⟩, fun hb => ⟨t, e, ?_⟩, fun _ => ⟨t, e, ?_⟩, fun hb heven => ?_,
      fun pc htrace hi hr => step_trace h.flat hi hr htrace⟩
    · rw [ht, traced_of_bits hb]
      rfl
    · rcases hb with hb | hb <;> rw [ht, traced_of_bits hb] <;> rfl
    · rw [ht]
      split
      · exact .inr rfl
      · exact .inl rfl
    · obtain ⟨t, e, ht⟩ := bra_trace heven
      refine ⟨t, e, ?_⟩
      rw [ht, traced_of_bits hb]
      rfl
  · intro s h hi hr ht hdue level v sr
    have hp : s.interruptPending = true := interruptPending_iff.2 hdue
    have hv : s.iack.vectorFor s.interruptLevel = v := by
      simp only [v, level, State.interruptLevel]
      cases s.iack <;> rfl
    exact ⟨fun hm he => step_interrupt h hi hr ht hp hm hv he,
      fun hm he => step_interrupt_master h hi hr ht hp hm hv rfl rfl rfl he⟩

end Sys2Proof.Machine
end

section
/-! PROOFS. The address translation caches: what a lookup finds, what a search loads (21_mmu R230, R235), and the
transparent translation registers (R224). -/

namespace Sys2Proof.Machine

variable {c : Control} {m : MemSys} {instr fc2 wr : Bool} {la : Long}

/-- A field of a field. -/
theorem extractLsb'_of_field {w lo n lo' n' : Nat} (x : BitVec w) (h : lo' + n' ≤ n) :
    (x.extractLsb' lo n).extractLsb' lo' n' = x.extractLsb' (lo + lo') n' := by
  refine BitVec.eq_of_getLsbD_eq fun k hk => ?_
  rw [BitVec.getLsbD_extractLsb', BitVec.getLsbD_extractLsb', BitVec.getLsbD_extractLsb',
    decide_eq_true (show lo' + k < n by omega), Bool.true_and, Nat.add_assoc]

/-! ### Transparent translation -/

/-- The masked comparison of an address byte, bit by bit. -/
theorem maskedByte_eq_zero_iff (x y mask : BitVec 8) :
    (x ^^^ y) &&& ~~~mask = 0 ↔ ∀ k < 8, mask.getLsbD k = true ∨ x.getLsbD k = y.getLsbD k := by
  rw [BitVec.eq_of_getLsbD_eq_iff]
  refine forall₂_congr fun k hk => ?_
  have hzero : (0 : BitVec 8).getLsbD k = false := BitVec.getLsbD_zero
  rw [BitVec.getLsbD_and, BitVec.getLsbD_xor, BitVec.getLsbD_not, hzero, decide_eq_true hk, Bool.true_and,
    Bool.and_eq_false_iff, or_comm]
  simp only [Bool.not_eq_false', bne_eq_false_iff_eq]

theorem ttrMatches_iff (r la : Long) (fc2 : Bool) :
    ttrMatches r la fc2 = true ↔ r.getLsbD 15 = true ∧
      (∀ k < 8, r.getLsbD (16 + k) = true ∨ la.getLsbD (24 + k) = r.getLsbD (24 + k)) ∧
      (r.getLsbD 14 = true ∨ r.getLsbD 13 = fc2) := by
  have hbyte := maskedByte_eq_zero_iff (la.extractLsb' 24 8) (r.extractLsb' 24 8) (r.extractLsb' 16 8)
  have hbits : (∀ k < 8, (r.extractLsb' 16 8).getLsbD k = true ∨
      (la.extractLsb' 24 8).getLsbD k = (r.extractLsb' 24 8).getLsbD k) ↔
      ∀ k < 8, r.getLsbD (16 + k) = true ∨ la.getLsbD (24 + k) = r.getLsbD (24 + k) :=
    forall₂_congr fun k hk => by simp only [BitVec.getLsbD_extractLsb', hk, decide_true, Bool.true_and]
  rw [← hbits, ← hbyte]
  simp only [ttrMatches, Bool.and_eq_true, Bool.or_eq_true, beq_iff_eq, and_assoc]

/-- The first of the two registers that matches. -/
theorem ttrMatch_eq_some {r0 r1 r : Long} (h0 : (if instr then c.itt0 else c.dtt0) = r0)
    (h1 : (if instr then c.itt1 else c.dtt1) = r1)
    (h : (ttrMatches r0 la fc2 = true ∧ r = r0) ∨
      (¬ ttrMatches r0 la fc2 = true ∧ ttrMatches r1 la fc2 = true ∧ r = r1)) :
    ttrMatch c instr la fc2 = some r := by
  rw [ttrMatch, h0, h1]
  rcases h with ⟨hit, rfl⟩ | ⟨miss, hit, rfl⟩
  · rw [if_pos hit]
  · rw [if_neg miss, if_pos hit]

theorem translate_transparent {r : Long} (h : ttrMatch c instr la fc2 = some r) :
    translate c m instr la fc2 wr =
      if wr = true ∧ r.getLsbD 2 = true then .fault m else .ok la (r.extractLsb' 5 2) m := by
  simp only [translate, h, Bool.and_eq_true]

/-! ### The tables of entries -/

theorem tabGet_singleton {α : Type} (k : Nat) (x : α) : tabGet [(k, x)] k = some x := if_pos rfl

theorem tabGet_singleton_inj {α : Type} {k j : Nat} {x y : α} (h : tabGet [(k, x)] j = some y) : j = k := by
  by_contra hne
  simp [tabGet, hne] at h

theorem tabPut_singleton {α : Type} (k : Nat) (x y : α) : tabPut [(k, x)] k y = [(k, y)] := by simp [tabPut]

/-- The one way of a set that holds an entry with a property. -/
theorem waysWhere_eq_singleton {α : Type} {l : List (Nat × α)} {set w : Nat} {p : α → Bool} {x : α} (hw : w < 4)
    (hx : tabGet l (4 * set + w) = some x) (hp : p x = true)
    (huniq : ∀ v < 4, ∀ y, tabGet l (4 * set + v) = some y → p y = true → v = w) : waysWhere l set p = [w] := by
  have hfilter : waysWhere l set p = [0, 1, 2, 3].filter (· == w) := by
    refine List.filter_congr fun v hv => ?_
    have hv4 : v < 4 := by simp at hv; omega
    by_cases hvw : v = w
    · subst hvw
      simp [hx, hp]
    · rw [beq_false_of_ne hvw]
      cases hy : tabGet l (4 * set + v) with
      | none => rfl
      | some y => exact Bool.eq_false_iff.2 fun hpy => hvw (huniq v hv4 y hy hpy)
  rw [hfilter]
  interval_cases w <;> rfl

/-! ### Lookup -/

/-- What a lookup leaves: the replacement counter has advanced (21_mmu R235). -/
theorem bumpAtc_eq (m : MemSys) (instr : Bool) :
    m.bumpAtc instr = { m with iatcCtr := (m.bumpAtc instr).iatcCtr, datcCtr := (m.bumpAtc instr).datcCtr } := by
  cases instr <;> rfl

@[simp] theorem bumpAtc_atc (m : MemSys) (instr : Bool) : (m.bumpAtc instr).atc instr = m.atc instr := by
  cases instr <;> rfl

@[simp] theorem bumpAtc_ram (m : MemSys) (instr : Bool) : (m.bumpAtc instr).ram = m.ram := by rw [bumpAtc_eq]

@[simp] theorem bumpAtc_quiet (m : MemSys) (instr : Bool) : (m.bumpAtc instr).quiet = m.quiet := by
  rw [bumpAtc_eq]
  rfl

@[simp] theorem setAtc_atc (m : MemSys) (instr : Bool) (l : List (Nat × AtcEntry)) : (m.setAtc instr l).atc instr = l := by
  cases instr <;> rfl

@[simp] theorem setAtc_ram (m : MemSys) (instr : Bool) (l : List (Nat × AtcEntry)) : (m.setAtc instr l).ram = m.ram := by
  cases instr <;> rfl

/-- An entry is for an address and a privilege (21_mmu R230). -/
theorem matches_iff {e : AtcEntry} : e.matches c la fc2 = true ↔ e.fc2 = fc2 ∧
    if c.eightK then e.la.extractLsb' 1 15 = la.extractLsb' 17 15 else e.la = la.extractLsb' 16 16 := by
  rw [AtcEntry.matches, Bool.and_eq_true, beq_iff_eq]
  split <;> rw [beq_iff_eq]

/-- An entry that a search makes is for the address that was searched. -/
theorem matches_of_tag {e : AtcEntry} (hfc : e.fc2 = fc2) (hla : e.la = la.extractLsb' 16 16) :
    e.matches c la fc2 = true := by
  refine matches_iff.2 ⟨hfc, ?_⟩
  rw [hla]
  split
  · exact extractLsb'_of_field la (by decide)
  · rfl

theorem atcLookup_empty (h : m.atc instr = []) : atcLookup c m instr la fc2 = (none, m.bumpAtc instr) := by
  have hits : atcHits c m instr la fc2 = [] := by simp [atcHits, waysWhere, h, tabGet]
  simp [atcLookup, hits, atcPick]

/-- A lookup finds the one entry of its set that matches. -/
theorem atcLookup_hit {k : Nat} {e : AtcEntry} (he : tabGet (m.atc instr) k = some e) (hk : k / 4 = atcSet c la)
    (hm : e.matches c la fc2 = true)
    (huniq : ∀ j x, tabGet (m.atc instr) j = some x → j / 4 = atcSet c la → x.matches c la fc2 = true → j = k) :
    atcLookup c m instr la fc2 = (some (k, e), m.bumpAtc instr) := by
  have hway : 4 * atcSet c la + k % 4 = k := by omega
  have hits : atcHits c m instr la fc2 = [k] := by
    rw [atcHits, waysWhere_eq_singleton (Nat.mod_lt k (by decide)) (by rw [hway]; exact he) hm fun v hv y hy hmy => by
      have := huniq _ y hy (by omega) hmy
      omega]
    simp [hway]
  simp [atcLookup, hits, atcPick, he]

theorem atcLookup_singleton {k : Nat} {e : AtcEntry} (h : m.atc instr = [(k, e)]) (hk : k / 4 = atcSet c la)
    (hm : e.matches c la fc2 = true) : atcLookup c m instr la fc2 = (some (k, e), m.bumpAtc instr) :=
  atcLookup_hit (h ▸ tabGet_singleton k e) hk hm fun _ _ hj _ _ => tabGet_singleton_inj (h ▸ hj)

/-! ### A hit -/

/-- An entry that serves an access gives its page frame, or faults (21_mmu R232, R234). -/
theorem translate_hit {k : Nat} {e : AtcEntry} (ht : ttrMatch c instr la fc2 = none) (hp : c.paging m = true)
    (hl : atcLookup c m instr la fc2 = (some (k, e), m.bumpAtc instr))
    (hs : wr = false ∨ e.r = false ∨ e.w = true ∨ e.m = true) :
    translate c m instr la fc2 wr = useEntry c (m.bumpAtc instr) la wr e := by
  have hserves : (e.r && wr && !e.w && !e.m) = false := by
    rcases hs with h | h | h | h <;> simp [h]
  simp [translate, ht, hp, hl, hserves]

/-- A use of an entry. -/
theorem useEntry_eq (c : Control) (m : MemSys) (la : Long) (wr : Bool) (e : AtcEntry) :
    useEntry c m la wr e = if e.r = false ∨ (wr = true ∧ e.w = true) then .fault m
      else .ok (if c.eightK then e.pa.extractLsb' 1 19 ++ la.extractLsb' 0 13 else e.pa ++ la.extractLsb' 0 12) e.cm m := by
  simp only [useEntry, AtcEntry.phys, Bool.or_eq_true, Bool.and_eq_true, Bool.not_eq_true']

/-! ### A search -/

/-- A translation searches the tables: the ATC is empty, or its one entry serves the address but for a write (21_mmu R233);
`hit` is the key of that entry. -/
def SearchNeeded (c : Control) (la : Long) (fc2 wr : Bool) (l : List (Nat × AtcEntry)) (hit : Option Nat) : Prop :=
  (hit = none ∧ l = []) ∨ ∃ k x, hit = some k ∧ l = [(k, x)] ∧ k / 4 = atcSet c la ∧ x.matches c la fc2 = true ∧
    wr = true ∧ x.r = true ∧ x.w = false ∧ x.m = false

/-- After a search the translation uses the entry that was loaded. -/
theorem translate_search {k : Nat} {e : AtcEntry} {hit : Option Nat} {r : SearchEnd} {m1 : MemSys}
    (ht : ttrMatch c instr la fc2 = none) (hp : c.paging m = true) (hroom : SearchNeeded c la fc2 wr (m.atc instr) hit)
    (hs : tableSearch c (m.bumpAtc instr) instr la fc2 wr hit = .ok r m1) (h1 : m1.atc instr = [(k, e)])
    (hkey : ∀ j, hit = some j → j = k) (hk : k / 4 = atcSet c la) (he : e.matches c la fc2 = true) :
    ∃ m2, translate c m instr la fc2 wr = useEntry c m2 la wr e ∧ m2.atc instr = [(k, e)] ∧ m2.ram = m1.ram := by
  rcases hroom with ⟨rfl, hempty⟩ | ⟨j, x, rfl, hx, hj, hxm, rfl, hr, hw, hM⟩
  · refine ⟨m1.bumpAtc instr, ?_, by rw [bumpAtc_atc, h1], bumpAtc_ram m1 instr⟩
    simp [translate, ht, hp, atcLookup_empty hempty, hs, Trans.after, atcLookup_singleton h1 hk he]
  · obtain rfl := hkey j rfl
    refine ⟨m1, ?_, h1, rfl⟩
    simp [translate, ht, hp, atcLookup_singleton hx hk hxm, hr, hw, hM, hs, Trans.after, h1, tabGet_singleton]

/-- What a search loads is then the only entry. -/
theorem loadAtc_single {hit : Option Nat} (e : AtcEntry) (hroom : SearchNeeded c la fc2 wr (m.atc instr) hit) :
    ∃ k, (loadAtc c m instr la hit e).atc instr = [(k, e)] ∧ k / 4 = atcSet c la ∧ ∀ j, hit = some j → j = k := by
  rcases hroom with ⟨rfl, hempty⟩ | ⟨k, x, rfl, hx, hk, -⟩
  · refine ⟨4 * atcSet c la, ?_, by omega, fun _ h => by cases h⟩
    simp [loadAtc, hempty, freeWay, tabGet, tabPut]
  · refine ⟨k, ?_, hk, fun _ h => (Option.some.inj h).symm⟩
    simp [loadAtc, hx, tabPut_singleton]

theorem loadAtc_ram (hit : Option Nat) (e : AtcEntry) : (loadAtc c m instr la hit e).ram = m.ram := setAtc_ram m instr _

end Sys2Proof.Machine
end

section
/-! PROOFS. The table search (21_mmu R240 to R251) on a quiet bus with the data cache off, and the translation that
follows it. -/

namespace Sys2Proof.Machine

variable {c : Control} {m : MemSys} {instr fc2 wr : Bool} {la : Long}

/-! ### Accesses to descriptors -/

@[simp] theorem PRes.ok_bind {α β : Type} (a : α) (m : MemSys) (k : α → MemSys → PRes β) :
    (PRes.ok a m).bind k = k a m := rfl

/-- The long word at an address of physical memory. -/
def longAt (ram : List Host.Cell) (a : Long) : Long := ofBytes (getBytes ram 0 a 4)

theorem descriptor_aligned (x : BitVec 30) : (x ++ 0#2 : Long).toNat % 4 = 0 := by
  rw [BitVec.toNat_append, show (0#2).toNat = 0 from rfl, Nat.or_zero, Nat.shiftLeft_eq]
  omega

/-- The address that an indirect descriptor holds (21_mmu R246). -/
theorem indirectAddr_eq (d : Long) : (d.extractLsb' 2 30 ++ 0#2 : Long) = d &&& 0xFFFFFFFC :=
  BitVec.eq_of_toNat_eq (by
    have := d.isLt
    have hbase : (d &&& 0xFFFFFFFC).toNat = 4 * (d.toNat / 4) := toNat_longBase d
    rw [hbase, BitVec.toNat_append, BitVec.extractLsb'_toNat, show (0#2).toNat = 0 from rfl, Nat.or_zero, Nat.shiftLeft_eq,
      Nat.shiftRight_eq_div_pow]
    omega)

/-- An aligned long word lies in one line. -/
theorem lineRoom_aligned {pa : Long} (h : pa.toNat % 4 = 0) : lineRoom pa 4 = 4 := by
  rw [lineRoom, lineOffset, BitVec.extractLsb'_toNat, Nat.shiftRight_zero]
  omega

theorem Stored.quiet {m m' : MemSys} {ram : List Host.Cell} (h : Stored m m' ram) : m'.quiet = m.quiet := by
  obtain ⟨p, rfl⟩ := h
  rfl

theorem Stored.atc {m m' : MemSys} {ram : List Host.Cell} (h : Stored m m' ram) (instr : Bool) :
    m'.atc instr = m.atc instr := by
  obtain ⟨p, rfl⟩ := h
  rfl

theorem Stored.refl (m : MemSys) : Stored m m m.ram := ⟨m.stale, rfl⟩

theorem searchAccess_tt (instr locked : Bool) : (searchAccess instr locked).tt ≠ 2 := by
  simp [searchAccess]

theorem dcacheOn_of_de (hde : c.cacr.getLsbD 31 = false) (m : MemSys) : c.dcacheOn m = false := by
  rw [Control.dcacheOn, hde, Bool.false_and]

theorem physRead_descriptor (hde : c.cacr.getLsbD 31 = false) (hq : m.quiet = true) (locked : Bool) {a : Long}
    (ha : a.toNat % 4 = 0) :
    physRead c m (searchAccess instr locked) a 0 4 = .ok (getBytes m.ram 0 a 4) m := by
  rw [physRead, if_pos (lineRoom_aligned ha), pieceRead, dataTick_of_due (quiet_iff.1 hq).2.2.1, dcacheOn_of_de hde]
  exact busReadP_flat hq (searchAccess_tt instr locked) a 4

theorem physWrite_descriptor (hde : c.cacr.getLsbD 31 = false) (hq : m.quiet = true) (locked : Bool) {a : Long}
    (ha : a.toNat % 4 = 0) (v : Long) :
    ∃ m', physWrite c m (searchAccess instr locked) a 0 (toBytes v 4) = .ok () m' ∧
      Stored m m' (putBytes m.ram 0 a (toBytes v 4)) := by
  have hb := writable_of_quiet hq
  obtain ⟨m', e, hs⟩ := busWriteP_flat hb (searchAccess_tt instr locked) a (toBytes v 4)
  refine ⟨m', ?_, hs⟩
  simp [physWrite, lineRoom_aligned ha, pieceWrite, pieceWriteMade, dataTick_of_due hb.due, hb.struck, dcacheOn_of_de hde, e]

theorem searchRead_descriptor (hde : c.cacr.getLsbD 31 = false) (hq : m.quiet = true) {a : Long} (ha : a.toNat % 4 = 0) :
    searchRead c m instr a = .ok (longAt m.ram a) m := by
  rw [searchRead, physRead_descriptor hde hq false ha]
  rfl

theorem searchLocked_descriptor (hde : c.cacr.getLsbD 31 = false) (hq : m.quiet = true) {a : Long} (ha : a.toNat % 4 = 0)
    (bits : Long) : ∃ m', searchLocked c m instr a bits = .ok () m' ∧
      Stored m m' (putBytes m.ram 0 a (toBytes (longAt m.ram a ||| bits) 4)) := by
  rw [searchLocked, beginLocked_quiet hq, physRead_descriptor hde hq true ha]
  exact physWrite_descriptor hde hq true ha _

/-! ### The history bits -/

/-- Memory once U of the descriptor `d` at `a` is set. -/
def usedRam (ram : List Host.Cell) (a d : Long) : List Host.Cell :=
  if d.getLsbD 3 then ram else putBytes ram 0 a (toBytes (d ||| 8) 4)

/-- Memory once U of a page descriptor is set, and M too where `setM` says so. -/
def pageRam (ram : List Host.Cell) (a pd : Long) (setM : Bool) : List Host.Cell :=
  if setM then putBytes ram 0 a (toBytes (pd ||| 0x18) 4) else usedRam ram a pd

/-- A page descriptor with U set, and M too where `setM` says so. -/
def pageMarked (pd : Long) (setM : Bool) : Long :=
  if setM then pd ||| 0x18 else if pd.getLsbD 3 then pd else pd ||| 8

theorem pageMarked_m (pd : Long) (setM : Bool) : (pageMarked pd setM).getLsbD 4 = (pd.getLsbD 4 || setM) := by
  rw [pageMarked]
  split_ifs with h
  · simp [h]
  · simp [h]
  · simp [h]

/-- The history bits lie below bit 5. -/
theorem pageMarked_bit (pd : Long) (setM : Bool) {k : Nat} (hk : 5 ≤ k) :
    (pageMarked pd setM).getLsbD k = pd.getLsbD k := by
  have hpow : 2 ^ 5 ≤ 2 ^ k := Nat.pow_le_pow_right (by decide) hk
  have h18 : (0x18 : Long).getLsbD k = false := Nat.testBit_lt_two_pow (show 0x18 < 2 ^ k by omega)
  have h8 : (8 : Long).getLsbD k = false := Nat.testBit_lt_two_pow (show 8 < 2 ^ k by omega)
  rw [pageMarked]
  split_ifs
  · rw [BitVec.getLsbD_or, h18, Bool.or_false]
  · rfl
  · rw [BitVec.getLsbD_or, h8, Bool.or_false]

theorem pageMarked_field (pd : Long) (setM : Bool) {lo : Nat} (n : Nat) (h : 5 ≤ lo) :
    (pageMarked pd setM).extractLsb' lo n = pd.extractLsb' lo n := by
  refine BitVec.eq_of_getLsbD_eq fun k _ => ?_
  rw [BitVec.getLsbD_extractLsb', BitVec.getLsbD_extractLsb', pageMarked_bit pd setM (by omega)]

theorem markTable_descriptor (hde : c.cacr.getLsbD 31 = false) (hq : m.quiet = true) {a : Long} (ha : a.toNat % 4 = 0)
    (d : Long) : ∃ m', markTable c m instr a d = .ok () m' ∧ Stored m m' (usedRam m.ram a d) := by
  rw [markTable, usedRam]
  split
  · exact ⟨m, rfl, Stored.refl m⟩
  · exact physWrite_descriptor hde hq false ha _

theorem markPage_descriptor (hde : c.cacr.getLsbD 31 = false) (hq : m.quiet = true) {a pd : Long} (ha : a.toNat % 4 = 0)
    (hpd : longAt m.ram a = pd) {wp sviol setM : Bool} (hM : (wr && !wp && !sviol && !pd.getLsbD 4) = setM) :
    ∃ m', markPage c m instr a pd wp wr sviol = .ok (pageMarked pd setM) m' ∧ Stored m m' (pageRam m.ram a pd setM) := by
  have hbits : pd ||| descU ||| descM = pd ||| 0x18 := BitVec.or_assoc pd descU descM
  simp only [markPage, hM, hbits, pageMarked, pageRam, usedRam]
  split_ifs
  · obtain ⟨m', e, hs⟩ := physWrite_descriptor (instr := instr) hde hq false ha (pd ||| 0x18)
    exact ⟨m', by rw [searchWrite, e]; rfl, hs⟩
  · exact ⟨m, rfl, Stored.refl m⟩
  · obtain ⟨m', e, hs⟩ := searchLocked_descriptor (instr := instr) hde hq ha descU
    rw [hpd] at hs
    exact ⟨m', by rw [e]; rfl, hs⟩

/-! ### The walk -/

/-- The descriptors a search reads, their addresses, and memory as the two upper levels leave it; `pd` at `ap` is the page
descriptor that `d3` is, or names. -/
structure Levels where
  a1 : Long
  d1 : Long
  ram1 : List Host.Cell
  a2 : Long
  d2 : Long
  ram2 : List Host.Cell
  a3 : Long
  d3 : Long
  ap : Long
  pd : Long

namespace Levels

/-- The levels are those of a logical address in the tables that memory holds (21_mmu R241, R245 to R247). -/
structure Of (L : Levels) (c : Control) (ram : List Host.Cell) (la : Long) (fc2 : Bool) : Prop where
  a1 : (if fc2 then c.srp else c.urp).extractLsb' 9 23 ++ la.extractLsb' 25 7 ++ 0#2 = L.a1
  d1 : longAt ram L.a1 = L.d1
  ram1 : usedRam ram L.a1 L.d1 = L.ram1
  a2 : L.d1.extractLsb' 9 23 ++ la.extractLsb' 18 7 ++ 0#2 = L.a2
  d2 : longAt L.ram1 L.a2 = L.d2
  ram2 : usedRam L.ram1 L.a2 L.d2 = L.ram2
  a3 : (if c.eightK then L.d2.extractLsb' 7 25 ++ la.extractLsb' 13 5 ++ 0#2
    else L.d2.extractLsb' 8 24 ++ la.extractLsb' 12 6 ++ 0#2) = L.a3
  d3 : longAt L.ram2 L.a3 = L.d3
  ap : (if L.d3.extractLsb' 0 2 = 2 then L.d3 &&& 0xFFFFFFFC else L.a3) = L.ap
  pd : longAt L.ram2 L.ap = L.pd

variable (L : Levels)

/-- All three levels are resident. -/
def Resident : Prop := L.d1.getLsbD 1 = true ∧ L.d2.getLsbD 1 = true ∧ L.pd.extractLsb' 0 2 = 1

/-- Some level protects the page from writes. -/
def wp : Bool := L.d1.getLsbD 2 || L.d2.getLsbD 2 || L.pd.getLsbD 2

/-- A user access to a supervisor page, or a write to a protected one. -/
abbrev Forbidden (fc2 wr : Bool) : Prop := (fc2 = false ∧ L.pd.getLsbD 7 = true) ∨ (wr = true ∧ L.wp = true)

/-- The search sets M. -/
def setsM (fc2 wr : Bool) : Bool := wr && !L.wp && !(!fc2 && L.pd.getLsbD 7) && !L.pd.getLsbD 4

theorem setsM_iff : L.setsM fc2 wr = true ↔ wr = true ∧ ¬ L.Forbidden fc2 wr ∧ L.pd.getLsbD 4 = false := by
  rw [setsM, Forbidden]
  generalize L.pd.getLsbD 4 = m, L.pd.getLsbD 7 = s, L.wp = w
  revert fc2 wr m s w
  decide

/-- The page descriptor after the search. -/
def marked (fc2 wr : Bool) : Long := pageMarked L.pd (L.setsM fc2 wr)

/-- How a walk of these levels ends, and the memory it leaves. -/
def Ends (fc2 wr : Bool) (ram : List Host.Cell) (r : SearchEnd) : Prop :=
  (¬ L.Resident → r.found = false) ∧
  (L.Resident → r = .page (L.marked fc2 wr) L.wp ∧ ram = pageRam L.ram2 L.ap L.pd (L.setsM fc2 wr))

theorem ends_invalid {L : Levels} (h : ¬ L.Resident) (wp : Bool) (ram : List Host.Cell) : L.Ends fc2 wr ram (.invalid wp) :=
  ⟨fun _ => rfl, fun hr => absurd hr h⟩

variable {L} {ram : List Host.Cell}

theorem Of.a1_aligned (h : L.Of c ram la fc2) : L.a1.toNat % 4 = 0 := h.a1 ▸ descriptor_aligned _

theorem Of.a2_aligned (h : L.Of c ram la fc2) : L.a2.toNat % 4 = 0 := h.a2 ▸ descriptor_aligned _

theorem Of.a3_aligned (h : L.Of c ram la fc2) : L.a3.toNat % 4 = 0 := by
  rw [← h.a3]
  split <;> exact descriptor_aligned _

theorem Of.ap_aligned (h : L.Of c ram la fc2) : L.ap.toNat % 4 = 0 := by
  rw [← h.ap]
  split
  · rw [← indirectAddr_eq]
    exact descriptor_aligned _
  · exact h.a3_aligned

end Levels

variable {L : Levels}

/-- The last level of a walk, when the page descriptor has been read. -/
theorem pageLevel_ends (hde : c.cacr.getLsbD 31 = false) (hq : m.quiet = true) (ha : L.ap.toNat % 4 = 0)
    (hram : m.ram = L.ram2) (hpd : longAt L.ram2 L.ap = L.pd) (h1 : L.d1.getLsbD 1 = true) (h2 : L.d2.getLsbD 1 = true) :
    ∃ m' r ram, (if pdt L.pd = 1 then
        (markPage c m instr L.ap L.pd L.wp wr (!fc2 && L.pd.getLsbD 7)).bind fun pd m => .ok (.page pd L.wp) m
      else .ok (.invalid (L.d1.getLsbD 2 || L.d2.getLsbD 2)) m : PRes SearchEnd) = .ok r m' ∧
      Stored m m' ram ∧ L.Ends fc2 wr ram r := by
  by_cases hp : pdt L.pd = 1
  · obtain ⟨m', e, hs⟩ := markPage_descriptor (instr := instr) (setM := L.setsM fc2 wr) hde hq ha (hram ▸ hpd) rfl
    rw [if_pos hp, e]
    exact ⟨m', _, _, rfl, hs, fun hr => absurd ⟨h1, h2, hp⟩ hr, fun _ => ⟨rfl, by rw [hram]⟩⟩
  · exact ⟨m, _, _, if_neg hp, Stored.refl m, Levels.ends_invalid (fun hr => hp hr.2.2) _ _⟩

/-- The walk goes through the levels in order and stops at the first one that is not resident. -/
theorem tableWalk_ends (hde : c.cacr.getLsbD 31 = false) (hq : m.quiet = true) (h : L.Of c m.ram la fc2) :
    ∃ m' r ram, tableWalk c m instr la fc2 wr = .ok r m' ∧ Stored m m' ram ∧ L.Ends fc2 wr ram r := by
  simp only [tableWalk, h.a1, searchRead_descriptor hde hq h.a1_aligned, h.d1, PRes.ok_bind, tableResident]
  by_cases h1 : L.d1.getLsbD 1 = true
  case neg =>
    exact ⟨m, _, _, if_pos (by rw [Bool.eq_false_iff.2 h1]; rfl), Stored.refl m,
      Levels.ends_invalid (fun hr => h1 hr.1) _ _⟩
  obtain ⟨m1, e1, s1⟩ := markTable_descriptor (instr := instr) hde hq h.a1_aligned L.d1
  have q1 : m1.quiet = true := s1.quiet.trans hq
  have r1 : m1.ram = L.ram1 := s1.ram.trans h.ram1
  simp only [h1, Bool.not_true, Bool.false_eq_true, if_false, e1, PRes.ok_bind, h.a2,
    searchRead_descriptor hde q1 h.a2_aligned, r1, h.d2]
  by_cases h2 : L.d2.getLsbD 1 = true
  case neg =>
    exact ⟨m1, _, _, if_pos (by rw [Bool.eq_false_iff.2 h2]; rfl), s1, Levels.ends_invalid (fun hr => h2 hr.2.1) _ _⟩
  obtain ⟨m2, e2, s2⟩ := markTable_descriptor (instr := instr) hde q1 h.a2_aligned L.d2
  have q2 : m2.quiet = true := s2.quiet.trans q1
  have r2 : m2.ram = L.ram2 := by rw [s2.ram, r1, h.ram2]
  simp only [h2, Bool.not_true, Bool.false_eq_true, if_false, e2, PRes.ok_bind, h.a3,
    searchRead_descriptor hde q2 h.a3_aligned, r2, h.d3]
  obtain ⟨m3, r, ram, e3, s3, hends⟩ :=
    pageLevel_ends (instr := instr) (fc2 := fc2) (wr := wr) hde q2 h.ap_aligned r2 h.pd h1 h2
  refine ⟨m3, r, ram, ?_, (s1.trans s2).trans s3, hends⟩
  by_cases hi : pdt L.d3 = 2
  · have hap : L.d3 &&& 0xFFFFFFFC = L.ap := (if_pos hi).symm.trans h.ap
    rw [if_pos hi, indirectAddr_eq, hap, searchRead_descriptor hde q2 h.ap_aligned, r2, h.pd]
    exact e3
  · have hap : L.a3 = L.ap := (if_neg hi).symm.trans h.ap
    have hd3 : L.d3 = L.pd := by rw [← h.d3, ← h.pd, hap]
    rw [if_neg hi, hd3, hap]
    exact e3

/-! ### The entry that a search loads -/

theorem entryOf_tag (free : BitVec 28) (r : SearchEnd) :
    (entryOf la fc2 free r).fc2 = fc2 ∧ (entryOf la fc2 free r).la = la.extractLsb' 16 16 := by
  cases r <;> exact ⟨rfl, rfl⟩

theorem entryOf_absent (free : BitVec 28) {r : SearchEnd} (h : r.found = false) : (entryOf la fc2 free r).r = false := by
  cases r with
  | page pd wp => cases h
  | invalid wp => rfl
  | busError => rfl

/-- The end of a search loads an entry, for which a search that found no page draws a free value. -/
theorem searchEnd_loads (hit : Option Nat) (r : SearchEnd) : ∃ m' free,
    searchEnd c m instr la fc2 hit r = .ok r (loadAtc c m' instr la hit (entryOf la fc2 free r)) ∧
      m'.atc instr = m.atc instr ∧ m'.ram = m.ram := by
  unfold searchEnd
  extract_lets d
  split
  · exact ⟨m, 0, rfl, rfl, rfl⟩
  · exact ⟨d.2, d.1, rfl, rfl, rfl⟩

namespace Levels

variable (L)

/-- The entry of the page that resident levels lead to. -/
def entry (la : Long) (fc2 wr : Bool) : AtcEntry := entryOf la fc2 0 (.page (L.marked fc2 wr) L.wp)

/-- The entry that a search of these levels loads, and the memory it leaves. -/
structure Loads (la : Long) (fc2 wr : Bool) (ram : List Host.Cell) (e : AtcEntry) : Prop where
  tagFc2 : e.fc2 = fc2
  tagLa : e.la = la.extractLsb' 16 16
  absent : ¬ L.Resident → e.r = false
  page : L.Resident → ram = pageRam L.ram2 L.ap L.pd (L.setsM fc2 wr) ∧ e = L.entry la fc2 wr

variable {L}

theorem Ends.loads {ram : List Host.Cell} {r : SearchEnd} (h : L.Ends fc2 wr ram r) (free : BitVec 28) :
    L.Loads la fc2 wr ram (entryOf la fc2 free r) := by
  obtain ⟨habsent, hpage⟩ := h
  refine ⟨(entryOf_tag free r).1, (entryOf_tag free r).2, fun hr => entryOf_absent free (habsent hr), fun hr => ?_⟩
  obtain ⟨rfl, hram⟩ := hpage hr
  exact ⟨hram, rfl⟩

variable (L)

/-- The history bits are the only ones that a search changes. -/
theorem marked_bit {k : Nat} (hk : 5 ≤ k) : (L.marked fc2 wr).getLsbD k = L.pd.getLsbD k := pageMarked_bit L.pd _ hk

theorem marked_field {lo : Nat} (n : Nat) (h : 5 ≤ lo) : (L.marked fc2 wr).extractLsb' lo n = L.pd.extractLsb' lo n :=
  pageMarked_field L.pd _ n h

theorem pageRam_eq : pageRam L.ram2 L.ap L.pd (L.setsM fc2 wr) =
    if wr = true ∧ ¬ L.Forbidden fc2 wr ∧ L.pd.getLsbD 4 = false then putBytes L.ram2 0 L.ap (toBytes (L.pd ||| 0x18) 4)
    else usedRam L.ram2 L.ap L.pd := if_congr L.setsM_iff rfl rfl

theorem entry_m_iff : (L.entry la fc2 wr).m = true ↔ L.pd.getLsbD 4 = true ∨ (wr = true ∧ ¬ L.Forbidden fc2 wr) := by
  have hm : (L.entry la fc2 wr).m = (L.pd.getLsbD 4 || L.setsM fc2 wr) := pageMarked_m L.pd _
  rw [hm, Bool.or_eq_true, setsM_iff]
  cases L.pd.getLsbD 4 <;> simp

theorem entry_r_iff : (L.entry la fc2 wr).r = true ↔ fc2 = true ∨ L.pd.getLsbD 7 = false := by
  have hr : (L.entry la fc2 wr).r = (fc2 || !(L.marked fc2 wr).getLsbD 7) := rfl
  rw [hr, L.marked_bit (by decide), Bool.or_eq_true, Bool.not_eq_true']

/-- A use of the entry faults for an access that the page descriptors forbid. -/
theorem entry_faults_iff :
    (L.entry la fc2 wr).r = false ∨ (wr = true ∧ (L.entry la fc2 wr).w = true) ↔ L.Forbidden fc2 wr := by
  have hr : (L.entry la fc2 wr).r = false ↔ fc2 = false ∧ L.pd.getLsbD 7 = true := by
    rw [← Bool.not_eq_true, entry_r_iff, not_or, Bool.not_eq_true, Bool.not_eq_false]
  exact or_congr hr Iff.rfl

theorem useEntry_entry : useEntry c m la wr (L.entry la fc2 wr) =
    if L.Forbidden fc2 wr then .fault m
    else .ok (if c.eightK then L.pd.extractLsb' 13 19 ++ la.extractLsb' 0 13
        else L.pd.extractLsb' 12 20 ++ la.extractLsb' 0 12)
      (L.pd.extractLsb' 5 2) m := by
  have hpa : (L.entry la fc2 wr).pa = L.pd.extractLsb' 12 20 := L.marked_field 20 (by decide)
  have hcm : (L.entry la fc2 wr).cm = L.pd.extractLsb' 5 2 := L.marked_field 2 (by decide)
  rw [useEntry_eq, hpa, hcm, extractLsb'_of_field L.pd (by decide)]
  exact if_congr L.entry_faults_iff rfl rfl

end Levels

theorem tableSearch_loads (hde : c.cacr.getLsbD 31 = false) (hq : m.quiet = true) (h : L.Of c m.ram la fc2)
    {hit : Option Nat} (hroom : SearchNeeded c la fc2 wr (m.atc instr) hit) :
    ∃ r m1 k e, tableSearch c m instr la fc2 wr hit = .ok r m1 ∧ m1.atc instr = [(k, e)] ∧ k / 4 = atcSet c la ∧
      (∀ j, hit = some j → j = k) ∧ L.Loads la fc2 wr m1.ram e := by
  obtain ⟨m', r, ram, hwalk, hs, hends⟩ := tableWalk_ends (instr := instr) (wr := wr) hde hq h
  obtain ⟨m'', free, hend, hatc, hram⟩ :=
    searchEnd_loads (c := c) (m := m') (instr := instr) (la := la) (fc2 := fc2) hit r
  rw [← hs.atc, ← hatc] at hroom
  obtain ⟨k, hload, hk, hkey⟩ := loadAtc_single (entryOf la fc2 free r) hroom
  refine ⟨r, _, k, _, by rw [tableSearch, hwalk]; exact hend, hload, hk, hkey, ?_⟩
  rw [loadAtc_ram, hram, hs.ram]
  exact hends.loads free

/-- A translation through the tables uses the entry that its search loads, and leaves no other. -/
theorem translate_tables (ht : ttrMatch c instr la fc2 = none) (hp : c.paging m = true)
    (hde : c.cacr.getLsbD 31 = false) (hq : m.quiet = true) (h : L.Of c m.ram la fc2) {hit : Option Nat}
    (hroom : SearchNeeded c la fc2 wr (m.atc instr) hit) :
    ∃ m2 k e, translate c m instr la fc2 wr = useEntry c m2 la wr e ∧ m2.atc instr = [(k, e)] ∧ k / 4 = atcSet c la ∧
      L.Loads la fc2 wr m2.ram e := by
  have hbump : SearchNeeded c la fc2 wr ((m.bumpAtc instr).atc instr) hit := by rwa [bumpAtc_atc]
  obtain ⟨r, m1, k, e, hsearch, hatc, hk, hkey, hloads⟩ := tableSearch_loads (L := L) hde
    ((bumpAtc_quiet m instr).trans hq) (by rwa [bumpAtc_ram]) hbump
  obtain ⟨m2, htr, hatc2, hram⟩ :=
    translate_search ht hp hroom hsearch hatc hkey hk (matches_of_tag hloads.tagFc2 hloads.tagLa)
  exact ⟨m2, k, e, htr, hatc2, hk, hram ▸ hloads⟩

/-! ### The obligation -/

/-- The value of TC that the statement gives for each page size. -/
theorem paging_of_tc {eightK : Bool} (htc : c.tc = if eightK then 0xC000 else 0x8000) (hmdis : m.mdis = false) :
    c.eightK = eightK ∧ c.paging m = true := by
  rw [Control.eightK, Control.paging, htc, hmdis]
  cases eightK <;> decide

/-- Settles O46: the transparent translation registers, the table search and the entries of the ATC. -/
theorem addressTranslation : Obligations.AddressTranslation := by
  refine ⟨?_, ?_, ?_⟩
  · intro c m instr fc2 wr la r0 r1 hits r h
    have hits_iff : ∀ r, hits r ↔ ttrMatches r la fc2 = true := fun r => (ttrMatches_iff r la fc2).symm
    simp only [hits_iff] at h
    exact translate_transparent (ttrMatch_eq_some rfl rfl h)
  · intro s instr fc2 wr eightK la set names ht htc hmdis hde hq hatc
    obtain ⟨rfl, hp⟩ := paging_of_tc htc hmdis
    intro long used a1 d1 ram1 a2 d2 ram2 a3 d3 ap pd resident wp forbidden ram3
    let L : Levels := ⟨a1, d1, ram1, a2, d2, ram2, a3, d3, ap, pd⟩
    have hL : L.Of s.ctl s.mem.ram la fc2 := ⟨rfl, rfl, rfl, rfl, rfl, rfl, rfl, rfl, rfl, rfl⟩
    obtain ⟨hit, hroom⟩ : ∃ hit, SearchNeeded s.ctl la fc2 wr (s.mem.atc instr) hit := by
      rcases hatc with hempty | ⟨hwr, k, x, hx, hk, hn, hr, hw, hM⟩
      · exact ⟨none, .inl ⟨rfl, hempty⟩⟩
      · exact ⟨some k, .inr ⟨k, x, rfl, hx, hk, matches_iff.2 hn, hwr, hr, hw, hM⟩⟩
    obtain ⟨m, k, e, htr, hatc, hk, hloads⟩ := translate_tables ht hp hde hq hL hroom
    refine ⟨m, k, e, hatc, hk, hloads.tagFc2, hloads.tagLa, fun hr => ?_, fun hr => ?_⟩
    · have habsent := hloads.absent hr
      exact ⟨by rw [htr, useEntry_eq, if_pos (.inl habsent)], habsent⟩
    · obtain ⟨hram, rfl⟩ := hloads.page hr
      exact ⟨hram.trans L.pageRam_eq, L.marked_bit (by decide), L.marked_field 20 (by decide), L.marked_bit (by decide),
        L.marked_bit (by decide), L.marked_bit (by decide), L.marked_field 2 (by decide), L.entry_m_iff, rfl, L.entry_r_iff,
        htr.trans L.useEntry_entry⟩
  · intro c m instr fc2 wr eightK la k e set names ht htc hmdis he hk hn huniq hs
    obtain ⟨rfl, hp⟩ := paging_of_tc htc hmdis
    have hl := atcLookup_hit he hk (matches_iff.2 hn) fun j x hj hset hm => huniq j x hj hset (matches_iff.1 hm)
    exact ⟨m.bumpAtc instr, bumpAtc_eq m instr, (translate_hit ht hp hl hs).trans (useEntry_eq ..)⟩

end Sys2Proof.Machine
end

section
/-! PROOFS. The tables of cache lines (22_caches_bus R322, R325): what a lookup finds, and what it finds after a line has been
put in. -/

namespace Sys2Proof.Machine

variable {α : Type} {l : List (Nat × α)}

/-! ### Sparse tables -/

theorem tabGet_tabPut_self (k : Nat) (v : α) : ∀ l : List (Nat × α), tabGet (tabPut l k v) k = some v
  | [] => tabGet_singleton k v
  | (j, x) :: r => by
    rw [tabPut]
    split
    · exact if_pos rfl
    · split
      · exact if_pos rfl
      · rename_i hne
        rw [tabGet, if_neg hne, tabGet_tabPut_self k v r]

theorem tabGet_tabPut_of_ne {i k : Nat} (h : i ≠ k) (v : α) : ∀ l : List (Nat × α), tabGet (tabPut l k v) i = tabGet l i
  | [] => if_neg h
  | (j, x) :: r => by
    rw [tabPut]
    split
    · rw [tabGet, if_neg h]
    · split
      · rename_i heq
        subst heq
        rw [tabGet, tabGet, if_neg h, if_neg h]
      · rw [tabGet, tabGet, tabGet_tabPut_of_ne h v r]

theorem mem_tabPut_of_ne {q : Nat × α} {k : Nat} (h : q.1 ≠ k) (v : α) : ∀ {l : List (Nat × α)}, q ∈ l → q ∈ tabPut l k v
  | (j, x) :: r, hq => by
    rw [tabPut]
    split
    · exact List.mem_cons_of_mem _ hq
    · rcases List.mem_cons.1 hq with rfl | hr
      · rw [if_neg (Ne.symm h)]
        exact List.mem_cons_self
      · split
        · exact List.mem_cons_of_mem _ hr
        · exact List.mem_cons_of_mem _ (mem_tabPut_of_ne h v hr)

/-- To invalidate an entry that is not there changes nothing. -/
theorem tabDel_of_tabGet_none {k : Nat} : ∀ {l : List (Nat × α)}, tabGet l k = none → tabDel l k = l
  | [], _ => rfl
  | (j, x) :: r, h => by
    rw [tabGet] at h
    split at h
    · cases h
    · rename_i hne
      rw [tabDel, List.filter_cons_of_pos (by simpa using Ne.symm hne)]
      exact congrArg _ (tabDel_of_tabGet_none h)

theorem freeWay_eq_some {set w : Nat} (h : freeWay l set = some w) : w < 4 ∧ tabGet l (4 * set + w) = none :=
  ⟨List.mem_range.1 (List.mem_of_find?_eq_some (l := List.range 4) h),
    Option.isNone_iff_eq_none.1 (List.find?_some (p := fun w => (tabGet l (4 * set + w)).isNone) h)⟩

/-! ### Lookup -/

/-- Whether the way `w` of the set of `pa` holds its line. -/
def wayHits (l : List (Nat × CacheLine)) (pa : Long) (w : Nat) : Bool :=
  (tabGet l (4 * cacheSet pa + w)).any fun x => x.tag = cacheTag pa

theorem wayHits_iff {l : List (Nat × CacheLine)} {pa : Long} {w : Nat} :
    wayHits l pa w = true ↔ ∃ x, tabGet l (4 * cacheSet pa + w) = some x ∧ x.tag = cacheTag pa := by
  simp [wayHits, Option.any_eq_true]

theorem findLine_eq (l : List (Nat × CacheLine)) (pa : Long) :
    findLine l pa = ((List.range 4).find? (wayHits l pa)).bind fun w =>
      (tabGet l (4 * cacheSet pa + w)).map fun x => (4 * cacheSet pa + w, x) := by
  have hways : waysWhere l (cacheSet pa) (fun x => x.tag = cacheTag pa) = (List.range 4).filter (wayHits l pa) := by
    refine List.filter_congr fun w _ => ?_
    rw [wayHits]
    cases tabGet l (4 * cacheSet pa + w) <;> rfl
  rw [findLine, hways, ← List.head?_filter]
  cases (List.range 4).filter (wayHits l pa) <;> rfl

/-- The line that is hit is in the lowest way of its set that holds one of its tag (log 67). -/
theorem findLine_eq_some_iff {l : List (Nat × CacheLine)} {pa : Long} {k : Nat} {x : CacheLine} :
    findLine l pa = some (k, x) ↔ ∃ w < 4, k = 4 * cacheSet pa + w ∧ tabGet l k = some x ∧ x.tag = cacheTag pa ∧
      ∀ v < w, wayHits l pa v = false := by
  rw [findLine_eq, Option.bind_eq_some_iff]
  simp only [List.find?_range_eq_some, List.mem_range, Option.map_eq_some_iff, Prod.mk.injEq, Bool.not_eq_true',
    wayHits_iff]
  constructor
  · rintro ⟨w, ⟨⟨y, hy, htag⟩, hw, hfirst⟩, z, hz, rfl, rfl⟩
    obtain rfl : y = z := Option.some.inj (hy.symm.trans hz)
    exact ⟨w, hw, rfl, hy, htag, hfirst⟩
  · rintro ⟨w, hw, rfl, hx, htag, hfirst⟩
    exact ⟨w, ⟨⟨x, hx, htag⟩, hw, hfirst⟩, x, hx, rfl, rfl⟩

theorem wayHits_of_findLine_none {l : List (Nat × CacheLine)} {pa : Long} (h : findLine l pa = none) {w : Nat} (hw : w < 4) :
    wayHits l pa w = false := by
  rw [findLine_eq, Option.bind_eq_none_iff] at h
  cases hf : (List.range 4).find? (wayHits l pa) with
  | none => exact Bool.eq_false_iff.2 (List.find?_eq_none.1 hf w (List.mem_range.2 hw))
  | some v =>
    obtain ⟨x, hx, -⟩ := wayHits_iff.1 (List.find?_some hf)
    have := h v hf
    rw [hx] at this
    cases this

/-- A line put into a way is hit, where no lower way holds one of its tag. -/
theorem findLine_tabPut {l : List (Nat × CacheLine)} {pa : Long} {w : Nat} (hw : w < 4) {y : CacheLine} (hy : y.tag = cacheTag pa)
    (hfirst : ∀ v < w, wayHits l pa v = false) :
    findLine (tabPut l (4 * cacheSet pa + w) y) pa = some (4 * cacheSet pa + w, y) := by
  refine findLine_eq_some_iff.2 ⟨w, hw, rfl, tabGet_tabPut_self _ _ _, hy, fun v hv => ?_⟩
  rw [wayHits, tabGet_tabPut_of_ne (by omega)]
  exact hfirst v hv

/-- A line that is hit and replaced by one of its tag is hit again. -/
theorem findLine_tabPut_hit {l : List (Nat × CacheLine)} {pa : Long} {k : Nat} {x y : CacheLine}
    (h : findLine l pa = some (k, x)) (hy : y.tag = x.tag) : findLine (tabPut l k y) pa = some (k, y) := by
  obtain ⟨w, hw, rfl, -, htag, hfirst⟩ := findLine_eq_some_iff.1 h
  exact findLine_tabPut hw (hy.trans htag) hfirst

/-- A line put into a free way is hit, where none was. -/
theorem findLine_tabPut_free {l : List (Nat × CacheLine)} {pa : Long} {w : Nat} {y : CacheLine} (h : findLine l pa = none)
    (hw : freeWay l (cacheSet pa) = some w) (hy : y.tag = cacheTag pa) :
    findLine (tabPut l (4 * cacheSet pa + w) y) pa = some (4 * cacheSet pa + w, y) := by
  have hw4 := (freeWay_eq_some hw).1
  exact findLine_tabPut hw4 hy fun v hv => wayHits_of_findLine_none h (hv.trans hw4)

end Sys2Proof.Machine
end

section
/-! PROOFS. The bytes of cache lines, and the line that a line read gets from memory (22_caches_bus R340, R365). -/

namespace Sys2Proof.Machine

/-! ### The value of a sequence of bytes -/

/-- A bit of the value of bytes, most significant byte first. -/
theorem getLsbD_foldl_bytes {w i : Nat} (hi : i < w) (l : List Byte) :
    (l.foldl (fun (acc : BitVec w) b => (acc <<< 8) ||| b.zeroExtend w) 0).getLsbD i =
      (l.reverse.getD (i / 8) 0).getLsbD (i % 8) := by
  induction l using List.reverseRecOn generalizing i with
  | nil => simp
  | append_singleton l b ih =>
    rw [List.foldl_concat, List.reverse_append, BitVec.getLsbD_or, BitVec.getLsbD_shiftLeft, BitVec.getLsbD_setWidth]
    by_cases h8 : i < 8
    · simp [hi, h8, Nat.div_eq_of_lt h8, Nat.mod_eq_of_lt h8]
    · have hdiv : i / 8 = (i - 8) / 8 + 1 := by omega
      have hmod : i % 8 = (i - 8) % 8 := by omega
      rw [ih (by omega), BitVec.getLsbD_of_ge b i (by omega), hdiv, hmod]
      simp [hi, h8]

theorem lineOfBytes_append (xs ys : List Byte) :
    lineOfBytes (xs ++ ys) = lineOfBytes xs <<< (8 * ys.length) ||| lineOfBytes ys := by
  induction ys using List.reverseRecOn with
  | nil => simp [lineOfBytes]
  | append_singleton ys b ih =>
    have hlast : ∀ zs : List Byte, lineOfBytes (zs ++ [b]) = lineOfBytes zs <<< 8 ||| b.zeroExtend 128 := fun zs => by
      simp [lineOfBytes]
    rw [← List.append_assoc, hlast, hlast, ih, BitVec.shiftLeft_or_distrib, ← BitVec.shiftLeft_add, BitVec.or_assoc,
      List.length_append, List.length_singleton, Nat.mul_add]

/-- A long word in the low bits of a line. -/
theorem zeroExtend_ofBytes {l : List Byte} (h : l.length ≤ 4) : (ofBytes l).zeroExtend 128 = lineOfBytes l := by
  refine BitVec.eq_of_getLsbD_eq fun i hi => ?_
  rw [lineOfBytes, getLsbD_foldl_bytes hi, BitVec.getLsbD_setWidth, decide_eq_true hi, Bool.true_and]
  by_cases h32 : i < 32
  · rw [ofBytes, getLsbD_foldl_bytes h32]
  · rw [BitVec.getLsbD_of_ge _ _ (by omega), List.getD_eq_default _ _ (by rw [List.length_reverse]; omega)]
    exact BitVec.getLsbD_zero.symm

theorem bytesOfLine_eq (v : BitVec 128) (n : Nat) :
    bytesOfLine v n = (List.range n).reverse.map fun k => v.extractLsb' (8 * k) 8 := by
  induction n with
  | zero => rfl
  | succ n ih => rw [bytesOfLine, ih, List.range_succ, List.reverse_concat, List.map_cons]

@[simp] theorem bytesOfLine_length (v : BitVec 128) (n : Nat) : (bytesOfLine v n).length = n := by simp [bytesOfLine_eq]

theorem bytesOfLine_lineOfBytes {l : List Byte} (h : l.length = 16) : bytesOfLine (lineOfBytes l) 16 = l := by
  refine List.ext_getElem (by simp [h]) fun j h1 h2 => ?_
  refine BitVec.eq_of_getLsbD_eq fun i hi => ?_
  have hj : 15 - j < l.reverse.length := by rw [List.length_reverse]; omega
  have hdiv : (8 * (15 - j) + i) / 8 = 15 - j := by omega
  have hmod : (8 * (15 - j) + i) % 8 = i := by omega
  simp only [bytesOfLine_eq, List.getElem_map, List.getElem_reverse, List.getElem_range, List.length_range,
    BitVec.getLsbD_extractLsb', hi, decide_true, Bool.true_and]
  rw [lineOfBytes, getLsbD_foldl_bytes (by omega), show 16 - 1 - j = 15 - j by omega, hdiv, hmod,
    List.getD_eq_getElem _ _ hj, List.getElem_reverse]
  congr 2
  omega

/-! ### Lines -/

theorem CacheLine.bytes_all (x : CacheLine) : x.bytes 0 16 = bytesOfLine x.data 16 :=
  List.take_of_length_le (by simp)

theorem CacheLine.update_bytes (x : CacheLine) {off : Nat} {bs : List Byte} (h : off + bs.length ≤ 16) (mark : Bool) :
    (x.update off bs mark).bytes 0 16 = (x.bytes 0 16).take off ++ bs ++ (x.bytes 0 16).drop (off + bs.length) := by
  rw [CacheLine.bytes_all, CacheLine.bytes_all]
  exact bytesOfLine_lineOfBytes (by simp; omega)

/-- A bit of a word whose bits are set one after the other, where a condition holds. -/
theorem getLsbD_foldl_twoPow {w i : Nat} (hi : i < w) (p : Nat → Prop) [DecidablePred p] (l : List Nat) (acc : BitVec w) :
    (l.foldl (fun acc k => if p k then acc ||| BitVec.twoPow w k else acc) acc).getLsbD i =
      (acc.getLsbD i || decide (i ∈ l ∧ p i)) := by
  induction l generalizing acc with
  | nil => simp
  | cons k l ih =>
    rw [List.foldl_cons, ih]
    by_cases hk : i = k
    · subst hk
      by_cases hp : p i <;> simp [hp, hi]
    · split <;> simp [hk, Ne.symm hk, BitVec.getLsbD_twoPow]

theorem getLsbD_touchedLongs (off n : Nat) {i : Nat} (hi : i < 4) :
    (touchedLongs off n).getLsbD i = (decide (4 * i < off + n) && decide (off < 4 * i + 4)) := by
  rw [touchedLongs, getLsbD_foldl_twoPow hi (fun k => off < 4 * k + 4 ∧ 4 * k < off + n)]
  simp [hi, Bool.and_comm]

theorem CacheLine.update_dirty (x : CacheLine) (off : Nat) (bs : List Byte) (mark : Bool) {i : Nat} (hi : i < 4) :
    (x.update off bs mark).dirty.getLsbD i = (x.dirty.getLsbD i ||
      (mark && (decide (4 * i < off + bs.length) && decide (off < 4 * i + 4)))) := by
  cases mark
  · simp [CacheLine.update]
  · simp [CacheLine.update, getLsbD_touchedLongs off bs.length hi]

/-! ### Lines of memory -/

/-- The rest of some bytes of memory, and so many of them. -/
theorem getBytes_drop_take (ram : List Host.Cell) (base : Nat) (a : Long) {off n k : Nat} (h : off + n ≤ k) :
    ((getBytes ram base a k).drop off).take n = getBytes ram base (a + BitVec.ofNat 32 off) n := by
  obtain ⟨r, rfl⟩ := Nat.exists_eq_add_of_le h
  rw [Nat.add_assoc, ← getBytes_append, List.drop_left' (getBytes_length ..), ← getBytes_append,
    List.take_left' (getBytes_length ..)]

/-- A physical address is its line and its offset. -/
theorem lineBase_add_lineOffset (pa : Long) : lineBase pa + BitVec.ofNat 32 (lineOffset pa) = pa := by
  have hlow : BitVec.ofNat 32 (lineOffset pa) = pa &&& 15#32 := by
    refine BitVec.eq_of_getLsbD_eq fun i hi => ?_
    have hmask : ∀ j < 32, (15#32).getLsbD j = decide (j < 4) := by decide
    rw [lineOffset, BitVec.ofNat_toNat, BitVec.getLsbD_setWidth, BitVec.getLsbD_extractLsb', BitVec.getLsbD_and, hmask i hi,
      decide_eq_true hi, Bool.true_and, Nat.zero_add, Bool.and_comm]
  have hapart : lineBase pa &&& BitVec.ofNat 32 (lineOffset pa) = 0#32 := by
    rw [hlow, lineBase, BitVec.and_assoc, ← BitVec.and_assoc _ pa, BitVec.and_comm _ pa, BitVec.and_assoc]
    simp
  rw [BitVec.add_eq_or_of_and_eq_zero _ _ hapart, hlow, lineBase, ← BitVec.and_or_distrib_left]
  exact BitVec.and_allOnes

/-- The line of memory that holds `pa`, as a line fill brings it into a cache. -/
def memoryLine (ram : List Host.Cell) (pa : Long) : CacheLine :=
  ⟨cacheTag pa, lineOfBytes (getBytes ram 0 (lineBase pa) 16), 0⟩

@[simp] theorem memoryLine_dirty (ram : List Host.Cell) (pa : Long) : (memoryLine ram pa).dirty = 0 := rfl

theorem memoryLine_bytes (ram : List Host.Cell) (pa : Long) :
    (memoryLine ram pa).bytes 0 16 = getBytes ram 0 (lineBase pa) 16 := by
  rw [CacheLine.bytes_all]
  exact bytesOfLine_lineOfBytes (getBytes_length ..)

/-! ### The line read -/

/-- Long word `k` of the line at `base`, in its place in the line. -/
def laneOf (ram : List Host.Cell) (base : Long) (k : Nat) : BitVec 128 :=
  (ofBytes (getBytes ram 0 (base + BitVec.ofNat 32 (4 * k)) 4)).zeroExtend 128 <<< (32 * (3 - k))

theorem lineOfBytes_eq_lanes (ram : List Host.Cell) (base : Long) :
    lineOfBytes (getBytes ram 0 base 16) =
      laneOf ram base 0 ||| laneOf ram base 1 ||| laneOf ram base 2 ||| laneOf ram base 3 := by
  have hlane : ∀ k, laneOf ram base k =
      lineOfBytes (getBytes ram 0 (base + BitVec.ofNat 32 (4 * k)) 4) <<< (32 * (3 - k)) := fun k => by
    rw [laneOf, zeroExtend_ofBytes (getBytes_length ..).le]
  rw [show 16 = 4 + 4 + 4 + 4 from rfl, ← getBytes_append, ← getBytes_append, ← getBytes_append, lineOfBytes_append,
    lineOfBytes_append, lineOfBytes_append]
  simp only [hlane, getBytes_length, BitVec.shiftLeft_or_distrib, ← BitVec.shiftLeft_add]
  simp

/-- Four things taken in turn, from any of them on. -/
theorem foldl_or_rotated (f : Nat → BitVec 128) {k : Nat} (hk : k < 4) :
    (List.range' k 4).foldl (fun d j => d ||| f (j % 4)) 0 = f 0 ||| f 1 ||| f 2 ||| f 3 := by
  interval_cases k <;> simp [List.range'] <;> ac_rfl

/-- On a quiet bus that caches everything each long word of a line read arrives in its place. -/
theorem lineReads_quiet (base : Long) : ∀ (fuel : Nat) {m : MemSys} {c : Cycle} (k : Nat), m.quiet = true → m.inhibit = [] →
    m.fillBuffer.tci = false → c.tt ≠ 2 → lineReads fuel m c base k = { m with fillBuffer :=
      ⟨(List.range' k fuel).foldl (fun d j => d ||| laneOf m.ram base (j % 4)) m.fillBuffer.data,
        m.fillBuffer.got + fuel, false⟩ }
  | 0, m, _, _, _, _, ht, _ => by
    rw [lineReads, ← ht]
    rfl
  | fuel + 1, m, c, k, hq, hi, ht, hc => by
    have htci : ∀ key, m.tci key = false := fun key => by rw [MemSys.tci, hi]; rfl
    rw [lineReads]
    simp only [readCycle_quiet hq hc, htci, ht, ite_self, Bool.false_eq_true, if_false]
    rw [lineReads_quiet base fuel (k + 1) (by exact hq) (by exact hi) rfl (by rwa [Cycle.then_tt]), List.range'_succ,
      List.foldl_cons, Nat.add_assoc, Nat.add_comm 1 fuel]
    rfl

/-- On such a bus a line read leaves the line of memory in the line-fill buffer. -/
theorem lineRead_quiet {m : MemSys} {c : Cycle} (hq : m.quiet = true) (hi : m.inhibit = []) (hc : c.tt ≠ 2) (pa : Long) :
    m.lineRead c pa = { m with fillBuffer := ⟨(memoryLine m.ram pa).data, 4, false⟩ } := by
  have hk : lineOffset pa / 4 < 4 := by
    have : lineOffset pa < 16 := (pa.extractLsb' 0 4).isLt
    omega
  have hdata : (List.range' (lineOffset pa / 4) 4).foldl (fun d j => d ||| laneOf m.ram (lineBase pa) (j % 4)) 0 =
      (memoryLine m.ram pa).data := by
    rw [memoryLine, lineOfBytes_eq_lanes, foldl_or_rotated (laneOf m.ram (lineBase pa)) hk]
  rw [MemSys.lineRead, lineReads_quiet _ _ _ (by exact hq) (by exact hi) rfl hc, ← hdata]
  rfl

/-- A full line-fill buffer has the bytes that an access within its line needs. -/
theorem FillBuffer.serves_full {pa : Long} {n : Nat} (h : lineOffset pa + n ≤ 16) (d : BitVec 128) (t : Bool) :
    FillBuffer.serves ⟨d, 4, t⟩ pa n = true :=
  decide_eq_true (by simp only; omega)

theorem FillBuffer.bytes_memoryLine (ram : List Host.Cell) {pa : Long} {n : Nat} (h : lineOffset pa + n ≤ 16) (t : Bool) :
    FillBuffer.bytes ⟨(memoryLine ram pa).data, 4, t⟩ pa n = getBytes ram 0 pa n := by
  rw [FillBuffer.bytes, ← CacheLine.bytes_all, memoryLine_bytes, getBytes_drop_take ram 0 _ h, lineBase_add_lineOffset]

end Sys2Proof.Machine
end

section
/-! PROOFS. The accesses of the processor through the data cache, with nothing else on the bus (22_caches_bus R331 to R335,
R337, R340). -/

namespace Sys2Proof.Machine

variable {c : Control} {m : MemSys} {a : Access} {pa : Long} {cm : BitVec 2} {bs : List Byte} {n k : Nat} {x : CacheLine}

/-! ### Pushes and line fills -/

theorem Stored.dcache {m m' : MemSys} {ram : List Host.Cell} (h : Stored m m' ram) : m'.dcache = m.dcache := by
  obtain ⟨p, rfl⟩ := h
  rfl

@[simp] theorem modify_dcache (m : MemSys) (k : Nat) (x : CacheLine) (pa : Long) (bs : List Byte) (mark : Bool) :
    (m.modify k x pa bs mark).dcache = tabPut m.dcache k (x.update (lineOffset pa) bs mark) := rfl

/-- What a push of a line leaves in memory (22_caches_bus R333, R342). -/
def ramPushed (ram : List Host.Cell) (k : Nat) (x : CacheLine) (locked : Bool) : List Host.Cell :=
  if x.dirty = 0 then ram else putBytes ram 0 (pushOf k x locked).addr (pushOf k x locked).bytes

theorem pushLine_quiet (hq : m.quiet = true) (k : Nat) (x : CacheLine) (locked : Bool) :
    ∃ m', pushLine m k x locked = .ok () m' ∧ Stored m m' (ramPushed m.ram k x locked) := by
  obtain ⟨-, -, hdue, -, hbuf⟩ := quiet_iff.1 hq
  by_cases hx : x.dirty = 0
  · exact ⟨m, by rw [pushLine, if_pos hx], by rw [ramPushed, if_pos hx]; exact Stored.refl m⟩
  · obtain ⟨herr, hwin, -, hstr⟩ := writable_of_quiet hq
    let p := pushOf k x locked
    obtain ⟨m', e, q, rfl⟩ := busWrites_writable p.bytes.length (m := { m with pushBuffer := some (k, x) })
      ⟨herr, hwin, hdue, hstr⟩ (c := Cycle.push p.line locked) (by simp [Cycle.push]) p.addr p.bytes le_rfl
    refine ⟨{ m with ram := ramPushed m.ram k x locked, stale := q }, ?_, q, rfl⟩
    simp only [pushLine, if_neg hx, pushBuffered, Option.isNone_some, Bool.false_eq_true, if_false, MemSys.tick, hdue,
      MemSys.busWrite, p] at e ⊢
    simp only [e, ramPushed, if_neg hx, ← hbuf]

/-- An access that no cache may serve pushes the line that it hits, if that is dirty, and invalidates it. -/
theorem evictMatch_hit (hq : m.quiet = true) (hp : m.pushFaults = []) (hf : findLine m.dcache pa = some (k, x)) (locked : Bool) :
    ∃ m', evictMatch m pa locked = .ok () m' ∧
      Stored { m with dcache := tabDel m.dcache k } m' (ramPushed m.ram k x locked) := by
  obtain ⟨m', e, hs⟩ := pushLine_quiet (m := { m with dcache := tabDel m.dcache k }) hq k x locked
  have hnone : (if x.dirty = 0 ∨ m.serialized = true then none else m.pushFaults.head?) = none := by simp [hp]
  exact ⟨m', by simp only [evictMatch, hf, hnone, e, PRes.postponed], hs⟩

theorem evictMatch_miss (hf : findLine m.dcache pa = none) (locked : Bool) : evictMatch m pa locked = .ok () m := by
  rw [evictMatch, hf]

/-- A line fill with a free way in the set puts the line of memory there, and pushes nothing. -/
theorem fillDcache_free (hq : m.quiet = true) (hi : m.inhibit = []) (ha : a.tt ≠ 2) {w : Nat}
    (hw : freeWay m.dcache (cacheSet pa) = some w) (hn : lineOffset pa + n ≤ 16) (wr : Option (List Byte)) :
    fillDcache m a pa n wr = .cached (getBytes m.ram 0 pa n)
      ({ m with fillBuffer := .empty }.install (4 * cacheSet pa + w) (memoryLine m.ram pa) pa wr) := by
  obtain ⟨-, -, -, -, hbuf⟩ := quiet_iff.1 hq
  have hfree := (freeWay_eq_some hw).2
  have hvictim : { m with dcache := m.dcache, pushBuffer := none } = m := by rw [← hbuf]
  have hpush : ∀ m' : MemSys, m'.pushBuffer = none → m'.pushVictim = m' := fun m' h => by
    simp [MemSys.pushVictim, pushBuffered, h]
  simp only [fillDcache, hw, Option.getD_some, hfree, Option.isSome_none, Bool.false_eq_true, if_false, Option.filter_none,
    Option.map_none, tabDel_of_tabGet_none hfree, hvictim,
    lineRead_quiet hq hi (show (Cycle.lineOf a.tt a.tm a.locked (pa.extractLsb' 0 2)).tt ≠ 2 from ha),
    FillBuffer.serves_full hn, FillBuffer.bytes_memoryLine m.ram hn, Bool.not_true, Nat.lt_irrefl, decide_false, Bool.or_false]
  rw [hpush _ (by cases wr <;> exact hbuf)]
  rfl

/-! ### What an access comes to -/

theorem pieceRead_nocache (hon : c.dcacheOn m = true) (hq : m.quiet = true) (hc : a.nocache cm = true) (n : Nat) :
    pieceRead c m a pa cm n = (evictMatch m pa a.locked).bind fun _ m => busReadP m a pa n := by
  simp [pieceRead, dataTick_of_due (quiet_iff.1 hq).2.2.1, hon, hc]

theorem pieceRead_hit (hon : c.dcacheOn m = true) (hq : m.quiet = true) (hc : a.nocache cm = false)
    (hf : findLine m.dcache pa = some (k, x)) (n : Nat) :
    pieceRead c m a pa cm n = .ok (x.bytes (lineOffset pa) n) (m.bumpDcache (halfLines pa n)) := by
  simp [pieceRead, dataTick_of_due (quiet_iff.1 hq).2.2.1, hon, hc, MemSys.bumpDcache, hf]

theorem pieceRead_fill (hon : c.dcacheOn m = true) (hq : m.quiet = true) (hi : m.inhibit = []) (ha : a.tt ≠ 2)
    (hl : a.line = none) (hal : a.alloc = true) (hc : a.nocache cm = false) (hf : findLine m.dcache pa = none) {w : Nat}
    (hw : freeWay m.dcache (cacheSet pa) = some w) (hn : lineOffset pa + n ≤ 16) :
    pieceRead c m a pa cm n = .ok (getBytes m.ram 0 pa n)
      { m.bumpDcache (halfLines pa n) with
        fillBuffer := .empty, dcache := tabPut m.dcache (4 * cacheSet pa + w) (memoryLine m.ram pa) } := by
  have hfill := fillDcache_free (m := m.bumpDcache (halfLines pa n)) (a := a) hq hi ha hw hn none
  simp only [pieceRead, dataTick_of_due (quiet_iff.1 hq).2.2.1, hon, hc, Bool.not_true, Bool.false_eq_true, if_false,
    show (m.bumpDcache (halfLines pa n)).dcache = m.dcache from rfl, hf, hl, hal, Option.isSome_none, Bool.or_self, hfill]
  rfl

/-- Where no reset has struck a write is made. -/
theorem pieceWrite_made (hq : m.quiet = true) (c : Control) (a : Access) (pa : Long) (cm : BitVec 2) (bs : List Byte) :
    pieceWrite c m a pa cm bs = pieceWriteMade c m a pa cm bs := by
  obtain ⟨-, -, hdue, hstr, -⟩ := quiet_iff.1 hq
  simp [pieceWrite, dataTick_of_due hdue, hstr]

theorem pieceWriteMade_nocache (hon : c.dcacheOn m = true) (hc : a.nocache cm = true) (bs : List Byte) :
    pieceWriteMade c m a pa cm bs = (evictMatch m pa a.locked).bind fun _ m => busWriteP m a pa bs := by
  simp [pieceWriteMade, hon, hc]

theorem pieceWriteMade_through_hit (hon : c.dcacheOn m = true) (hl : a.line = none) (hc : a.nocache 0 = false)
    (hf : findLine m.dcache pa = some (k, x)) (bs : List Byte) :
    pieceWriteMade c m a pa 0 bs =
      busWriteP ((m.bumpDcache (transferCount bs.length pa.toNat bs.length)).modify k x pa bs false) a pa bs := by
  simp only [pieceWriteMade, hon, hl, hc, MemSys.bumpDcache, hf]
  rfl

theorem pieceWriteMade_through_miss (hon : c.dcacheOn m = true) (hl : a.line = none) (hc : a.nocache 0 = false)
    (hf : findLine m.dcache pa = none) (bs : List Byte) :
    pieceWriteMade c m a pa 0 bs = busWriteP (m.bumpDcache (transferCount bs.length pa.toNat bs.length)) a pa bs := by
  simp only [pieceWriteMade, hon, hl, hc, MemSys.bumpDcache, hf]
  rfl

theorem pieceWriteMade_copyback_hit (hon : c.dcacheOn m = true) (hl : a.line = none) (hc : a.nocache cm = false) (hcm : cm ≠ 0)
    (hf : findLine m.dcache pa = some (k, x)) (bs : List Byte) :
    pieceWriteMade c m a pa cm bs = .ok () ((m.bumpDcache 1).modify k x pa bs true) := by
  simp only [pieceWriteMade, hon, hl, hc, if_neg hcm, MemSys.bumpDcache, hf]
  rfl

theorem pieceWriteMade_copyback_fill (hon : c.dcacheOn m = true) (hq : m.quiet = true) (hi : m.inhibit = []) (ha : a.tt ≠ 2)
    (hl : a.line = none) (hal : a.alloc = true) (hc : a.nocache cm = false) (hcm : cm ≠ 0)
    (hf : findLine m.dcache pa = none) {w : Nat} (hw : freeWay m.dcache (cacheSet pa) = some w)
    (hn : lineOffset pa + bs.length ≤ 16) :
    pieceWriteMade c m a pa cm bs = .ok () ({ m.bumpDcache 1 with fillBuffer := .empty }.install (4 * cacheSet pa + w)
      (memoryLine m.ram pa) pa (some bs)) := by
  have hfill := fillDcache_free (m := m.bumpDcache 1) (a := a) hq hi ha hw hn (some bs)
  simp only [pieceWriteMade, hon, hc, hl, hal, if_neg hcm, show (m.bumpDcache 1).dcache = m.dcache from rfl, hf, hfill]
  rfl

/-! ### The line that an access leaves -/

/-- The line of `pa` is hit under the key `k` in a cache with these bytes and dirty bits, and the entries of `l0` under other
keys are there too. -/
def HoldsLine (l0 l : List (Nat × CacheLine)) (pa : Long) (k : Nat) (data : List Byte) (dirty : Nat → Bool) : Prop :=
  ∃ x, findLine l pa = some (k, x) ∧ x.bytes 0 16 = data ∧ (∀ i < 4, x.dirty.getLsbD i = dirty i) ∧
    ∀ q ∈ l0, q.1 ≠ k → q ∈ l

/-- The bytes of a line with `bs` written over them from an offset. -/
def mergedBytes (off : Nat) (bs data : List Byte) : List Byte := data.take off ++ bs ++ data.drop (off + bs.length)

/-- Whether a write of `n` bytes from an offset touches long word `i` of its line. -/
def touchesLong (off n i : Nat) : Bool := decide (4 * i < off + n) && decide (off < 4 * i + 4)

theorem holdsLine_tabPut {l : List (Nat × CacheLine)} (hf : findLine (tabPut l k x) pa = some (k, x)) :
    HoldsLine l (tabPut l k x) pa k (x.bytes 0 16) x.dirty.getLsbD :=
  ⟨x, hf, rfl, fun _ _ => rfl, fun _ hq hne => mem_tabPut_of_ne hne _ hq⟩

/-- A write into the line that is hit. -/
theorem holdsLine_update {l : List (Nat × CacheLine)} (hf : findLine l pa = some (k, x)) (hn : lineOffset pa + bs.length ≤ 16)
    (mark : Bool) : HoldsLine l (tabPut l k (x.update (lineOffset pa) bs mark)) pa k
      (mergedBytes (lineOffset pa) bs (x.bytes 0 16))
      fun i => x.dirty.getLsbD i || (mark && touchesLong (lineOffset pa) bs.length i) :=
  ⟨_, findLine_tabPut_hit hf rfl, x.update_bytes hn mark, fun _ hi => x.update_dirty _ bs mark hi,
    fun _ hq hne => mem_tabPut_of_ne hne _ hq⟩

/-- A line filled from memory. -/
theorem holdsLine_fill {l : List (Nat × CacheLine)} {w : Nat} (hf : findLine l pa = none)
    (hw : freeWay l (cacheSet pa) = some w) (ram : List Host.Cell) :
    HoldsLine l (tabPut l (4 * cacheSet pa + w) (memoryLine ram pa)) pa (4 * cacheSet pa + w)
      (getBytes ram 0 (lineBase pa) 16) fun _ => false := by
  obtain ⟨x, hx, hbytes, hdirty, hothers⟩ := holdsLine_tabPut (findLine_tabPut_free (y := memoryLine ram pa) hf hw rfl)
  exact ⟨x, hx, hbytes.trans (memoryLine_bytes ram pa), fun i hi => (hdirty i hi).trans BitVec.getLsbD_zero, hothers⟩

/-- A line filled from memory, with a write in it. -/
theorem holdsLine_fill_update {l : List (Nat × CacheLine)} {w : Nat} (hf : findLine l pa = none)
    (hw : freeWay l (cacheSet pa) = some w) (hn : lineOffset pa + bs.length ≤ 16) (ram : List Host.Cell) :
    HoldsLine l (tabPut (tabPut l (4 * cacheSet pa + w) (memoryLine ram pa)) (4 * cacheSet pa + w)
        ((memoryLine ram pa).update (lineOffset pa) bs true)) pa (4 * cacheSet pa + w)
      (mergedBytes (lineOffset pa) bs (getBytes ram 0 (lineBase pa) 16)) (touchesLong (lineOffset pa) bs.length) := by
  obtain ⟨x, hx, hbytes, hdirty, hothers⟩ :=
    holdsLine_update (bs := bs) (findLine_tabPut_free (y := memoryLine ram pa) hf hw rfl) hn true
  refine ⟨x, hx, hbytes.trans (by rw [memoryLine_bytes]), fun i hi => (hdirty i hi).trans (by simp), fun q hq hne => ?_⟩
  exact hothers q (mem_tabPut_of_ne hne _ hq) hne

/-! ### Accesses of an operand, page by page -/

/-- An access of an operand that may allocate, the function code being `tm`. -/
def operandAccess (tm : BitVec 3) (locked : Bool) : Access := ⟨0, tm, locked, true, none⟩

variable {tm : BitVec 3} {locked : Bool}

theorem operandAccess_tt (tm : BitVec 3) (locked : Bool) : (operandAccess tm locked).tt ≠ 2 := by simp [operandAccess]

theorem operandAccess_locked (tm : BitVec 3) (locked : Bool) : (operandAccess tm locked).locked = locked := rfl

/-- The cache may serve an operand that is not locked and whose page is cachable. -/
theorem operandAccess_nocache_iff : (operandAccess tm locked).nocache cm = false ↔ locked = false ∧ cm.getLsbD 1 = false := by
  simp [operandAccess, Access.nocache]

theorem nocache_of_not_cached (h : ¬ (locked = false ∧ cm.getLsbD 1 = false)) : (operandAccess tm locked).nocache cm = true :=
  Bool.eq_true_of_not_eq_false (mt operandAccess_nocache_iff.1 h)

section
variable (hon : c.dcacheOn m = true) (hq : m.quiet = true)
include hon hq

/-- A read that no cache may serve, where the line is held. -/
theorem read_uncached_hit (hp : m.pushFaults = []) (hc : ¬ (locked = false ∧ cm.getLsbD 1 = false))
    (hf : findLine m.dcache pa = some (k, x)) (n : Nat) :
    ∃ m', pieceRead c m (operandAccess tm locked) pa cm n = .ok (getBytes (ramPushed m.ram k x locked) 0 pa n) m' ∧
      m'.ram = ramPushed m.ram k x locked ∧ m'.dcache = tabDel m.dcache k := by
  obtain ⟨m', e, hs⟩ := evictMatch_hit hq hp hf locked
  refine ⟨m', ?_, hs.ram, ?_⟩
  · rw [pieceRead_nocache hon hq (nocache_of_not_cached hc), operandAccess_locked, e, PRes.ok_bind,
      busReadP_flat (hs.quiet.trans hq) (operandAccess_tt tm locked), hs.ram]
  · exact hs.dcache

/-- A write that no cache may serve, where the line is held. -/
theorem write_uncached_hit (hp : m.pushFaults = []) (hc : ¬ (locked = false ∧ cm.getLsbD 1 = false))
    (hf : findLine m.dcache pa = some (k, x)) (bs : List Byte) :
    ∃ m', pieceWrite c m (operandAccess tm locked) pa cm bs = .ok () m' ∧
      m'.ram = putBytes (ramPushed m.ram k x locked) 0 pa bs ∧ m'.dcache = tabDel m.dcache k := by
  obtain ⟨m1, e1, h1⟩ := evictMatch_hit hq hp hf locked
  obtain ⟨m', e, hs⟩ := busWriteP_flat (writable_of_quiet (h1.quiet.trans hq)) (operandAccess_tt tm locked) pa bs
  refine ⟨m', ?_, ?_, ?_⟩
  · rw [pieceWrite_made hq, pieceWriteMade_nocache hon (nocache_of_not_cached hc), operandAccess_locked, e1, PRes.ok_bind, e]
  · rw [hs.ram, h1.ram]
  · rw [hs.dcache, h1.dcache]

/-- A read that no cache may serve, where the line is not held. -/
theorem read_uncached_miss (hc : ¬ (locked = false ∧ cm.getLsbD 1 = false)) (hf : findLine m.dcache pa = none) (n : Nat) :
    pieceRead c m (operandAccess tm locked) pa cm n = .ok (getBytes m.ram 0 pa n) m := by
  rw [pieceRead_nocache hon hq (nocache_of_not_cached hc), evictMatch_miss hf, PRes.ok_bind,
    busReadP_flat hq (operandAccess_tt tm locked)]

/-- A write that misses and does not bring in a line. -/
theorem write_miss (hc : ¬ (locked = false ∧ cm.getLsbD 1 = false) ∨ cm = 0) (hf : findLine m.dcache pa = none) (bs : List Byte) :
    ∃ m', pieceWrite c m (operandAccess tm locked) pa cm bs = .ok () m' ∧ m'.ram = putBytes m.ram 0 pa bs ∧
      m'.dcache = m.dcache := by
  obtain ⟨r, hmade⟩ : ∃ r, pieceWriteMade c m (operandAccess tm locked) pa cm bs =
      busWriteP { m with dcacheCtr := r } (operandAccess tm locked) pa bs := by
    cases hn : (operandAccess tm locked).nocache cm with
    | true => exact ⟨m.dcacheCtr, by rw [pieceWriteMade_nocache hon hn, evictMatch_miss hf, PRes.ok_bind]⟩
    | false =>
      obtain rfl : cm = 0 := hc.resolve_left (not_not_intro (operandAccess_nocache_iff.1 hn))
      exact ⟨_, pieceWriteMade_through_miss hon rfl hn hf bs⟩
  obtain ⟨m', e, hs⟩ := busWriteP_flat (m := { m with dcacheCtr := r }) (writable_of_quiet hq)
    (operandAccess_tt tm locked) pa bs
  exact ⟨m', by rw [pieceWrite_made hq, hmade, e], hs.ram, hs.dcache⟩

/-- A writethrough write changes memory and the line that it hits. -/
theorem write_through_hit (hc : locked = false ∧ cm.getLsbD 1 = false) (hcm : cm = 0) (hf : findLine m.dcache pa = some (k, x))
    (hn : lineOffset pa + bs.length ≤ 16) :
    ∃ m', pieceWrite c m (operandAccess tm locked) pa cm bs = .ok () m' ∧ m'.ram = putBytes m.ram 0 pa bs ∧
      HoldsLine m.dcache m'.dcache pa k (mergedBytes (lineOffset pa) bs (x.bytes 0 16)) fun i => x.dirty.getLsbD i := by
  subst hcm
  have hmade := pieceWriteMade_through_hit (a := operandAccess tm locked) hon rfl (operandAccess_nocache_iff.2 hc) hf bs
  obtain ⟨m', e, hs⟩ := busWriteP_flat
    (m := (m.bumpDcache (transferCount bs.length pa.toNat bs.length)).modify k x pa bs false) (writable_of_quiet hq)
    (operandAccess_tt tm locked) pa bs
  refine ⟨m', by rw [pieceWrite_made hq, hmade, e], hs.ram, ?_⟩
  simpa [hs.dcache, MemSys.bumpDcache] using holdsLine_update hf hn false

/-- A copyback write changes the line that it hits, and not memory. -/
theorem write_back_hit (hc : locked = false ∧ cm.getLsbD 1 = false) (hcm : cm ≠ 0) (hf : findLine m.dcache pa = some (k, x))
    (hn : lineOffset pa + bs.length ≤ 16) :
    ∃ m', pieceWrite c m (operandAccess tm locked) pa cm bs = .ok () m' ∧ m'.ram = m.ram ∧
      HoldsLine m.dcache m'.dcache pa k (mergedBytes (lineOffset pa) bs (x.bytes 0 16))
        fun i => x.dirty.getLsbD i || touchesLong (lineOffset pa) bs.length i := by
  refine ⟨_, (pieceWrite_made hq ..).trans
    (pieceWriteMade_copyback_hit hon rfl (operandAccess_nocache_iff.2 hc) hcm hf bs), rfl, ?_⟩
  exact holdsLine_update hf hn true

/-- A copyback write that misses brings the line in, with the bytes written in it. -/
theorem write_back_fill (hi : m.inhibit = []) (hc : locked = false ∧ cm.getLsbD 1 = false) (hcm : cm ≠ 0)
    (hf : findLine m.dcache pa = none) {w : Nat} (hw : freeWay m.dcache (cacheSet pa) = some w)
    (hn : lineOffset pa + bs.length ≤ 16) :
    ∃ m', pieceWrite c m (operandAccess tm locked) pa cm bs = .ok () m' ∧ m'.ram = m.ram ∧
      HoldsLine m.dcache m'.dcache pa (4 * cacheSet pa + w)
        (mergedBytes (lineOffset pa) bs (getBytes m.ram 0 (lineBase pa) 16)) (touchesLong (lineOffset pa) bs.length) := by
  refine ⟨_, (pieceWrite_made hq ..).trans (pieceWriteMade_copyback_fill hon hq hi (operandAccess_tt tm locked) rfl rfl
    (operandAccess_nocache_iff.2 hc) hcm hf hw hn), rfl, ?_⟩
  exact holdsLine_fill_update hf hw hn m.ram

/-- A read that misses brings the line in, clean. -/
theorem read_fill (hi : m.inhibit = []) (hc : locked = false ∧ cm.getLsbD 1 = false)
    (hf : findLine m.dcache pa = none) {w : Nat} (hw : freeWay m.dcache (cacheSet pa) = some w)
    (hn : lineOffset pa + n ≤ 16) :
    ∃ m', pieceRead c m (operandAccess tm locked) pa cm n = .ok (getBytes m.ram 0 pa n) m' ∧ m'.ram = m.ram ∧
      HoldsLine m.dcache m'.dcache pa (4 * cacheSet pa + w) (getBytes m.ram 0 (lineBase pa) 16) fun _ => false :=
  ⟨_, pieceRead_fill hon hq hi (operandAccess_tt tm locked) rfl rfl (operandAccess_nocache_iff.2 hc) hf hw hn, rfl,
    holdsLine_fill hf hw m.ram⟩

end

end Sys2Proof.Machine
end

section
/-! PROOFS. Snoops, the fetch of an instruction word through the instruction cache, and the obligation on the caches
(22_caches_bus R333, R336 to R340, R345, R348). -/

namespace Sys2Proof.Machine

variable {c : Control} {m : MemSys} {pa : Long} {cm : BitVec 2} {k : Nat} {x : CacheLine}

/-! ### Snoops -/

/-- The cache without the line that `pa` hits. -/
def dropLine (l : List (Nat × CacheLine)) (pa : Long) : List (Nat × CacheLine) :=
  match findLine l pa with
  | some (k, _) => tabDel l k
  | none => l

theorem dropLine_hit {l : List (Nat × CacheLine)} (h : findLine l pa = some (k, x)) : dropLine l pa = tabDel l k := by
  rw [dropLine, h]

theorem dropLine_miss {l : List (Nat × CacheLine)} (h : findLine l pa = none) : dropLine l pa = l := by
  rw [dropLine, h]

theorem snoopIcache_eq (m : MemSys) (pa : Long) : m.snoopIcache pa = { m with icache := dropLine m.icache pa } := by
  rw [MemSys.snoopIcache, dropLine]
  cases findLine m.icache pa <;> rfl

theorem buffered_of_empty (h : m.pushBuffer = none) (pa : Long) : m.buffered pa = none := by
  rw [MemSys.buffered, h, Option.filter_none]

theorem snoopDrop_eq (h : m.pushBuffer = none) (pa : Long) : m.snoopDrop pa = { m with dcache := dropLine m.dcache pa } := by
  rw [MemSys.snoopDrop, dropLine]
  cases findLine m.dcache pa with
  | none => simp [buffered_of_empty h]
  | some p => simp [buffered_of_empty (m := { m with dcache := tabDel m.dcache p.1 }) h]

theorem alternateWrite_eq (h : m.windows = []) (pa : Long) (size : BusSize) (data : BitVec 128) :
    m.alternateWrite pa size data = m.store pa (bytesOfLine data size.bytes) := by
  simp [MemSys.alternateWrite, MemSys.windowed, h]

theorem snoopRead_eq (h : m.pushBuffer = none) (pa : Long) (sc : BitVec 2) : snoopRead m pa sc =
    if sc = 2 then { m with dcache := dropLine m.dcache pa, icache := dropLine m.icache pa } else m := by
  rw [snoopRead, snoopIcache_eq, snoopDrop_eq h]

/-- An aligned transfer lies in one line. -/
theorem lineOffset_aligned {size : BusSize} (h : size.align pa = pa) : lineOffset pa + size.bytes ≤ 16 := by
  have hlow : ∀ y : BitVec 4, y &&& ~~~(BitVec.ofNat 4 (size.bytes - 1)) = y → y.toNat + size.bytes ≤ 16 := by
    cases size <;> decide
  refine hlow _ ?_
  conv_rhs => rw [← h]
  rw [BusSize.align, BitVec.extractLsb'_and]
  cases size <;> rfl

section
variable (hq : m.quiet = true) {size : BusSize} (ha : size.align pa = pa) (data : BitVec 128)
include hq ha

/-- A write that snoops nothing reaches memory. -/
theorem snoopWrite_inhibited {sc : BitVec 2} (h : ¬ (sc = 1 ∨ sc = 2)) :
    snoopWrite m pa size sc data = m.store pa (bytesOfLine data size.bytes) := by
  simp only [snoopWrite, ha, if_neg h]
  exact alternateWrite_eq (quiet_iff.1 hq).2.1 pa size data

/-- A write that is not sunk drops the lines that it hits and reaches memory. -/
theorem snoopWrite_dropped {sc : BitVec 2}
    (h : sc = 2 ∨ (sc = 1 ∧ ∀ k x, findLine m.dcache pa = some (k, x) → x.dirty = 0 ∨ size = .line)) :
    snoopWrite m pa size sc data = ({ m with dcache := dropLine m.dcache pa, icache := dropLine m.icache pa }.store pa
      (bytesOfLine data size.bytes)).maintain (· == lineBase pa) := by
  obtain ⟨-, hwin, -, -, hbuf⟩ := quiet_iff.1 hq
  have hsc : sc = 1 ∨ sc = 2 := h.symm.imp And.left id
  have hb : ({ m with icache := dropLine m.icache pa } : MemSys).buffered pa = none := buffered_of_empty hbuf pa
  simp only [snoopWrite, ha, if_pos hsc, snoopIcache_eq, hb]
  refine congrArg (fun m' : MemSys => m'.maintain _) ?_
  cases hf : findLine m.dcache pa with
  | none =>
    rw [dropLine_miss hf]
    exact alternateWrite_eq (by exact hwin) pa size data
  | some p =>
    obtain ⟨k, x⟩ := p
    have hsink : ¬ (x.dirty ≠ 0 ∧ decide (sc = 1 ∧ size ≠ .line) = true) := by
      rw [decide_eq_true_iff]
      rintro ⟨hx, rfl, hsize⟩
      obtain hsc | ⟨-, hclean⟩ := h
      · cases hsc
      · exact (hclean k x hf).elim hx hsize
    simp only [if_neg hsink]
    rw [snoopDrop_eq (by exact hbuf)]
    exact alternateWrite_eq (by exact hwin) pa size data

omit hq in
/-- A write that is sunk goes into the dirty line that it hits. -/
theorem snoopWrite_sunk (hf : findLine m.dcache pa = some (k, x)) (hx : x.dirty ≠ 0) (hsize : size ≠ .line) :
    snoopWrite m pa size 1 data = (MemSys.noted
      { m with icache := dropLine m.icache pa,
               dcache := tabPut m.dcache k (x.update (lineOffset pa) (bytesOfLine data size.bytes) true) }
      { m with icache := dropLine m.icache pa } pa (bytesOfLine data size.bytes).length).maintain (· == lineBase pa) := by
  simp only [snoopWrite, ha, snoopIcache_eq, hf, true_or, if_true]
  rw [if_pos ⟨hx, decide_eq_true ⟨trivial, hsize⟩⟩]

/-- What a snooped write can change, and what becomes of the instruction cache. -/
theorem snoopWrite_frame (sc : BitVec 2) :
    let m' := snoopWrite m pa size sc data
    m' = { m with ram := m'.ram, dcache := m'.dcache, icache := m'.icache, stale := m'.stale } ∧
      m'.icache = if sc = 1 ∨ sc = 2 then dropLine m.icache pa else m.icache := by
  intro m'
  by_cases hsc : sc = 1 ∨ sc = 2
  · rw [if_pos hsc]
    by_cases hdrop : sc = 2 ∨ (sc = 1 ∧ ∀ k x, findLine m.dcache pa = some (k, x) → x.dirty = 0 ∨ size = .line)
    · simp only [m', snoopWrite_dropped hq ha data hdrop]
      exact ⟨rfl, rfl⟩
    · push Not at hdrop
      obtain rfl := hsc.resolve_right hdrop.1
      obtain ⟨k, x, hf, hx, hsize⟩ := hdrop.2 rfl
      simp only [m', snoopWrite_sunk ha data hf hx hsize]
      exact ⟨rfl, rfl⟩
  · simp only [m', if_neg hsc, snoopWrite_inhibited hq ha data hsc]
    exact ⟨rfl, rfl⟩

end

/-! ### Fetches -/

/-- The function code of a fetch is that of a program space of transfer type 0. -/
theorem fetchCycle_tt (super : Bool) (low : BitVec 2) : (Cycle.lineOf 0 (fetchMode super) false low).tt ≠ 2 := by
  simp [Cycle.lineOf]

/-- The word at an even address lies in one line. -/
theorem lineOffset_word (he : pa.getLsbD 0 = false) : lineOffset pa + 2 ≤ 16 := by
  have hlt : lineOffset pa < 16 := (pa.extractLsb' 0 4).isLt
  have heven : lineOffset pa % 2 = 0 := by
    rw [lineOffset, BitVec.extractLsb'_toNat, Nat.shiftRight_zero]
    rw [BitVec.getLsbD, Nat.testBit_zero, decide_eq_false_iff_not] at he
    omega
  omega

section
variable (hon : c.icacheOn m = true) (hq : m.quiet = true) (super : Bool)
include hon hq

theorem fetchPiece_hit (hc : cm.getLsbD 1 = false) (hf : findLine m.icache pa = some (k, x)) (n : Nat) :
    fetchPiece c m super pa cm n = .ok (x.bytes (lineOffset pa) n) { m with icacheCtr := m.icacheCtr + 1 } := by
  simp only [fetchPiece, instrTick_of_due (quiet_iff.1 hq).2.2.1, fetchPieceMade, hon, hc, hf]
  rfl

theorem fetchPiece_fill (hi : m.inhibit = []) (hc : cm.getLsbD 1 = false) (hf : findLine m.icache pa = none) {w n : Nat}
    (hw : freeWay m.icache (cacheSet pa) = some w) (hn : lineOffset pa + n ≤ 16) :
    fetchPiece c m super pa cm n = .ok (getBytes m.ram 0 pa n)
      { m with icacheCtr := m.icacheCtr + 1, fillBuffer := .empty,
               icache := tabPut m.icache (4 * cacheSet pa + w) (memoryLine m.ram pa) } := by
  have hread := lineRead_quiet (m := { m with icacheCtr := m.icacheCtr + 1 }) hq hi
    (fetchCycle_tt super (pa.extractLsb' 0 2)) pa
  simp only [fetchPiece, instrTick_of_due (quiet_iff.1 hq).2.2.1, fetchPieceMade, hon, hc, hf, hw, Option.getD_some,
    Option.isNone_some, Bool.not_true, Bool.false_eq_true, if_false, tabDel_of_tabGet_none (freeWay_eq_some hw).2, hread,
    FillBuffer.serves_full hn, FillBuffer.bytes_memoryLine m.ram hn, Nat.lt_irrefl, decide_false, Bool.or_false]
  rfl

/-- A fetch from a noncachable page reads memory and drops the line that it hits. -/
theorem fetchPiece_uncached (hc : cm.getLsbD 1 = true) (he : pa.getLsbD 0 = false) :
    fetchPiece c m super pa cm 2 = .ok (getBytes m.ram 0 pa 2) { m with icache := dropLine m.icache pa } := by
  have htt : (Cycle.single 0 (fetchMode super) false).tt ≠ 2 := by simp [Cycle.single]
  have hbytes := word_of_long m.ram pa he
  simp only [fetchPiece, instrTick_of_due (quiet_iff.1 hq).2.2.1, fetchPieceMade, hon, hc]
  cases hf : findLine m.icache pa with
  | none =>
    simp only [dropLine_miss hf, readCycle_quiet hq htt]
    exact congrArg (PRes.ok · m) hbytes
  | some p =>
    simp only [dropLine_hit hf, readCycle_quiet (m := { m with icache := tabDel m.icache p.1 }) hq htt]
    exact congrArg (PRes.ok · _) hbytes

end

/-! ### The obligation -/

/-- An event between two instructions is what the next step is. -/
theorem step_event {s : State} {e : Event} {es : List Event} (h : s.inputs = e :: es) :
    step s = .next (applyEvent { s with inputs := es } e) := by
  rw [step, h]

/-- Settles O60: reads and writes through the data cache by whether the line is held and the cache may serve them, snoops by
what they drop or sink, and fetches through the instruction cache. -/
theorem cacheAccessesAndSnoops : Obligations.CacheAccessesAndSnoops := by
  refine ⟨?_, ?_, ?_⟩
  · intro c m tm locked pa cm bs hon hq hi hp _ hn n off a read write holds merged touched memory written cached
    refine ⟨fun k x hf => ⟨fun hc => ?_, fun hc hcm => ?_, fun hc hcm => ?_, fun hc => ⟨?_, ?_⟩⟩,
      fun hf => ⟨fun w hw => ⟨fun hc => ?_, fun hc hcm => ?_⟩, fun hc => ?_, fun hc => ?_⟩⟩
    · exact ⟨_, pieceRead_hit hon hq (operandAccess_nocache_iff.2 hc) hf bs.length, rfl⟩
    · exact write_through_hit hon hq hc hcm hf hn
    · exact write_back_hit hon hq hc (by rw [hcm]; decide) hf hn
    · exact read_uncached_hit hon hq hp hc hf bs.length
    · exact write_uncached_hit hon hq hp hc hf bs
    · exact read_fill hon hq hi hc hf hw hn
    · exact write_back_fill hon hq hi hc (by rw [hcm]; decide) hf hw hn
    · exact ⟨m, read_uncached_miss hon hq hc hf bs.length, rfl, rfl⟩
    · exact write_miss hon hq hc hf bs
  · intro s es pa size sc data hq drop bs
    refine ⟨fun hin => ⟨_, step_event hin, ?_⟩, fun hin ha => ?_⟩
    · exact congrArg (fun m => { s with inputs := es, mem := m }) (snoopRead_eq (quiet_iff.1 hq).2.2.2.2 pa sc)
    · obtain ⟨hframe, hicache⟩ := snoopWrite_frame hq ha data sc
      refine ⟨_, _, step_event hin, congrArg (fun m => { s with inputs := es, mem := m }) hframe, hicache,
        fun hsc => ?_, fun hdrop => ?_, fun k x hsc hf hx hsize => ?_⟩
      · have hmem := snoopWrite_inhibited hq ha data (not_or.2 hsc)
        exact ⟨(congrArg MemSys.ram hmem :), (congrArg MemSys.dcache hmem :)⟩
      · have hmem := snoopWrite_dropped hq ha data hdrop
        exact ⟨(congrArg MemSys.ram hmem :), (congrArg MemSys.dcache hmem :)⟩
      · subst hsc
        have hmem := snoopWrite_sunk ha data hf hx hsize
        have hn : lineOffset pa + bs.length ≤ 16 := by
          rw [bytesOfLine_length]
          exact lineOffset_aligned ha
        obtain ⟨y, hy, hbytes, -, -⟩ := holdsLine_update hf hn true
        have hdcache := congrArg (fun m => findLine m.dcache pa) hmem
        exact ⟨(congrArg MemSys.ram hmem :), y, hdcache.trans hy, hbytes⟩
  · intro c m super pa cm hon hq hi he fetch memory drop
    refine ⟨fun hc k x hf => ?_, fun hc hf w hw => ?_, fun hc => ?_⟩
    · exact ⟨_, fetchPiece_hit hon hq super hc hf 2, rfl⟩
    · exact ⟨_, memoryLine m.ram pa, fetchPiece_fill hon hq super hi hc hf hw (lineOffset_word he), rfl,
        findLine_tabPut_free hf hw rfl, memoryLine_bytes m.ram pa, fun q hq hne => mem_tabPut_of_ne hne _ hq⟩
    · exact ⟨_, fetchPiece_uncached hon hq super hc he, rfl⟩

end Sys2Proof.Machine
end

section
/-! PROOFS. Parsing what the encoder writes: displacements, index extensions, immediates and effective addresses are read back
from their extension words, whatever words follow (30_encoding R452 to R465). -/

namespace Sys2Proof

/-! ### Parsers in sequence -/

@[simp] theorem Parse.bind_ok {α β : Type} (a : α) (ws : List Word) (k : α → List Word → Parse β) :
    (Parse.ok a ws).bind k = k a ws := rfl

@[simp] theorem Parse.map_ok {α β : Type} (a : α) (ws : List Word) (f : α → β) : (Parse.ok a ws).map f = .ok (f a) ws := rfl

@[simp] theorem takeWord_cons (w : Word) (ws : List Word) : takeWord (w :: ws) = .ok w ws := rfl

/-- A long word is read back from its two words. -/
@[simp] theorem takeLong_longWords (v : Long) (rest : List Word) : takeLong (longWords v ++ rest) = .ok v rest :=
  congrArg (Parse.ok · rest)
    ((BitVec.extractLsb'_append_extractLsb'_eq_extractLsb' (x := v) (start₁ := 0) (len₁ := 16) rfl).trans
      BitVec.extractLsb'_eq_self)

@[simp] theorem bit1_getLsbD (b : Bool) : (bit1 b).getLsbD 0 = b := by cases b <;> rfl

/-! ### Displacements and index extensions (R458 to R460) -/

theorem takeDisp_ext (d : Disp) (rest : List Word) : takeDisp d.code (d.ext ++ rest) = .ok d rest := by
  cases d with
  | null => rfl
  | word d => rfl
  | long d => exact congrArg (Parse.map · Disp.long) (takeLong_longWords d rest)

theorem Disp.code_ne_zero (d : Disp) : d.code ≠ 0#2 := by cases d <;> simp [Disp.code]

/-- The I/IS field of an indirect form: it is not the code of the direct forms and not the reserved one, and it tells
postindexed from preindexed forms and the size of the outer displacement. -/
theorem indirect_code (post : BitVec 1) {c : BitVec 2} (hc : c ≠ 0#2) :
    (post ++ c : BitVec 3) ≠ 0#3 ∧ (post ++ c : BitVec 3) ≠ 4#3 ∧ (post ++ c : BitVec 3).extractLsb' 0 2 = c ∧
      (post ++ c : BitVec 3).getLsbD 2 = post.getLsbD 0 := by
  revert post c
  decide

theorem takeInd_indirect (post : BitVec 1) (od : Disp) (rest : List Word) :
    takeInd (post ++ od.code) (od.ext ++ rest) = .ok (if post.getLsbD 0 then .post od else .pre od) rest := by
  obtain ⟨hdirect, -, hod, hpost⟩ := indirect_code post od.code_ne_zero
  rw [takeInd, if_neg hdirect, hod, hpost, takeDisp_ext, Parse.map_ok]
  cases post.getLsbD 0 <;> rfl

theorem takeInd_ext (i : Indirection) (rest : List Word) : takeInd i.code (i.ext ++ rest) = .ok i rest := by
  cases i with
  | none => rfl
  | pre od => exact takeInd_indirect 0#1 od rest
  | post od => exact takeInd_indirect 1#1 od rest

/-- I/IS never has the reserved code, and with the index suppressed no well-formed extension has a postindexed form. -/
theorem ind_code_allowed {x : IndexReg} {bs is : Bool} {bd : Disp} {i : Indirection}
    (h : (IndexExt.full x bs is bd i).wf = true) : i.code ≠ 4#3 ∧ (is && i.code.getLsbD 2) = false := by
  cases i with
  | none => simp [Indirection.code]
  | pre od =>
    obtain ⟨-, hreserved, -, hpost⟩ := indirect_code 0#1 od.code_ne_zero
    exact ⟨hreserved, by rw [Indirection.code, hpost]; exact Bool.and_false is⟩
  | post od =>
    obtain ⟨-, hreserved, -, -⟩ := indirect_code 1#1 od.code_ne_zero
    cases is with
    | false => exact ⟨hreserved, rfl⟩
    | true => cases h

/-- The index register that the first word of an index extension names (R458). -/
def indexRegOf (w : Word) : IndexReg := ⟨w.getLsbD 15, w.extractLsb' 12 3, w.getLsbD 11, w.extractLsb' 9 2⟩

/-- The reserved combinations of a full extension word (R459, R465). -/
def reservedIdx (w : Word) : Bool :=
  w.getLsbD 3 || w.extractLsb' 4 2 == 0#2 || w.extractLsb' 0 3 == 4#3 || (w.getLsbD 6 && (w.extractLsb' 0 3).getLsbD 2)

theorem takeIdx_brief {w : Word} (h : w.getLsbD 8 = false) (ws : List Word) :
    takeIdx (w :: ws) = .ok (.brief (indexRegOf w) (w.extractLsb' 0 8)) ws := by
  simp only [takeIdx, takeWord_cons, Parse.bind_ok, h]
  rfl

theorem takeIdx_reserved {w : Word} (h : w.getLsbD 8 = true) (hr : reservedIdx w = true) (ws : List Word) :
    takeIdx (w :: ws) = .stop .illegal := by
  rw [reservedIdx] at hr
  simp only [takeIdx, takeWord_cons, Parse.bind_ok, h, hr]
  rfl

theorem takeIdx_full {w : Word} (h : w.getLsbD 8 = true) (hr : reservedIdx w = false) (ws : List Word) :
    takeIdx (w :: ws) = (takeDisp (w.extractLsb' 4 2) ws).bind fun bd ws =>
      (takeInd (w.extractLsb' 0 3) ws).map fun ind => .full (indexRegOf w) (w.getLsbD 7) (w.getLsbD 6) bd ind := by
  rw [reservedIdx] at hr
  simp only [takeIdx, takeWord_cons, Parse.bind_ok, h, hr]
  rfl

theorem briefWord_fields (x : IndexReg) (d8 : BitVec 8) : ∃ w, (IndexExt.brief x d8).ext = [w] ∧
    indexRegOf w = x ∧ w.getLsbD 8 = false ∧ w.extractLsb' 0 8 = d8 := by
  obtain ⟨da, reg, long, scale⟩ := x
  refine ⟨_, rfl, ?_⟩
  simp (disch := decide) only [indexRegOf, IndexReg.field, BitVec.extractLsb'_append_eq_of_le,
    BitVec.extractLsb'_append_eq_of_add_le, BitVec.extractLsb'_eq_self, BitVec.getLsbD_append, bit1_getLsbD, Nat.reduceSub,
    Nat.reduceLT, if_true, if_false]
  exact ⟨trivial, rfl, trivial⟩

theorem fullWord_fields (x : IndexReg) (bs is : Bool) (bd : Disp) (ind : Indirection) :
    ∃ w, (IndexExt.full x bs is bd ind).ext = w :: (bd.ext ++ ind.ext) ∧ indexRegOf w = x ∧ w.getLsbD 8 = true ∧
      w.getLsbD 7 = bs ∧ w.getLsbD 6 = is ∧ w.extractLsb' 4 2 = bd.code ∧ w.getLsbD 3 = false ∧
      w.extractLsb' 0 3 = ind.code := by
  obtain ⟨da, reg, long, scale⟩ := x
  refine ⟨_, rfl, ?_⟩
  simp (disch := decide) only [indexRegOf, IndexReg.field, BitVec.extractLsb'_append_eq_of_le,
    BitVec.extractLsb'_append_eq_of_add_le, BitVec.extractLsb'_eq_self, BitVec.getLsbD_append, bit1_getLsbD, Nat.reduceSub,
    Nat.reduceLT, if_true, if_false]
  exact ⟨trivial, rfl, trivial, trivial, trivial, rfl, trivial⟩

theorem takeIdx_ext {x : IndexExt} (h : x.wf = true) (rest : List Word) : takeIdx (x.ext ++ rest) = .ok x rest := by
  cases x with
  | brief x d8 =>
    obtain ⟨w, hext, hreg, hbrief, hd8⟩ := briefWord_fields x d8
    rw [hext, List.singleton_append, takeIdx_brief hbrief, hreg, hd8]
  | full x bs is bd ind =>
    obtain ⟨w, hext, hreg, hfull, hbs, his, hbd, hzero, hind⟩ := fullWord_fields x bs is bd ind
    obtain ⟨hind4, hpost⟩ := ind_code_allowed h
    have hallowed : reservedIdx w = false := by
      rw [reservedIdx, hzero, hbd, hind, his, hpost, beq_eq_false_iff_ne.2 hind4, beq_eq_false_iff_ne.2 bd.code_ne_zero]
      rfl
    rw [hext, List.cons_append, List.append_assoc, takeIdx_full hfull hallowed, hbd, hind, takeDisp_ext, Parse.bind_ok,
      takeInd_ext, Parse.map_ok, hreg, hbs, his]

/-! ### Immediates and effective addresses (R452, R464) -/

/-- The low words of a value, below what was shifted in before them. -/
theorem shiftLeft_or_low (v acc : BitVec 96) (n : Nat) :
    (((acc <<< 16) ||| (v.extractLsb' (16 * n) 16).zeroExtend 96) <<< (16 * n)) ||| (v.setWidth (16 * n)).setWidth 96 =
      (acc <<< (16 * (n + 1))) ||| (v.setWidth (16 * (n + 1))).setWidth 96 := by
  apply BitVec.eq_of_getLsbD_eq
  intro k hk
  simp only [BitVec.getLsbD_or, BitVec.getLsbD_shiftLeft, BitVec.getLsbD_setWidth, BitVec.getLsbD_extractLsb']
  rcases Nat.lt_or_ge k (16 * n) with hlow | hlow
  · simp [hlow, show k < 16 * (n + 1) by omega]
  · rcases Nat.lt_or_ge k (16 * (n + 1)) with hmid | hhigh
    · simp [hk, hmid, show ¬ k < 16 * n by omega, show k - 16 * n < 16 by omega, show k - 16 * n < 96 by omega,
        show 16 * n + (k - 16 * n) = k by omega]
    · simp [hk, show ¬ k < 16 * n by omega, show ¬ k < 16 * (n + 1) by omega, show ¬ k - 16 * n < 16 by omega,
        show k - 16 * n < 96 by omega, show k - 16 * n - 16 = k - 16 * (n + 1) by omega]

/-- The words of an immediate are shifted in below what came before. -/
theorem takeImm_ext (v : BitVec 96) (rest : List Word) : ∀ (n : Nat) (acc : BitVec 96),
    takeImm acc n (immExt v n ++ rest) = .ok ((acc <<< (16 * n)) ||| (v.setWidth (16 * n)).setWidth 96) rest
  | 0, acc => by
    have hnone : (v.setWidth (16 * 0)).setWidth 96 = 0#96 := by
      rw [BitVec.eq_nil (v.setWidth (16 * 0))]
      rfl
    rw [hnone, BitVec.or_zero]
    exact congrArg (Parse.ok · rest) (BitVec.shiftLeft_zero acc).symm
  | n + 1, acc => by
    rw [immExt, List.cons_append, takeImm, takeWord_cons, Parse.bind_ok, takeImm_ext v rest n, shiftLeft_or_low]

theorem takeImm_of_lt {v : BitVec 96} {n : Nat} (h : v.toNat < 2 ^ (16 * n)) (rest : List Word) :
    takeImm 0#96 n (immExt v n ++ rest) = .ok v rest := by
  have hv : (v.setWidth (16 * n)).setWidth 96 = v := BitVec.eq_of_toNat_eq (by
    rw [BitVec.toNat_setWidth, BitVec.toNat_setWidth, Nat.mod_eq_of_lt h, Nat.mod_eq_of_lt v.isLt])
  rw [takeImm_ext, hv, BitVec.zero_shiftLeft, BitVec.zero_or]

/-- An effective address is read back from its fields and its extension words. -/
theorem takeEa_ext {s : EaSet} {n : Nat} {e : Ea} (h : e.wf s n = true) (rest : List Word) :
    takeEa n e.modeField e.regField (e.ext n ++ rest) = .ok e rest := by
  obtain ⟨-, hext⟩ := Bool.and_eq_true_iff.1 h
  cases e with
  | absL a => exact congrArg (Parse.map · Ea.absL) (takeLong_longWords a rest)
  | idx r x => exact congrArg (Parse.map · (Ea.idx r)) (takeIdx_ext hext rest)
  | pcIdx x => exact congrArg (Parse.map · Ea.pcIdx) (takeIdx_ext hext rest)
  | imm v => exact congrArg (Parse.map · Ea.imm) (takeImm_of_lt (of_decide_eq_true hext) rest)
  | _ => rfl

/-- The mode and register fields of a word that ends in an effective-address field. -/
theorem eaWord_fields (op : BitVec 10) (e : Ea) :
    (op ++ e.field : Word).extractLsb' 3 3 = e.modeField ∧ ry (op ++ e.field) = e.regField := by
  simp (disch := decide) only [ry, Ea.field, BitVec.extractLsb'_append_eq_of_le, BitVec.extractLsb'_append_eq_of_add_le,
    BitVec.extractLsb'_eq_self, Nat.reduceSub, and_self]

/-- An effective address is read back from a word that ends in its field. -/
theorem eaOf_ext {s : EaSet} {n : Nat} {e : Ea} (h : e.wf s n = true) (op : BitVec 10) (rest : List Word) :
    eaOf n (op ++ e.field) (e.ext n ++ rest) = .ok e rest := by
  obtain ⟨hmode, hreg⟩ := eaWord_fields op e
  rw [eaOf, hmode, hreg, takeEa_ext h]

end Sys2Proof
end

section
/-! PROOFS. The opcode table (30_encoding R472, R475): no word is selected by a row and by a more general one that stands after it,
so a word that a row selects is decoded by that row. -/

namespace Sys2Proof

/-! ### No word has two rows -/

/-- Whether a row can select a word with the effective-address field `f`, as far as that field tells. -/
def Row.admits (r : Row) (f : BitVec 6) : Bool :=
  f &&& r.mask.extractLsb' 0 6 == r.pattern.extractLsb' 0 6 &&
    match r.modes with
    | some s => s.has (f.extractLsb' 3 3) (f.extractLsb' 0 3)
    | none => true

/-- No word is selected by both rows: their patterns differ in a bit that both rows look at, or no effective-address field
suits both. -/
def Row.apart (a b : Row) : Bool :=
  a.mask &&& b.mask &&& (a.pattern ^^^ b.pattern) != 0 || decide (∀ f : BitVec 6, (a.admits f && b.admits f) = false)

/-- The row `b` may stand after the row `a`: no word has both, or `b` is one of the rows that take what is left of their line,
MOVE and Bcc, which look at bits 15:12 only. -/
def Row.mayFollow (a b : Row) : Bool := b.mask == 0xF000 || a.apart b

theorem selects_iff {r : Row} {w : Word} : r.selects w = true ↔
    w &&& r.mask = r.pattern ∧ ∀ s, r.modes = some s → s.has (w.extractLsb' 3 3) (ry w) = true := by
  rw [Row.selects, Bool.and_eq_true_iff, beq_iff_eq]
  cases r.modes <;> simp

theorem admits_of_selects {r : Row} {w : Word} (h : r.selects w = true) : r.admits (w.extractLsb' 0 6) = true := by
  obtain ⟨hmask, hmodes⟩ := selects_iff.1 h
  have hmode : (w.extractLsb' 0 6).extractLsb' 3 3 = w.extractLsb' 3 3 := BitVec.eq_of_getLsbD_eq fun k hk => by
    simp [hk]
  have hreg : (w.extractLsb' 0 6).extractLsb' 0 3 = ry w := BitVec.eq_of_getLsbD_eq fun k hk => by
    simp [ry, hk]
  rw [Row.admits, Bool.and_eq_true_iff, beq_iff_eq, ← BitVec.extractLsb'_and, hmask, hmode, hreg]
  refine ⟨rfl, ?_⟩
  cases hm : r.modes with
  | none => rfl
  | some s => exact hmodes s hm

theorem not_selects_of_apart {a b : Row} {w : Word} (h : a.apart b = true) (hb : b.selects w = true) : a.selects w = false := by
  by_contra ha
  rw [Bool.not_eq_false] at ha
  rcases Bool.or_eq_true_iff.1 h with hbits | hfield
  · obtain ⟨ha, -⟩ := selects_iff.1 ha
    obtain ⟨hb, -⟩ := selects_iff.1 hb
    refine bne_iff_ne.1 hbits (BitVec.eq_of_getLsbD_eq fun k _ => ?_)
    rw [← ha, ← hb]
    simp only [BitVec.getLsbD_and, BitVec.getLsbD_xor]
    cases a.mask.getLsbD k <;> cases b.mask.getLsbD k <;> simp
  · have := of_decide_eq_true hfield (w.extractLsb' 0 6)
    rw [admits_of_selects ha, admits_of_selects hb] at this
    cases this

/-- In every line a row comes before the more general ones. -/
theorem rowsOf_ordered (w : Word) : (rowsOf w).Pairwise (fun a b => a.mayFollow b = true) := by
  unfold rowsOf
  split <;> decide +kernel

/-! ### Decoding by a row -/

/-- The row of the opcode table with a mask and a pattern. -/
noncomputable def rowFor (mask pattern : Word) : Option Row :=
  (rowsOf pattern).find? fun r => r.mask == mask && r.pattern == pattern

/-- In a list whose rows are ordered, a word is decoded by the row that selects it, unless that row takes what is left. -/
theorem find?_of_ordered {w : Word} {r : Row} (hw : r.selects w = true) (hr : r.mask ≠ 0xF000) :
    ∀ {l : List Row}, l.Pairwise (fun a b => a.mayFollow b = true) → r ∈ l → l.find? (·.selects w) = some r
  | a :: l, hl, hmem => by
    obtain ⟨hfollow, hl⟩ := List.pairwise_cons.1 hl
    rcases List.mem_cons.1 hmem with rfl | hmem
    · exact List.find?_cons_of_pos hw
    · have hapart : a.apart r = true := by
        simpa only [Row.mayFollow, beq_eq_false_iff_ne.2 hr, Bool.false_or] using hfollow r hmem
      rw [List.find?_cons_of_neg (by rw [not_selects_of_apart hapart hw]; exact Bool.false_ne_true)]
      exact find?_of_ordered hw hr hl hmem

/-- A word lies in the line of every pattern that it matches under a mask that covers bits 15:12. -/
theorem rowsOf_of_masked {w m p : Word} (hw : w &&& m = p) (hm : m.extractLsb' 12 4 = 0xF) : rowsOf w = rowsOf p := by
  have hline : w.extractLsb' 12 4 = p.extractLsb' 12 4 := by
    rw [← hw, BitVec.extractLsb'_and, hm]
    exact BitVec.and_allOnes.symm
  rw [rowsOf, rowsOf, hline]

/-- A word that matches a row's pattern, and has an effective address of its modes, is parsed as the row says. -/
theorem decode_row {w m p : Word} {modes : Option EaSet} {parse : Word → List Word → Parse Instr}
    (hr : rowFor m p = some ⟨m, p, modes, parse⟩) (hw : w &&& m = p)
    (hs : ∀ s, modes = some s → s.has (w.extractLsb' 3 3) (ry w) = true) (hline : m.extractLsb' 12 4 = 0xF)
    (hm : m ≠ 0xF000) (ws : List Word) : decode (w :: ws) = parse w ws := by
  have hsel : (⟨m, p, modes, parse⟩ : Row).selects w = true := selects_iff.2 ⟨hw, hs⟩
  have hfind := find?_of_ordered hsel hm (rowsOf_ordered p) (List.mem_of_find?_eq_some hr)
  rw [decode, rowsOf_of_masked hw hline, hfind]

/-- A row without effective address. -/
theorem decode_bareRow {w m p : Word} {parse : Word → List Word → Parse Instr} (hr : rowFor m p = some ⟨m, p, none, parse⟩)
    (hw : w &&& m = p) (hline : m.extractLsb' 12 4 = 0xF := by decide) (hm : m ≠ 0xF000 := by decide) (ws : List Word) :
    decode (w :: ws) = parse w ws :=
  decode_row hr hw (fun _ h => by cases h) hline hm ws

/-! ### Words by their layout

For each layout of operation words: what the mask of its rows leaves of a word, the fields that the rows' parsers take, and
decoding by a row of that layout. -/

/-- A row that looks at every bit. -/
theorem decode_fixed {w : Word} {k : List Word → Parse Instr} (hr : rowFor 0xFFFF w = some ⟨0xFFFF, w, none, fun _ ws => k ws⟩)
    (ws : List Word) : decode (w :: ws) = k ws :=
  decode_bareRow hr BitVec.and_allOnes (ws := ws)

/-! #### Ten bits of operation code and an effective address -/

theorem opEaWord_masked (op : BitVec 10) (f : BitVec 6) : (op ++ f : BitVec 16) &&& 0xFFC0 = op ++ 0#6 := by
  rw [show (0xFFC0 : BitVec 16) = BitVec.allOnes 10 ++ 0#6 from rfl]
  simp only [BitVec.and_append, BitVec.and_allOnes, BitVec.and_zero]

theorem Ea.wf_has {s : EaSet} {n : Nat} {e : Ea} (h : e.wf s n = true) : s.has e.modeField e.regField = true :=
  (Bool.and_eq_true_iff.1 h).1

theorem decode_opEa {s : EaSet} {n : Nat} {e : Ea} (h : e.wf s n = true) {op : BitVec 10} {k : Word → List Word → Parse Instr}
    (hr : rowFor 0xFFC0 (op ++ 0#6) = some ⟨0xFFC0, op ++ 0#6, some s, k⟩) (ws : List Word) :
    decode ((op ++ e.field : Word) :: ws) = k (op ++ e.field) ws := by
  obtain ⟨hmode, hreg⟩ := eaWord_fields op e
  refine decode_row hr (opEaWord_masked op e.field) (fun t ht => ?_) (by decide) (by decide) ws
  cases ht
  rw [hmode, hreg]
  exact Ea.wf_has h

/-! #### A register, three bits of operation code and an effective address -/

theorem regOpEaWord_fields (l : BitVec 4) (x o : BitVec 3) (f : BitVec 6) :
    (l ++ x ++ o ++ f : BitVec 16) &&& 0xF1C0 = l ++ 0#3 ++ o ++ 0#6 ∧ rx (l ++ x ++ o ++ f) = x := by
  constructor
  · rw [show (0xF1C0 : BitVec 16) = BitVec.allOnes 4 ++ 0#3 ++ BitVec.allOnes 3 ++ 0#6 from rfl]
    simp only [BitVec.and_append, BitVec.and_allOnes, BitVec.and_zero]
  · simp (disch := decide) only [rx, BitVec.extractLsb'_append_eq_of_le, BitVec.extractLsb'_append_eq_of_add_le,
      BitVec.extractLsb'_eq_self, Nat.reduceSub]

theorem decode_regOpEa {s : EaSet} {n : Nat} {e : Ea} (h : e.wf s n = true) {l : BitVec 4} {x o : BitVec 3}
    {k : BitVec 3 → Word → List Word → Parse Instr}
    (hr : rowFor 0xF1C0 (l ++ 0#3 ++ o ++ 0#6) = some ⟨0xF1C0, l ++ 0#3 ++ o ++ 0#6, some s, fun w ws => k (rx w) w ws⟩)
    (ws : List Word) : decode ((l ++ x ++ o ++ e.field : Word) :: ws) = k x (l ++ x ++ o ++ e.field) ws := by
  obtain ⟨hmode, hreg⟩ := eaWord_fields (l ++ x ++ o) e
  obtain ⟨hmask, hx⟩ := regOpEaWord_fields l x o e.field
  refine (decode_row hr hmask (fun t ht => ?_) (by decide) (by decide) ws).trans (congrArg (k · _ ws) hx)
  cases ht
  rw [hmode, hreg]
  exact Ea.wf_has h

/-! #### Two registers, with or without a bit between them -/

theorem regOpRegWord_fields (l : BitVec 4) (x : BitVec 3) (o : BitVec 6) (y : BitVec 3) :
    (l ++ x ++ o ++ y : BitVec 16) &&& 0xF1F8 = l ++ 0#3 ++ o ++ 0#3 ∧ rx (l ++ x ++ o ++ y) = x ∧ ry (l ++ x ++ o ++ y) = y := by
  constructor
  · rw [show (0xF1F8 : BitVec 16) = BitVec.allOnes 4 ++ 0#3 ++ BitVec.allOnes 6 ++ 0#3 from rfl]
    simp only [BitVec.and_append, BitVec.and_allOnes, BitVec.and_zero]
  · simp (disch := decide) only [rx, ry, BitVec.extractLsb'_append_eq_of_le, BitVec.extractLsb'_append_eq_of_add_le,
      BitVec.extractLsb'_eq_self, Nat.reduceSub, and_self]

theorem decode_regOpReg {l : BitVec 4} {x : BitVec 3} {o : BitVec 6} {y : BitVec 3}
    {k : BitVec 3 → BitVec 3 → List Word → Parse Instr}
    (hr : rowFor 0xF1F8 (l ++ 0#3 ++ o ++ 0#3) = some ⟨0xF1F8, l ++ 0#3 ++ o ++ 0#3, none, fun w ws => k (rx w) (ry w) ws⟩)
    (ws : List Word) : decode ((l ++ x ++ o ++ y : Word) :: ws) = k x y ws := by
  obtain ⟨hmask, hx, hy⟩ := regOpRegWord_fields l x o y
  rw [decode_bareRow hr hmask, hx, hy]

theorem regOpBitRegWord_fields (l : BitVec 4) (x : BitVec 3) (o : BitVec 5) (b : Bool) (y : BitVec 3) :
    (l ++ x ++ o ++ bit1 b ++ y : BitVec 16) &&& 0xF1F0 = l ++ 0#3 ++ o ++ 0#1 ++ 0#3 ∧
      rx (l ++ x ++ o ++ bit1 b ++ y) = x ∧ (l ++ x ++ o ++ bit1 b ++ y : BitVec 16).getLsbD 3 = b ∧
      ry (l ++ x ++ o ++ bit1 b ++ y) = y := by
  constructor
  · rw [show (0xF1F0 : BitVec 16) = BitVec.allOnes 4 ++ 0#3 ++ BitVec.allOnes 5 ++ 0#1 ++ 0#3 from rfl]
    simp only [BitVec.and_append, BitVec.and_allOnes, BitVec.and_zero]
  · simp (disch := decide) only [rx, ry, BitVec.extractLsb'_append_eq_of_le, BitVec.extractLsb'_append_eq_of_add_le,
      BitVec.extractLsb'_eq_self, BitVec.getLsbD_append, bit1_getLsbD, Nat.reduceSub, Nat.reduceLT, if_true, if_false, and_self]

theorem decode_regOpBitReg {l : BitVec 4} {x : BitVec 3} {o : BitVec 5} {b : Bool} {y : BitVec 3}
    {k : BitVec 3 → Bool → BitVec 3 → List Word → Parse Instr}
    (hr : rowFor 0xF1F0 (l ++ 0#3 ++ o ++ 0#1 ++ 0#3) =
      some ⟨0xF1F0, l ++ 0#3 ++ o ++ 0#1 ++ 0#3, none, fun w ws => k (rx w) (w.getLsbD 3) (ry w) ws⟩)
    (ws : List Word) : decode ((l ++ x ++ o ++ bit1 b ++ y : Word) :: ws) = k x b y ws := by
  obtain ⟨hmask, hx, hb, hy⟩ := regOpBitRegWord_fields l x o b y
  rw [decode_bareRow hr hmask, hx, hb, hy]

/-! #### The shifts and rotates of a register -/

theorem shiftWord_fields (l : BitVec 4) (x o : BitVec 3) (b : Bool) (o' : BitVec 2) (y : BitVec 3) :
    (l ++ x ++ o ++ bit1 b ++ o' ++ y : BitVec 16) &&& 0xF1D8 = l ++ 0#3 ++ o ++ 0#1 ++ o' ++ 0#3 ∧
      rx (l ++ x ++ o ++ bit1 b ++ o' ++ y) = x ∧ (l ++ x ++ o ++ bit1 b ++ o' ++ y : BitVec 16).getLsbD 5 = b ∧
      ry (l ++ x ++ o ++ bit1 b ++ o' ++ y) = y := by
  constructor
  · rw [show (0xF1D8 : BitVec 16) = BitVec.allOnes 4 ++ 0#3 ++ BitVec.allOnes 3 ++ 0#1 ++ BitVec.allOnes 2 ++ 0#3 from rfl]
    simp only [BitVec.and_append, BitVec.and_allOnes, BitVec.and_zero]
  · simp (disch := decide) only [rx, ry, BitVec.extractLsb'_append_eq_of_le, BitVec.extractLsb'_append_eq_of_add_le,
      BitVec.extractLsb'_eq_self, BitVec.getLsbD_append, bit1_getLsbD, Nat.reduceSub, Nat.reduceLT, if_true, if_false, and_self]

theorem decode_shift {K : BitVec 3 → Bool → BitVec 3 → Instr} {l : BitVec 4} {x o : BitVec 3} {b : Bool} {o' : BitVec 2}
    {y : BitVec 3} (rest : List Word)
    (hr : rowFor 0xF1D8 (l ++ 0#3 ++ o ++ 0#1 ++ o' ++ 0#3) = some ⟨0xF1D8, l ++ 0#3 ++ o ++ 0#1 ++ o' ++ 0#3, none,
      fun w ws => .ok (K (rx w) (w.getLsbD 5) (ry w)) ws⟩ := by rfl) :
    decode ([(l ++ x ++ o ++ bit1 b ++ o' ++ y : Word)] ++ rest) = .ok (K x b y) rest := by
  obtain ⟨hmask, hx, hb, hy⟩ := shiftWord_fields l x o b o' y
  rw [List.singleton_append, decode_bareRow hr hmask, hx, hb, hy]

/-! #### One register or one small number -/

theorem opRegWord_fields (op : BitVec 13) (y : BitVec 3) :
    (op ++ y : BitVec 16) &&& 0xFFF8 = op ++ 0#3 ∧ ry (op ++ y) = y := by
  constructor
  · rw [show (0xFFF8 : BitVec 16) = BitVec.allOnes 13 ++ 0#3 from rfl]
    simp only [BitVec.and_append, BitVec.and_allOnes, BitVec.and_zero]
  · exact BitVec.extractLsb'_append_eq_right

theorem decode_opReg {op : BitVec 13} {y : BitVec 3} {k : BitVec 3 → List Word → Parse Instr}
    (hr : rowFor 0xFFF8 (op ++ 0#3) = some ⟨0xFFF8, op ++ 0#3, none, fun w ws => k (ry w) ws⟩) (ws : List Word) :
    decode ((op ++ y : Word) :: ws) = k y ws := by
  obtain ⟨hmask, hy⟩ := opRegWord_fields op y
  rw [decode_bareRow hr hmask, hy]

/-! #### Conditions -/

theorem ccWord_fields (l cc : BitVec 4) (o : BitVec 8) :
    (l ++ cc ++ o : BitVec 16) &&& 0xF0FF = l ++ 0#4 ++ o ∧ ccOf (l ++ cc ++ o) = cc := by
  constructor
  · rw [show (0xF0FF : BitVec 16) = BitVec.allOnes 4 ++ 0#4 ++ BitVec.allOnes 8 from rfl]
    simp only [BitVec.and_append, BitVec.and_allOnes, BitVec.and_zero]
  · simp (disch := decide) only [ccOf, BitVec.extractLsb'_append_eq_of_le, BitVec.extractLsb'_append_eq_of_add_le,
      BitVec.extractLsb'_eq_self, Nat.reduceSub]

theorem decode_cc {l cc : BitVec 4} {o : BitVec 8} {k : BitVec 4 → List Word → Parse Instr}
    (hr : rowFor 0xF0FF (l ++ 0#4 ++ o) = some ⟨0xF0FF, l ++ 0#4 ++ o, none, fun w ws => k (ccOf w) ws⟩) (ws : List Word) :
    decode ((l ++ cc ++ o : Word) :: ws) = k cc ws := by
  obtain ⟨hmask, hcc⟩ := ccWord_fields l cc o
  rw [decode_bareRow hr hmask, hcc]

theorem ccRegWord_fields (l cc : BitVec 4) (o : BitVec 5) (y : BitVec 3) :
    (l ++ cc ++ o ++ y : BitVec 16) &&& 0xF0F8 = l ++ 0#4 ++ o ++ 0#3 ∧ ccOf (l ++ cc ++ o ++ y) = cc ∧
      ry (l ++ cc ++ o ++ y) = y := by
  constructor
  · rw [show (0xF0F8 : BitVec 16) = BitVec.allOnes 4 ++ 0#4 ++ BitVec.allOnes 5 ++ 0#3 from rfl]
    simp only [BitVec.and_append, BitVec.and_allOnes, BitVec.and_zero]
  · simp (disch := decide) only [ccOf, ry, BitVec.extractLsb'_append_eq_of_le, BitVec.extractLsb'_append_eq_of_add_le,
      BitVec.extractLsb'_eq_self, Nat.reduceSub, and_self]

theorem ccEaWord_fields (l cc : BitVec 4) (o : BitVec 2) (f : BitVec 6) :
    (l ++ cc ++ o ++ f : BitVec 16) &&& 0xF0C0 = l ++ 0#4 ++ o ++ 0#6 ∧ ccOf (l ++ cc ++ o ++ f) = cc := by
  constructor
  · rw [show (0xF0C0 : BitVec 16) = BitVec.allOnes 4 ++ 0#4 ++ BitVec.allOnes 2 ++ 0#6 from rfl]
    simp only [BitVec.and_append, BitVec.and_allOnes, BitVec.and_zero]
  · simp (disch := decide) only [ccOf, BitVec.extractLsb'_append_eq_of_le, BitVec.extractLsb'_append_eq_of_add_le,
      BitVec.extractLsb'_eq_self, Nat.reduceSub]

/-! #### Cache operations -/

theorem cacheWord_fields (op : BitVec 8) (c : BitVec 2) (o y : BitVec 3) :
    (op ++ c ++ o ++ y : BitVec 16) &&& 0xFF38 = op ++ 0#2 ++ o ++ 0#3 ∧
      (op ++ c ++ o ++ y : BitVec 16).extractLsb' 6 2 = c ∧ ry (op ++ c ++ o ++ y) = y := by
  constructor
  · rw [show (0xFF38 : BitVec 16) = BitVec.allOnes 8 ++ 0#2 ++ BitVec.allOnes 3 ++ 0#3 from rfl]
    simp only [BitVec.and_append, BitVec.and_allOnes, BitVec.and_zero]
  · simp (disch := decide) only [ry, BitVec.extractLsb'_append_eq_of_le, BitVec.extractLsb'_append_eq_of_add_le,
      BitVec.extractLsb'_eq_self, Nat.reduceSub, and_self]

theorem decode_cacheOp {op : BitVec 8} {c : BitVec 2} {o y : BitVec 3} {k : BitVec 2 → BitVec 3 → List Word → Parse Instr}
    (hr : rowFor 0xFF38 (op ++ 0#2 ++ o ++ 0#3) =
      some ⟨0xFF38, op ++ 0#2 ++ o ++ 0#3, none, fun w ws => k (w.extractLsb' 6 2) (ry w) ws⟩) (ws : List Word) :
    decode ((op ++ c ++ o ++ y : Word) :: ws) = k c y ws := by
  obtain ⟨hmask, hc, hy⟩ := cacheWord_fields op c o y
  rw [decode_bareRow hr hmask, hc, hy]

end Sys2Proof
end

section
/-! PROOFS. Every shape of integer instruction is decoded from the words that the encoder writes (30_encoding R451 to R480). -/

namespace Sys2Proof

/-! ### Operation words that are an instruction by themselves, or with an immediate -/

theorem decode_fixed_ok {w : Word} {i : Instr} (rest : List Word)
    (hr : rowFor 0xFFFF w = some ⟨0xFFFF, w, none, fun _ ws => .ok i ws⟩ := by rfl) : decode ([w] ++ rest) = .ok i rest :=
  decode_fixed hr rest

theorem decode_fixed_imm16 {w imm : Word} {K : Word → Instr} (rest : List Word)
    (hr : rowFor 0xFFFF w = some ⟨0xFFFF, w, none, fun _ ws => imm16 K ws⟩ := by rfl) :
    decode ([w] ++ [imm] ++ rest) = .ok (K imm) rest :=
  decode_fixed hr (imm :: rest)

theorem decode_opReg_ok {op : BitVec 13} {y : BitVec 3} {K : BitVec 3 → Instr} (rest : List Word)
    (hr : rowFor 0xFFF8 (op ++ 0#3) = some ⟨0xFFF8, op ++ 0#3, none, fun w ws => .ok (K (ry w)) ws⟩ := by rfl) :
    decode ([(op ++ y : Word)] ++ rest) = .ok (K y) rest :=
  decode_opReg (k := fun y ws => .ok (K y) ws) hr rest

/-- The register field of PFLUSHA and PFLUSHAN is not looked at. -/
theorem decode_op13_ok {op : BitVec 13} {i : Instr} (rest : List Word)
    (hr : rowFor 0xFFF8 (op ++ 0#3) = some ⟨0xFFF8, op ++ 0#3, none, fun _ ws => .ok i ws⟩ := by rfl) :
    decode ([(op ++ 0#3 : Word)] ++ rest) = .ok i rest :=
  decode_opReg (k := fun _ ws => .ok i ws) hr rest

theorem decode_opReg_imm16 {op : BitVec 13} {y : BitVec 3} {imm : Word} {K : BitVec 3 → Word → Instr} (rest : List Word)
    (hr : rowFor 0xFFF8 (op ++ 0#3) = some ⟨0xFFF8, op ++ 0#3, none, fun w ws => imm16 (K (ry w)) ws⟩ := by rfl) :
    decode ([(op ++ y : Word)] ++ [imm] ++ rest) = .ok (K y imm) rest :=
  decode_opReg (k := fun y ws => imm16 (K y) ws) hr (imm :: rest)

theorem imm32_longWords (K : Long → Instr) (v : Long) (rest : List Word) : imm32 K (longWords v ++ rest) = .ok (K v) rest := by
  rw [imm32, takeLong_longWords, Parse.map_ok]

theorem decode_opReg_imm32 {op : BitVec 13} {y : BitVec 3} {imm : Long} {K : BitVec 3 → Long → Instr} (rest : List Word)
    (hr : rowFor 0xFFF8 (op ++ 0#3) = some ⟨0xFFF8, op ++ 0#3, none, fun w ws => imm32 (K (ry w)) ws⟩ := by rfl) :
    decode ([(op ++ y : Word)] ++ longWords imm ++ rest) = .ok (K y imm) rest :=
  (decode_opReg (k := fun y ws => imm32 (K y) ws) hr _).trans (imm32_longWords (K y) imm rest)

theorem decode_trap (n : BitVec 4) (rest : List Word) :
    decode ([(0b010011100100#12 ++ n : Word)] ++ rest) = .ok (.trap n) rest := by
  have hmask : (0b010011100100#12 ++ n : BitVec 16) &&& 0xFFF0 = 0x4E40 := by revert n; decide
  have hn : (0b010011100100#12 ++ n : BitVec 16).extractLsb' 0 4 = n := BitVec.extractLsb'_append_eq_right
  rw [List.singleton_append, decode_bareRow (parse := fun w ws => .ok (.trap (w.extractLsb' 0 4)) ws) rfl hmask, hn]

/-! ### Registers -/

theorem decode_regOpReg_ok {l : BitVec 4} {x : BitVec 3} {o : BitVec 6} {y : BitVec 3} {K : BitVec 3 → BitVec 3 → Instr}
    (rest : List Word) (hr : rowFor 0xF1F8 (l ++ 0#3 ++ o ++ 0#3) =
      some ⟨0xF1F8, l ++ 0#3 ++ o ++ 0#3, none, fun w ws => .ok (K (rx w) (ry w)) ws⟩ := by rfl) :
    decode ([(l ++ x ++ o ++ y : Word)] ++ rest) = .ok (K x y) rest :=
  decode_regOpReg (k := fun x y ws => .ok (K x y) ws) hr rest

theorem decode_regOpReg_imm16 {l : BitVec 4} {x : BitVec 3} {o : BitVec 6} {y : BitVec 3} {imm : Word}
    {K : BitVec 3 → BitVec 3 → Word → Instr} (rest : List Word) (hr : rowFor 0xF1F8 (l ++ 0#3 ++ o ++ 0#3) =
      some ⟨0xF1F8, l ++ 0#3 ++ o ++ 0#3, none, fun w ws => imm16 (K (rx w) (ry w)) ws⟩ := by rfl) :
    decode ([(l ++ x ++ o ++ y : Word)] ++ [imm] ++ rest) = .ok (K x y imm) rest :=
  decode_regOpReg (k := fun x y ws => imm16 (K x y) ws) hr (imm :: rest)

theorem decode_regOpBitReg_ok {l : BitVec 4} {x : BitVec 3} {o : BitVec 5} {b : Bool} {y : BitVec 3}
    {K : BitVec 3 → Bool → BitVec 3 → Instr} (rest : List Word) (hr : rowFor 0xF1F0 (l ++ 0#3 ++ o ++ 0#1 ++ 0#3) =
      some ⟨0xF1F0, l ++ 0#3 ++ o ++ 0#1 ++ 0#3, none, fun w ws => .ok (K (rx w) (w.getLsbD 3) (ry w)) ws⟩ := by rfl) :
    decode ([(l ++ x ++ o ++ bit1 b ++ y : Word)] ++ rest) = .ok (K x b y) rest :=
  decode_regOpBitReg (k := fun x b y ws => .ok (K x b y) ws) hr rest

theorem decode_regOpBitReg_imm16 {l : BitVec 4} {x : BitVec 3} {o : BitVec 5} {b : Bool} {y : BitVec 3} {imm : Word}
    {K : BitVec 3 → Bool → BitVec 3 → Word → Instr} (rest : List Word) (hr : rowFor 0xF1F0 (l ++ 0#3 ++ o ++ 0#1 ++ 0#3) =
      some ⟨0xF1F0, l ++ 0#3 ++ o ++ 0#1 ++ 0#3, none, fun w ws => imm16 (K (rx w) (w.getLsbD 3) (ry w)) ws⟩ := by rfl) :
    decode ([(l ++ x ++ o ++ bit1 b ++ y : Word)] ++ [imm] ++ rest) = .ok (K x b y imm) rest :=
  decode_regOpBitReg (k := fun x b y ws => imm16 (K x b y) ws) hr (imm :: rest)

theorem decode_moveq (dn : BitVec 3) (d : BitVec 8) (rest : List Word) :
    decode ([(0b0111#4 ++ dn ++ 0b0#1 ++ d : Word)] ++ rest) = .ok (.moveq dn d) rest := by
  have hmask : (0b0111#4 ++ dn ++ 0b0#1 ++ d : BitVec 16) &&& 0xF100 = 0x7000 := by
    rw [show (0xF100 : BitVec 16) = BitVec.allOnes 4 ++ 0#3 ++ BitVec.allOnes 1 ++ 0#8 from rfl]
    simp only [BitVec.and_append, BitVec.and_allOnes, BitVec.and_zero]
    rfl
  have hdn : rx (0b0111#4 ++ dn ++ 0b0#1 ++ d) = dn := by
    simp (disch := decide) only [rx, BitVec.extractLsb'_append_eq_of_le, BitVec.extractLsb'_append_eq_of_add_le,
      BitVec.extractLsb'_eq_self, Nat.reduceSub]
  have hd : (0b0111#4 ++ dn ++ 0b0#1 ++ d : BitVec 16).extractLsb' 0 8 = d := BitVec.extractLsb'_append_eq_right
  rw [List.singleton_append, decode_bareRow (parse := fun w ws => .ok (.moveq (rx w) (w.extractLsb' 0 8)) ws) rfl hmask, hdn, hd]

/-! ### Conditions and branches (47_program_control R922) -/

theorem decode_cc_ok {l cc : BitVec 4} {o : BitVec 8} {K : BitVec 4 → Instr} (rest : List Word)
    (hr : rowFor 0xF0FF (l ++ 0#4 ++ o) = some ⟨0xF0FF, l ++ 0#4 ++ o, none, fun w ws => .ok (K (ccOf w)) ws⟩ := by rfl) :
    decode ([(l ++ cc ++ o : Word)] ++ rest) = .ok (K cc) rest :=
  decode_cc (k := fun cc ws => .ok (K cc) ws) hr rest

theorem decode_cc_imm16 {l cc : BitVec 4} {o : BitVec 8} {imm : Word} {K : BitVec 4 → Word → Instr} (rest : List Word)
    (hr : rowFor 0xF0FF (l ++ 0#4 ++ o) = some ⟨0xF0FF, l ++ 0#4 ++ o, none, fun w ws => imm16 (K (ccOf w)) ws⟩ := by rfl) :
    decode ([(l ++ cc ++ o : Word)] ++ [imm] ++ rest) = .ok (K cc imm) rest :=
  decode_cc (k := fun cc ws => imm16 (K cc) ws) hr (imm :: rest)

theorem decode_cc_imm32 {l cc : BitVec 4} {o : BitVec 8} {imm : Long} {K : BitVec 4 → Long → Instr} (rest : List Word)
    (hr : rowFor 0xF0FF (l ++ 0#4 ++ o) = some ⟨0xF0FF, l ++ 0#4 ++ o, none, fun w ws => imm32 (K (ccOf w)) ws⟩ := by rfl) :
    decode ([(l ++ cc ++ o : Word)] ++ longWords imm ++ rest) = .ok (K cc imm) rest :=
  (decode_cc (k := fun cc ws => imm32 (K cc) ws) hr _).trans (imm32_longWords (K cc) imm rest)

theorem decode_dbcc (cc : BitVec 4) (dn : BitVec 3) (d : Word) (rest : List Word) :
    decode ([(0b0101#4 ++ cc ++ 0b11001#5 ++ dn : Word)] ++ [d] ++ rest) = .ok (.dbcc cc dn d) rest := by
  obtain ⟨hmask, hcc, hdn⟩ := ccRegWord_fields 0b0101#4 cc 0b11001#5 dn
  rw [List.append_assoc, List.singleton_append,
    decode_bareRow (parse := fun w ws => imm16 (.dbcc (ccOf w) (ry w)) ws) rfl hmask, hcc, hdn]
  rfl

theorem decode_scc {e : Ea} (h : e.wf .dataAlt 1 = true) (cc : BitVec 4) (rest : List Word) :
    decode ([(0b0101#4 ++ cc ++ 0b11#2 ++ e.field : Word)] ++ e.ext 1 ++ rest) = .ok (.scc cc e) rest := by
  obtain ⟨hmask, hcc⟩ := ccEaWord_fields 0b0101#4 cc 0b11#2 e.field
  obtain ⟨hmode, hreg⟩ := eaWord_fields (0b0101#4 ++ cc ++ 0b11#2) e
  have hrow := decode_row (modes := some .dataAlt) (parse := fun w ws => (eaOf 1 w ws).map (.scc (ccOf w))) rfl hmask
    (fun t ht => by cases ht; rw [hmode, hreg]; exact Ea.wf_has h) (by decide) (by decide) (e.ext 1 ++ rest)
  rw [List.append_assoc, List.singleton_append, hrow, hcc, eaOf_ext h, Parse.map_ok]

/-- The displacement of a branch is read back: an 8-bit one is none of the two that announce a longer one. -/
theorem brDisp_ext {disp : BrDisp} (h : disp.wf = true) (K : BrDisp → Instr) {w : Word} (hw : w.extractLsb' 0 8 = disp.field)
    (rest : List Word) : brDisp K w (disp.ext ++ rest) = .ok (K disp) rest := by
  rw [brDisp, hw]
  cases disp with
  | byte d =>
    obtain ⟨h0, hff⟩ := Bool.and_eq_true_iff.1 h
    exact (if_neg (bne_iff_ne.1 h0)).trans (if_neg (bne_iff_ne.1 hff))
  | word d => rfl
  | long d => exact congrArg (Parse.map · fun x => K (.long x)) (takeLong_longWords d rest)

theorem opDispWord_fields (op d : BitVec 8) :
    (op ++ d : BitVec 16) &&& 0xFF00 = op ++ 0#8 ∧ (op ++ d : BitVec 16).extractLsb' 0 8 = d := by
  constructor
  · rw [show (0xFF00 : BitVec 16) = BitVec.allOnes 8 ++ 0#8 from rfl]
    simp only [BitVec.and_append, BitVec.and_allOnes, BitVec.and_zero]
  · exact BitVec.extractLsb'_append_eq_right

/-- BRA and BSR. -/
theorem decode_branch {op : BitVec 8} {disp : BrDisp} {K : BrDisp → Instr} (h : disp.wf = true) (rest : List Word)
    (hr : rowFor 0xFF00 (op ++ 0#8) = some ⟨0xFF00, op ++ 0#8, none, fun w ws => brDisp K w ws⟩ := by rfl) :
    decode ([(op ++ disp.field : Word)] ++ disp.ext ++ rest) = .ok (K disp) rest := by
  obtain ⟨hmask, hd⟩ := opDispWord_fields op disp.field
  rw [List.append_assoc, List.singleton_append, decode_bareRow hr hmask]
  exact brDisp_ext h K hd rest

end Sys2Proof
end

section
/-! PROOFS. The rows that take what is left of their line, MOVE and Bcc, and the instructions with an effective address
(30_encoding R451 to R480). -/

namespace Sys2Proof

/-! ### What is left of a line -/

/-- A word of a line is parsed by the line's last row if no row before it selects the word. -/
theorem decode_lastRow {w p : Word} {rows : List Row} {modes : Option EaSet} {parse : Word → List Word → Parse Instr}
    (hr : rowsOf p = rows ++ [⟨0xF000, p, modes, parse⟩]) (hw : w &&& 0xF000 = p) (hrows : ∀ r ∈ rows, r.selects w = false)
    (hs : ∀ s, modes = some s → s.has (w.extractLsb' 3 3) (ry w) = true) (ws : List Word) :
    decode (w :: ws) = parse w ws := by
  have hsel : (⟨0xF000, p, modes, parse⟩ : Row).selects w = true := selects_iff.2 ⟨hw, hs⟩
  have hbefore : rows.find? (·.selects w) = none :=
    List.find?_eq_none.2 fun r hmem => by rw [hrows r hmem]; exact Bool.false_ne_true
  have hlast := List.find?_cons_of_pos (p := fun r : Row => r.selects w) (l := []) hsel
  rw [decode, rowsOf_of_masked hw rfl, hr, List.find?_append, hbefore, hlast]
  rfl

/-- A row with another pattern does not select a word. -/
theorem not_selects_of_masked {r : Row} {w : Word} (h : w &&& r.mask ≠ r.pattern) : r.selects w = false := by
  rw [Row.selects, beq_eq_false_iff_ne.2 h, Bool.false_and]

/-- The conditions of BRA and BSR are the only ones that the rows before Bcc look for. -/
theorem bccWord_ne {cc : BitVec 4} (h0 : cc ≠ 0) (h1 : cc ≠ 1) :
    (0b0110#4 ++ cc ++ 0#8 : Word) ≠ 0x6000 ∧ (0b0110#4 ++ cc ++ 0#8 : Word) ≠ 0x6100 := by
  revert cc
  decide

theorem decode_bcc {cc : BitVec 4} {disp : BrDisp} (h : (Instr.bcc cc disp).wf = true) (rest : List Word) :
    decode ([(0b0110#4 ++ cc ++ disp.field : Word)] ++ disp.ext ++ rest) = .ok (.bcc cc disp) rest := by
  obtain ⟨h, hbsr⟩ := Bool.and_eq_true_iff.1 h
  obtain ⟨hdisp, hbra⟩ := Bool.and_eq_true_iff.1 h
  obtain ⟨hmask, hd⟩ := opDispWord_fields (0b0110#4 ++ cc) disp.field
  have hcc : ccOf (0b0110#4 ++ cc ++ disp.field) = cc := by
    simp (disch := decide) only [ccOf, BitVec.extractLsb'_append_eq_of_le, BitVec.extractLsb'_append_eq_of_add_le,
      BitVec.extractLsb'_eq_self, Nat.reduceSub]
  obtain ⟨hnbra, hnbsr⟩ := bccWord_ne (bne_iff_ne.1 hbra) (bne_iff_ne.1 hbsr)
  have hline : (0b0110#4 ++ cc ++ disp.field : BitVec 16) &&& 0xF000 = 0x6000 := by
    rw [show (0xF000 : BitVec 16) = BitVec.allOnes 4 ++ 0#4 ++ 0#8 from rfl]
    simp only [BitVec.and_append, BitVec.and_allOnes, BitVec.and_zero]
    rfl
  rw [List.append_assoc, List.singleton_append,
    decode_lastRow (rows := rows6.take 2) (modes := none) (parse := fun w ws => brDisp (.bcc (ccOf w)) w ws) rfl hline
      (List.forall_mem_cons.2 ⟨not_selects_of_masked (hmask ▸ hnbra), List.forall_mem_singleton.2
        (not_selects_of_masked (hmask ▸ hnbsr))⟩) (fun _ h => by cases h), hcc]
  exact brDisp_ext hdisp _ hd rest

/-! ### MOVE (R452) -/

theorem moveWord_fields (l : BitVec 4) (r m : BitVec 3) (f : BitVec 6) :
    (l ++ r ++ m ++ f : BitVec 16) &&& 0xF000 = l ++ 0#12 ∧ (l ++ r ++ m ++ f : BitVec 16).extractLsb' 6 3 = m := by
  constructor
  · rw [show (0xF000 : BitVec 16) = BitVec.allOnes 4 ++ 0#3 ++ 0#3 ++ 0#6 from rfl]
    simp only [BitVec.and_append, BitVec.and_allOnes, BitVec.and_zero]
    revert l
    decide
  · simp (disch := decide) only [BitVec.extractLsb'_append_eq_of_le, BitVec.extractLsb'_append_eq_of_add_le,
      BitVec.extractLsb'_eq_self, Nat.reduceSub]

/-- The MOVEA row of a line, which stands before the MOVE row, does not select a word with another destination mode. -/
theorem not_selects_movea {l : BitVec 4} {r m : BitVec 3} {f : BitVec 6} (hm : m ≠ 1#3) {row : Row}
    (hrow : row.mask = 0xF1C0 ∧ row.pattern = l ++ 0#3 ++ 1#3 ++ 0#6) : row.selects (l ++ r ++ m ++ f) = false := by
  obtain ⟨hmask, -⟩ := regOpEaWord_fields l r m f
  refine not_selects_of_masked ?_
  rw [hrow.1, hrow.2, hmask]
  intro hc
  have hop := congrArg (BitVec.extractLsb' 6 3) hc
  simp (disch := decide) only [BitVec.extractLsb'_append_eq_of_le, BitVec.extractLsb'_append_eq_of_add_le,
    BitVec.extractLsb'_eq_self, Nat.reduceSub] at hop
  exact hm hop

theorem mode_ne_one_of_dataAlt {n : Nat} {e : Ea} (h : e.wf .dataAlt n = true) : e.modeField ≠ 1#3 := by
  have hhas := Ea.wf_has h
  intro hm
  rw [hm] at hhas
  cases hhas

theorem decode_move {l : BitVec 4} {src dst : Ea} {s : EaSet} {n : Nat} {K : Ea → Ea → Instr} 
    (h : (src.wf s n && dst.wf .dataAlt n) = true) (rest : List Word) {rows : List Row}
    (hr : rowsOf (l ++ 0#12) = rows ++ [⟨0xF000, l ++ 0#12, some s, fun w ws => moveEas K n w ws⟩])
    (hrows : ∀ row ∈ rows, row.mask = 0xF1C0 ∧ row.pattern = l ++ 0#3 ++ 1#3 ++ 0#6) :
    decode ([(l ++ dst.regField ++ dst.modeField ++ src.field : Word)] ++ src.ext n ++ dst.ext n ++ rest) =
      .ok (K src dst) rest := by
  obtain ⟨hsrc, hdst⟩ := Bool.and_eq_true_iff.1 h
  obtain ⟨hline, hm⟩ := moveWord_fields l dst.regField dst.modeField src.field
  obtain ⟨-, hx⟩ := regOpEaWord_fields l dst.regField dst.modeField src.field
  obtain ⟨hmode, hreg⟩ := eaWord_fields (l ++ dst.regField ++ dst.modeField) src
  have hdm := mode_ne_one_of_dataAlt hdst
  have hrow := decode_lastRow hr hline (fun row hmem => not_selects_movea hdm (hrows row hmem))
    (fun t ht => by cases ht; rw [hmode, hreg]; exact Ea.wf_has hsrc) (src.ext n ++ (dst.ext n ++ rest))
  rw [List.append_assoc, List.append_assoc, List.singleton_append, hrow, moveEas, hm, hx, Ea.wf_has hdst, if_pos rfl,
    eaOf_ext hsrc, Parse.bind_ok, takeEa_ext hdst, Parse.map_ok]

/-! ### An effective address, alone, after a register or after an immediate -/

theorem decode_oneEa {e : Ea} {s : EaSet} {n : Nat} {K : Ea → Instr} (h : e.wf s n = true) (rest : List Word) {op : BitVec 10}
    (hr : rowFor 0xFFC0 (op ++ 0#6) = some ⟨0xFFC0, op ++ 0#6, some s, fun w ws => oneEa K n w ws⟩ := by rfl) :
    decode ([(op ++ e.field : Word)] ++ e.ext n ++ rest) = .ok (K e) rest := by
  rw [List.append_assoc, List.singleton_append, decode_opEa h hr, oneEa, eaOf_ext h, Parse.map_ok]

theorem decode_regEa {e : Ea} {s : EaSet} {n : Nat} {K : BitVec 3 → Ea → Instr} (h : e.wf s n = true) (rest : List Word)
    {l : BitVec 4} {x o : BitVec 3} (hr : rowFor 0xF1C0 (l ++ 0#3 ++ o ++ 0#6) =
      some ⟨0xF1C0, l ++ 0#3 ++ o ++ 0#6, some s, fun w ws => regEa K n w ws⟩ := by rfl) :
    decode ([(l ++ x ++ o ++ e.field : Word)] ++ e.ext n ++ rest) = .ok (K x e) rest := by
  rw [List.append_assoc, List.singleton_append, decode_regOpEa (k := fun x w ws => (eaOf n w ws).map (K x)) h hr, eaOf_ext h,
    Parse.map_ok]

theorem decode_imm8Ea {e : Ea} {s : EaSet} {n : Nat} {imm : Byte} {K : Byte → Ea → Instr} (h : e.wf s n = true)
    (rest : List Word) {op : BitVec 10}
    (hr : rowFor 0xFFC0 (op ++ 0#6) = some ⟨0xFFC0, op ++ 0#6, some s, fun w ws => imm8Ea K n w ws⟩ := by rfl) :
    decode ([(op ++ e.field : Word)] ++ [0#8 ++ imm] ++ e.ext n ++ rest) = .ok (K imm e) rest := by
  have himm : (0#8 ++ imm : BitVec 16).extractLsb' 0 8 = imm := BitVec.extractLsb'_append_eq_right
  rw [List.append_assoc, List.append_assoc, List.singleton_append, List.singleton_append, decode_opEa h hr, imm8Ea,
    takeWord_cons, Parse.bind_ok, himm, eaOf_ext h, Parse.map_ok]

theorem decode_imm16Ea {e : Ea} {s : EaSet} {n : Nat} {imm : Word} {K : Word → Ea → Instr} (h : e.wf s n = true)
    (rest : List Word) {op : BitVec 10}
    (hr : rowFor 0xFFC0 (op ++ 0#6) = some ⟨0xFFC0, op ++ 0#6, some s, fun w ws => imm16Ea K n w ws⟩ := by rfl) :
    decode ([(op ++ e.field : Word)] ++ [imm] ++ e.ext n ++ rest) = .ok (K imm e) rest := by
  rw [List.append_assoc, List.append_assoc, List.singleton_append, List.singleton_append, decode_opEa h hr, imm16Ea,
    takeWord_cons, Parse.bind_ok, eaOf_ext h, Parse.map_ok]

theorem decode_imm32Ea {e : Ea} {s : EaSet} {n : Nat} {imm : Long} {K : Long → Ea → Instr} (h : e.wf s n = true)
    (rest : List Word) {op : BitVec 10}
    (hr : rowFor 0xFFC0 (op ++ 0#6) = some ⟨0xFFC0, op ++ 0#6, some s, fun w ws => imm32Ea K n w ws⟩ := by rfl) :
    decode ([(op ++ e.field : Word)] ++ longWords imm ++ e.ext n ++ rest) = .ok (K imm e) rest := by
  rw [List.append_assoc, List.append_assoc, List.singleton_append, decode_opEa h hr, imm32Ea, takeLong_longWords,
    Parse.bind_ok, eaOf_ext h, Parse.map_ok]

end Sys2Proof
end

section
/-! PROOFS. The instructions whose first extension word holds fields: their extension words are read back, and they are decoded
(30_encoding R451 to R480). -/

namespace Sys2Proof

/-! ### Fields of extension words -/

/-- A register of either kind, one bit, and bits that are not used: MOVES, CMP2 and CHK2. -/
theorem regBitWord_fields (rn : BitVec 4) (b : BitVec 1) :
    (rn ++ b ++ 0#11 : BitVec 16).extractLsb' 12 4 = rn ∧ (rn ++ b ++ 0#11 : BitVec 16).getLsbD 11 = b.getLsbD 0 := by
  simp (disch := decide) only [BitVec.extractLsb'_append_eq_of_le, BitVec.extractLsb'_eq_self, BitVec.getLsbD_append,
    Nat.reduceSub, Nat.reduceLT, if_true, if_false, and_self]

theorem casWord_fields (du dc : BitVec 3) : (0#7 ++ du ++ 0#3 ++ dc : BitVec 16).extractLsb' 6 3 = du ∧
    (0#7 ++ du ++ 0#3 ++ dc : BitVec 16).extractLsb' 0 3 = dc := by
  simp (disch := decide) only [BitVec.extractLsb'_append_eq_of_le, BitVec.extractLsb'_append_eq_of_add_le,
    BitVec.extractLsb'_eq_self, Nat.reduceSub, and_self]

theorem cas2Word_fields (rn : BitVec 4) (du dc : BitVec 3) : (rn ++ 0#3 ++ du ++ 0#3 ++ dc : BitVec 16).extractLsb' 12 4 = rn ∧
    (rn ++ 0#3 ++ du ++ 0#3 ++ dc : BitVec 16).extractLsb' 6 3 = du ∧
    (rn ++ 0#3 ++ du ++ 0#3 ++ dc : BitVec 16).extractLsb' 0 3 = dc := by
  simp (disch := decide) only [BitVec.extractLsb'_append_eq_of_le, BitVec.extractLsb'_append_eq_of_add_le,
    BitVec.extractLsb'_eq_self, Nat.reduceSub, and_self]

/-- The extension word of a long multiplication or division: signed, 64 bits, and two registers. -/
theorem longArithWord_fields (l : BitVec 3) (o : BitVec 2) (h : BitVec 3) :
    (0#1 ++ l ++ o ++ 0#7 ++ h : BitVec 16).extractLsb' 12 3 = l ∧
    (0#1 ++ l ++ o ++ 0#7 ++ h : BitVec 16).getLsbD 11 = o.getLsbD 1 ∧
    (0#1 ++ l ++ o ++ 0#7 ++ h : BitVec 16).getLsbD 10 = o.getLsbD 0 ∧
    (0#1 ++ l ++ o ++ 0#7 ++ h : BitVec 16).extractLsb' 0 3 = h := by
  simp (disch := decide) only [BitVec.extractLsb'_append_eq_of_le, BitVec.extractLsb'_append_eq_of_add_le,
    BitVec.extractLsb'_eq_self, BitVec.getLsbD_append, Nat.reduceSub, Nat.reduceLT, if_true, if_false, and_self]

/-- The bit-field extension word (R880), with or without a register in bits 14:12. -/
theorem bfWord_fields (hi : BitVec 4) (b : BfSpec) : bfOf (hi ++ b.field) = b := by
  obtain ⟨o, off, w, width⟩ := b
  simp (disch := decide) only [bfOf, BfSpec.field, BitVec.extractLsb'_append_eq_of_le, BitVec.extractLsb'_append_eq_of_add_le,
    BitVec.extractLsb'_eq_self, BitVec.getLsbD_append, bit1_getLsbD, Nat.reduceSub, Nat.reduceLT, if_true, if_false]
  rfl

theorem bfRegWord_reg (dn : BitVec 3) (f : BitVec 12) : (0#1 ++ dn ++ f : BitVec 16).extractLsb' 12 3 = dn := by
  simp (disch := decide) only [BitVec.extractLsb'_append_eq_of_le, BitVec.extractLsb'_append_eq_of_add_le,
    BitVec.extractLsb'_eq_self, Nat.reduceSub]

/-! ### Without effective address -/

theorem decode_cas2 {w : Word} {rn1 : BitVec 4} {du1 dc1 : BitVec 3} {rn2 : BitVec 4} {du2 dc2 : BitVec 3}
    {K : BitVec 4 → BitVec 3 → BitVec 3 → BitVec 4 → BitVec 3 → BitVec 3 → Instr} (rest : List Word)
    (hr : rowFor 0xFFFF w = some ⟨0xFFFF, w, none, fun _ ws => cas2Words K ws⟩ := by rfl) :
    decode ([w, (rn1 ++ 0#3 ++ du1 ++ 0#3 ++ dc1 : Word), (rn2 ++ 0#3 ++ du2 ++ 0#3 ++ dc2 : Word)] ++ rest) =
      .ok (K rn1 du1 dc1 rn2 du2 dc2) rest := by
  obtain ⟨hrn1, hdu1, hdc1⟩ := cas2Word_fields rn1 du1 dc1
  obtain ⟨hrn2, hdu2, hdc2⟩ := cas2Word_fields rn2 du2 dc2
  rw [List.cons_append, decode_fixed hr, cas2Words, List.cons_append, takeWord_cons, Parse.bind_ok, List.singleton_append,
    takeWord_cons, Parse.bind_ok, hrn1, hdu1, hdc1, hrn2, hdu2, hdc2]

theorem decode_movec {w : Word} {rn : BitVec 4} {code : BitVec 12} {K : BitVec 4 → BitVec 12 → Instr} (rest : List Word)
    (hr : rowFor 0xFFFF w = some ⟨0xFFFF, w, none, fun _ ws => movecWord K ws⟩ := by rfl) :
    decode ([w, (rn ++ code : Word)] ++ rest) = .ok (K rn code) rest := by
  have hrn : (rn ++ code : BitVec 16).extractLsb' 12 4 = rn := BitVec.extractLsb'_append_eq_left
  have hcode : (rn ++ code : BitVec 16).extractLsb' 0 12 = code := BitVec.extractLsb'_append_eq_right
  rw [List.cons_append, decode_fixed hr, movecWord, List.singleton_append, takeWord_cons, Parse.bind_ok, hrn, hcode]

theorem decode_move16Pair (ax ay : BitVec 3) (rest : List Word) :
    decode ([(0b1111011000100#13 ++ ax : Word), (0b1#1 ++ ay ++ 0#12 : Word)] ++ rest) = .ok (.move16AxPlusAyPlus ax ay) rest := by
  have hay : (0b1#1 ++ ay ++ 0#12 : BitVec 16).extractLsb' 12 3 = ay := by
    simp (disch := decide) only [BitVec.extractLsb'_append_eq_of_le, BitVec.extractLsb'_append_eq_of_add_le,
      BitVec.extractLsb'_eq_self, Nat.reduceSub]
  rw [List.cons_append, decode_opReg (k := fun y ws => (takeWord ws).bind fun x ws =>
    .ok (.move16AxPlusAyPlus y (x.extractLsb' 12 3)) ws) rfl, List.singleton_append, takeWord_cons, Parse.bind_ok, hay]

theorem decode_cache {op : BitVec 8} {c : BitVec 2} {o y : BitVec 3} {K : BitVec 2 → BitVec 3 → Instr} (rest : List Word)
    (hr : rowFor 0xFF38 (op ++ 0#2 ++ o ++ 0#3) =
      some ⟨0xFF38, op ++ 0#2 ++ o ++ 0#3, none, fun w ws => .ok (K (w.extractLsb' 6 2) (ry w)) ws⟩ := by rfl) :
    decode ([(op ++ c ++ o ++ y : Word)] ++ rest) = .ok (K c y) rest :=
  decode_cacheOp (k := fun c y ws => .ok (K c y) ws) hr rest

/-- The register field of CINVA and CPUSHA is not looked at. -/
theorem decode_cacheAll {op : BitVec 8} {c : BitVec 2} {o : BitVec 3} {K : BitVec 2 → Instr} (rest : List Word)
    (hr : rowFor 0xFF38 (op ++ 0#2 ++ o ++ 0#3) =
      some ⟨0xFF38, op ++ 0#2 ++ o ++ 0#3, none, fun w ws => .ok (K (w.extractLsb' 6 2)) ws⟩ := by rfl) :
    decode ([(op ++ c ++ o ++ 0#3 : Word)] ++ rest) = .ok (K c) rest :=
  decode_cacheOp (k := fun c _ ws => .ok (K c) ws) hr rest

/-! ### With an effective address -/

section ea

variable {e : Ea} {s : EaSet} {op : BitVec 10} (rest : List Word)

theorem decode_moves {rn : BitVec 4} {b : Bool} {K : BitVec 4 → Bool → Ea → Instr} (h : e.wf s 1 = true)
    (hr : rowFor 0xFFC0 (op ++ 0#6) = some ⟨0xFFC0, op ++ 0#6, some s, fun w ws => movesWord K w ws⟩ := by rfl) :
    decode ([(op ++ e.field : Word), (rn ++ bit1 b ++ 0#11 : Word)] ++ e.ext 1 ++ rest) = .ok (K rn b e) rest := by
  obtain ⟨hrn, hb⟩ := regBitWord_fields rn (bit1 b)
  rw [List.append_assoc, List.cons_append, decode_opEa h hr, List.singleton_append, movesWord, takeWord_cons, Parse.bind_ok,
    hrn, hb, bit1_getLsbD, eaOf_ext h, Parse.map_ok]

theorem decode_cmp2Chk2 {rn : BitVec 4} {b : BitVec 1} {cmp chk : BitVec 4 → Ea → Instr} (h : e.wf s 1 = true)
    (hr : rowFor 0xFFC0 (op ++ 0#6) = some ⟨0xFFC0, op ++ 0#6, some s, fun w ws => cmp2Chk2 cmp chk w ws⟩) :
    decode ([(op ++ e.field : Word), (rn ++ b ++ 0#11 : Word)] ++ e.ext 1 ++ rest) =
      .ok ((if b.getLsbD 0 then chk else cmp) rn e) rest := by
  obtain ⟨hrn, hb⟩ := regBitWord_fields rn b
  rw [List.append_assoc, List.cons_append, decode_opEa h hr, List.singleton_append, cmp2Chk2, takeWord_cons, Parse.bind_ok,
    hrn, hb, eaOf_ext h, Parse.map_ok]

theorem decode_cmp2 {rn : BitVec 4} {cmp : BitVec 4 → Ea → Instr} (chk : BitVec 4 → Ea → Instr) (h : e.wf s 1 = true)
    (hr : rowFor 0xFFC0 (op ++ 0#6) = some ⟨0xFFC0, op ++ 0#6, some s, fun w ws => cmp2Chk2 cmp chk w ws⟩ := by rfl) :
    decode ([(op ++ e.field : Word), (rn ++ 0b0#1 ++ 0#11 : Word)] ++ e.ext 1 ++ rest) = .ok (cmp rn e) rest :=
  decode_cmp2Chk2 rest h hr

theorem decode_chk2 {rn : BitVec 4} {chk : BitVec 4 → Ea → Instr} (cmp : BitVec 4 → Ea → Instr) (h : e.wf s 1 = true)
    (hr : rowFor 0xFFC0 (op ++ 0#6) = some ⟨0xFFC0, op ++ 0#6, some s, fun w ws => cmp2Chk2 cmp chk w ws⟩ := by rfl) :
    decode ([(op ++ e.field : Word), (rn ++ 0b1#1 ++ 0#11 : Word)] ++ e.ext 1 ++ rest) = .ok (chk rn e) rest :=
  decode_cmp2Chk2 rest h hr

theorem decode_cas {du dc : BitVec 3} {K : BitVec 3 → BitVec 3 → Ea → Instr} (h : e.wf s 1 = true)
    (hr : rowFor 0xFFC0 (op ++ 0#6) = some ⟨0xFFC0, op ++ 0#6, some s, fun w ws => casWord K w ws⟩ := by rfl) :
    decode ([(op ++ e.field : Word), (0#7 ++ du ++ 0#3 ++ dc : Word)] ++ e.ext 1 ++ rest) = .ok (K du dc e) rest := by
  obtain ⟨hdu, hdc⟩ := casWord_fields du dc
  rw [List.append_assoc, List.cons_append, decode_opEa h hr, List.singleton_append, casWord, takeWord_cons, Parse.bind_ok,
    hdu, hdc, eaOf_ext h, Parse.map_ok]

theorem decode_bf {b : BfSpec} {K : BfSpec → Ea → Instr} (h : e.wf s 1 = true)
    (hr : rowFor 0xFFC0 (op ++ 0#6) = some ⟨0xFFC0, op ++ 0#6, some s, fun w ws => bfWord K w ws⟩ := by rfl) :
    decode ([(op ++ e.field : Word), (0#4 ++ b.field : Word)] ++ e.ext 1 ++ rest) = .ok (K b e) rest := by
  rw [List.append_assoc, List.cons_append, decode_opEa h hr, List.singleton_append, bfWord, takeWord_cons, Parse.bind_ok,
    bfWord_fields, eaOf_ext h, Parse.map_ok]

theorem decode_bfReg {dn : BitVec 3} {b : BfSpec} {K : BitVec 3 → BfSpec → Ea → Instr} (h : e.wf s 1 = true)
    (hr : rowFor 0xFFC0 (op ++ 0#6) = some ⟨0xFFC0, op ++ 0#6, some s, fun w ws => bfRegWord K w ws⟩ := by rfl) :
    decode ([(op ++ e.field : Word), (0#1 ++ dn ++ b.field : Word)] ++ e.ext 1 ++ rest) = .ok (K dn b e) rest := by
  have hb : bfOf (0#1 ++ dn ++ b.field) = b := bfWord_fields (0#1 ++ dn) b
  rw [List.append_assoc, List.cons_append, decode_opEa h hr, List.singleton_append, bfRegWord, takeWord_cons, Parse.bind_ok,
    bfRegWord_reg, hb, eaOf_ext h, Parse.map_ok]

/-! ### Long multiplication and division (R651 to R658) -/

/-- The multiplication that the signed bit and the 64-bit bit name. -/
noncomputable def mulForm (o : BitVec 2) (l h : BitVec 3) (e : Ea) : Instr :=
  match o.getLsbD 1, o.getLsbD 0 with
  | false, false => .muluLEaDl l e
  | false, true => .muluLEaDhDl h l e
  | true, false => .mulsLEaDl l e
  | true, true => .mulsLEaDhDl h l e

/-- The division that the signed bit, the 64-bit bit and the registers name. -/
noncomputable def divForm (o : BitVec 2) (q r : BitVec 3) (e : Ea) : Instr :=
  match o.getLsbD 1, o.getLsbD 0 with
  | false, false => if r = q then .divuLEaDq q e else .divulLEaDrDq r q e
  | false, true => .divuLEaDrDq r q e
  | true, false => if r = q then .divsLEaDq q e else .divslLEaDrDq r q e
  | true, true => .divsLEaDrDq r q e

theorem decode_mulLong {o : BitVec 2} {l m : BitVec 3} (h : e.wf .data 2 = true) :
    decode ([(0b0100110000#10 ++ e.field : Word), (0#1 ++ l ++ o ++ 0#7 ++ m : Word)] ++ e.ext 2 ++ rest) =
      .ok (mulForm o l m e) rest := by
  obtain ⟨hl, hsigned, hwide, hm⟩ := longArithWord_fields l o m
  rw [List.append_assoc, List.cons_append, decode_opEa (k := fun w ws => mulLong w ws) h rfl, List.singleton_append, mulLong,
    takeWord_cons, Parse.bind_ok, hl, hsigned, hwide, hm, eaOf_ext h]
  rfl

theorem decode_divLong {o : BitVec 2} {q r : BitVec 3} (h : e.wf .data 2 = true) :
    decode ([(0b0100110001#10 ++ e.field : Word), (0#1 ++ q ++ o ++ 0#7 ++ r : Word)] ++ e.ext 2 ++ rest) =
      .ok (divForm o q r e) rest := by
  obtain ⟨hq, hsigned, hwide, hr⟩ := longArithWord_fields q o r
  rw [List.append_assoc, List.cons_append, decode_opEa (k := fun w ws => divLong w ws) h rfl, List.singleton_append, divLong,
    takeWord_cons, Parse.bind_ok, hq, hsigned, hwide, hr, eaOf_ext h]
  rfl

end ea

end Sys2Proof
end

section
/-! PROOFS. The floating-point instructions are decoded from the words that the encoder writes (42_floating_point R690 to R700). -/

namespace Sys2Proof

/-! ### The command word (R691) -/

/-- Opclass, source specifier, destination register and operation code. -/
theorem commandWord_fields (o m d : BitVec 3) (c : BitVec 7) : (o ++ m ++ d ++ c : BitVec 16).extractLsb' 13 3 = o ∧
    (o ++ m ++ d ++ c : BitVec 16).extractLsb' 10 3 = m ∧ (o ++ m ++ d ++ c : BitVec 16).extractLsb' 7 3 = d ∧
    (o ++ m ++ d ++ c : BitVec 16).extractLsb' 0 7 = c := by
  simp (disch := decide) only [BitVec.extractLsb'_append_eq_of_le, BitVec.extractLsb'_append_eq_of_add_le,
    BitVec.extractLsb'_eq_self, Nat.reduceSub, and_self]

theorem decode_fpGeneral (f : BitVec 6) (ws : List Word) :
    decode ((0xF2#8 ++ 0b00#2 ++ f : Word) :: ws) = fpGeneral (0xF2#8 ++ 0b00#2 ++ f) ws :=
  decode_bareRow (parse := fun w ws => fpGeneral w ws) rfl (opEaWord_masked (0xF2#8 ++ 0b00#2) f) (ws := ws)

section opclass

variable {c : Word} (w : Word) (ws : List Word)

theorem fpGeneral_register {K : FpSrc → BitVec 3 → Instr} (ho : c.extractLsb' 13 3 = 0#3)
    (hK : fpOp (c.extractLsb' 0 7) = some K) :
    fpGeneral w (c :: ws) = .ok (K (.fp (c.extractLsb' 10 3)) (c.extractLsb' 7 3)) ws := by
  rw [fpGeneral, takeWord_cons, Parse.bind_ok, ho]
  simp only [hK]
  rfl

theorem fpGeneral_constant (ho : c.extractLsb' 13 3 = 2#3) (hm : c.extractLsb' 10 3 = 7#3) :
    fpGeneral w (c :: ws) = .ok (.fmovecrUnimplemented (c.extractLsb' 7 3) (c.extractLsb' 0 7)) ws := by
  rw [fpGeneral, takeWord_cons, Parse.bind_ok, ho, hm]
  rfl

theorem fpGeneral_operand {K : FpSrc → BitVec 3 → Instr} (ho : c.extractLsb' 13 3 = 2#3) (hm : c.extractLsb' 10 3 ≠ 7#3)
    (hK : fpOp (c.extractLsb' 0 7) = some K) :
    fpGeneral w (c :: ws) = fpEa (FpFmt.ofCode (c.extractLsb' 10 3)).srcModes (FpFmt.ofCode (c.extractLsb' 10 3)).immWords w ws
      fun e => K (.ea (FpFmt.ofCode (c.extractLsb' 10 3)) e) (c.extractLsb' 7 3) := by
  rw [fpGeneral, takeWord_cons, Parse.bind_ok, ho]
  simp only [hK]
  exact if_neg hm

theorem fpGeneral_store (ho : c.extractLsb' 13 3 = 3#3) : fpGeneral w (c :: ws) = fpStore c w ws := by
  rw [fpGeneral, takeWord_cons, Parse.bind_ok, ho]
  rfl

theorem fpGeneral_loadCtrl (ho : c.extractLsb' 13 3 = 4#3) : fpGeneral w (c :: ws) = fpCtrl false c w ws := by
  rw [fpGeneral, takeWord_cons, Parse.bind_ok, ho]
  rfl

theorem fpGeneral_storeCtrl (ho : c.extractLsb' 13 3 = 5#3) : fpGeneral w (c :: ws) = fpCtrl true c w ws := by
  rw [fpGeneral, takeWord_cons, Parse.bind_ok, ho]
  rfl

theorem fpGeneral_loadList (ho : c.extractLsb' 13 3 = 6#3) : fpGeneral w (c :: ws) =
    fpEa EaSet.movemLoad 1 w ws (.fmovemXEaList (c.extractLsb' 11 2) (c.extractLsb' 0 8)) := by
  rw [fpGeneral, takeWord_cons, Parse.bind_ok, ho]
  rfl

theorem fpGeneral_storeList (ho : c.extractLsb' 13 3 = 7#3) : fpGeneral w (c :: ws) =
    fpEa EaSet.movemStore 1 w ws (.fmovemXListEa (c.extractLsb' 11 2) (c.extractLsb' 0 8)) := by
  rw [fpGeneral, takeWord_cons, Parse.bind_ok, ho]
  rfl

theorem fpGeneral_reserved (ho : c.extractLsb' 13 3 = 1#3) : fpGeneral w (c :: ws) = .stop .fline := by
  rw [fpGeneral, takeWord_cons, Parse.bind_ok, ho]
  rfl

end opclass

theorem fpEa_ext {s : EaSet} {n : Nat} {e : Ea} (h : e.wf s n = true) (op : BitVec 10) (K : Ea → Instr) (rest : List Word) :
    fpEa s n (op ++ e.field) (e.ext n ++ rest) K = .ok (K e) rest := by
  obtain ⟨hmode, hreg⟩ := eaWord_fields op e
  rw [fpEa, hmode, hreg, Ea.wf_has h, if_pos rfl, eaOf_ext h, Parse.map_ok]

/-! ### Arithmetic (R691, R700) -/

theorem FpFmt.ofCode_code (f : FpFmt) : FpFmt.ofCode f.code = f ∧ f.code ≠ 7#3 := by
  cases f <;> exact ⟨rfl, by decide⟩

theorem decode_fpArith {src : FpSrc} {dst : BitVec 3} {c : BitVec 7} {K : FpSrc → BitVec 3 → Instr} (h : src.wf = true)
    (rest : List Word) (hK : fpOp c = some K := by rfl) :
    decode ([(0xF2#8 ++ 0b00#2 ++ src.field : Word), (src.cmd ++ dst ++ c : Word)] ++ src.ext ++ rest) = .ok (K src dst) rest := by
  rw [List.append_assoc, List.cons_append, decode_fpGeneral, List.singleton_append]
  cases src with
  | fp m =>
    obtain ⟨ho, hm, hd, hc⟩ := commandWord_fields 0b000#3 m dst c
    rw [FpSrc.cmd, fpGeneral_register _ _ ho (hc ▸ hK), hm, hd]
    rfl
  | ea f e =>
    obtain ⟨ho, hm, hd, hc⟩ := commandWord_fields 0b010#3 f.code dst c
    obtain ⟨hf, hne⟩ := f.ofCode_code
    rw [FpSrc.cmd, fpGeneral_operand _ _ ho (fun h => hne (hm.symm.trans h)) (hc ▸ hK), hm, hd, hf]
    exact fpEa_ext h _ _ rest

theorem fpOp_sincos (dc : BitVec 3) : fpOp (0b0110#4 ++ dc) = some fun s d => .fsincosUnimplemented s d dc := by
  rcases Machine.reg_cases dc with rfl | rfl | rfl | rfl | rfl | rfl | rfl | rfl <;> rfl

theorem decode_fpSincos {src : FpSrc} {dst : BitVec 3} (h : src.wf = true) (dc : BitVec 3) (rest : List Word) :
    decode ([(0xF2#8 ++ 0b00#2 ++ src.field : Word), (src.cmd ++ dst ++ 0b0110#4 ++ dc : Word)] ++ src.ext ++ rest) =
      .ok (.fsincosUnimplemented src dst dc) rest := by
  have hword : (src.cmd ++ dst ++ 0b0110#4 ++ dc : BitVec 16) = src.cmd ++ dst ++ (0b0110#4 ++ dc) := BitVec.append_assoc
  have hrow := decode_fpArith (dst := dst) h rest (fpOp_sincos dc)
  rwa [← hword] at hrow

theorem decode_fmovecr (dst : BitVec 3) (off : BitVec 7) (rest : List Word) :
    decode ([0xF200#16, (0b010111#6 ++ dst ++ off : Word)] ++ rest) = .ok (.fmovecrUnimplemented dst off) rest := by
  obtain ⟨ho, hm, hd, hc⟩ := commandWord_fields 0b010#3 7#3 dst off
  have hrow := decode_fpGeneral 0#6 ((0b010111#6 ++ dst ++ off : Word) :: rest)
  exact hrow.trans ((fpGeneral_constant _ _ ho hm).trans (by rw [hd, hc]))

/-! ### FMOVE to memory (R693) -/

/-- The modes and the instruction of a destination format, of FPm and the k-factor. -/
noncomputable def storeForm (f src : BitVec 3) (k : BitVec 7) : EaSet × (Ea → Instr) :=
  match f.toNat with
  | 0 => (FpFmt.l.dstModes, .fmoveLFpmEa src)
  | 1 => (FpFmt.s.dstModes, .fmoveSFpmEa src)
  | 2 => (FpFmt.x.dstModes, .fmoveXFpmEa src)
  | 3 => (FpFmt.p.dstModes, .fmovePKFpmEa src k)
  | 4 => (FpFmt.w.dstModes, .fmoveWFpmEa src)
  | 5 => (FpFmt.d.dstModes, .fmoveDFpmEa src)
  | 6 => (FpFmt.b.dstModes, .fmoveBFpmEa src)
  | _ => (FpFmt.p.dstModes, .fmovePDnFpmEa src (k.extractLsb' 4 3))

theorem fpStore_eq {c : Word} {f src : BitVec 3} {k : BitVec 7} (hf : c.extractLsb' 10 3 = f) (hsrc : c.extractLsb' 7 3 = src)
    (hk : c.extractLsb' 0 7 = k) (w : Word) (ws : List Word) :
    fpStore c w ws = fpEa (storeForm f src k).1 1 w ws (storeForm f src k).2 := by
  have hdn : c.extractLsb' 4 3 = k.extractLsb' 4 3 := by
    rw [← hk]
    exact BitVec.eq_of_getLsbD_eq fun i hi => by simp [hi]
  rw [fpStore, hf, hsrc, hk, hdn]
  rcases Machine.reg_cases f with rfl | rfl | rfl | rfl | rfl | rfl | rfl | rfl <;> rfl

theorem decode_fpStore {f src : BitVec 3} {k : BitVec 7} {e : Ea} {s : EaSet} {K : Ea → Instr} (h : e.wf s 1 = true)
    (rest : List Word) (hform : storeForm f src k = (s, K) := by rfl) :
    decode ([(0xF2#8 ++ 0b00#2 ++ e.field : Word), (0b011#3 ++ f ++ src ++ k : Word)] ++ e.ext 1 ++ rest) = .ok (K e) rest := by
  obtain ⟨ho, hf, hsrc, hk⟩ := commandWord_fields 0b011#3 f src k
  rw [List.append_assoc, List.cons_append, decode_fpGeneral, List.singleton_append, fpGeneral_store _ _ ho,
    fpStore_eq hf hsrc hk, hform]
  exact fpEa_ext h _ _ rest

/-- The packed form with the k-factor in Dn. -/
theorem decode_fpStorePacked {src : BitVec 3} {e : Ea} (h : e.wf FpFmt.p.dstModes 1 = true) (dn : BitVec 3) (rest : List Word) :
    decode ([(0xF2#8 ++ 0b00#2 ++ e.field : Word), (0b011#3 ++ 7#3 ++ src ++ dn ++ 0#4 : Word)] ++ e.ext 1 ++ rest) =
      .ok (.fmovePDnFpmEa src dn e) rest := by
  have hword : (0b011#3 ++ 7#3 ++ src ++ dn ++ 0#4 : BitVec 16) = 0b011#3 ++ 7#3 ++ src ++ (dn ++ 0#4) := BitVec.append_assoc
  have hdn : (dn ++ 0#4 : BitVec 7).extractLsb' 4 3 = dn := BitVec.extractLsb'_append_eq_left
  have hform : storeForm 7#3 src (dn ++ 0#4) = (FpFmt.p.dstModes, .fmovePDnFpmEa src dn) :=
    congrArg (fun d => (FpFmt.p.dstModes, Instr.fmovePDnFpmEa src d)) hdn
  have hrow := decode_fpStore h rest hform
  rwa [← hword] at hrow

/-! ### Control registers (R694) -/

/-- The modes and the instruction of a list of control registers. -/
noncomputable def ctrlForm (store : Bool) (regs : BitVec 3) : EaSet × (Ea → Instr) :=
  match store, regs.toNat with
  | true, 4 => (ctrlDstModes 4, .fmoveLFpcrEa)
  | true, 2 => (ctrlDstModes 2, .fmoveLFpsrEa)
  | true, 1 => (ctrlDstModes 1, .fmoveLFpiarEa)
  | true, _ => (ctrlDstModes regs, .fmovemLCtrlListEa regs)
  | false, 4 => (ctrlSrcModes 4, .fmoveLEaFpcr)
  | false, 2 => (ctrlSrcModes 2, .fmoveLEaFpsr)
  | false, 1 => (ctrlSrcModes 1, .fmoveLEaFpiar)
  | false, _ => (ctrlSrcModes regs, .fmovemLEaCtrlList regs)

theorem fpCtrl_eq {c : Word} {regs : BitVec 3} (hregs : c.extractLsb' 10 3 = regs) (store : Bool) (w : Word) (ws : List Word) :
    fpCtrl store c w ws = fpEa (ctrlForm store regs).1 (2 * ctrlCount regs) w ws (ctrlForm store regs).2 := by
  rw [fpCtrl, hregs]
  rcases Machine.reg_cases regs with rfl | rfl | rfl | rfl | rfl | rfl | rfl | rfl <;> cases store <;> rfl

/-- Where not one register is named, the instruction is the list form. -/
theorem ctrlForm_list {regs : BitVec 3} (h : ctrlCount regs ≠ 1) :
    ctrlForm false regs = (ctrlSrcModes regs, .fmovemLEaCtrlList regs) ∧
      ctrlForm true regs = (ctrlDstModes regs, .fmovemLCtrlListEa regs) := by
  rcases Machine.reg_cases regs with rfl | rfl | rfl | rfl | rfl | rfl | rfl | rfl <;> trivial

theorem ctrlWord_fields (o m : BitVec 3) :
    (o ++ m ++ 0#10 : BitVec 16).extractLsb' 13 3 = o ∧ (o ++ m ++ 0#10 : BitVec 16).extractLsb' 10 3 = m := by
  simp (disch := decide) only [BitVec.extractLsb'_append_eq_of_le, BitVec.extractLsb'_append_eq_of_add_le,
    BitVec.extractLsb'_eq_self, Nat.reduceSub, and_self]

theorem decode_fpLoadCtrl {regs : BitVec 3} {e : Ea} (h : e.wf (ctrlForm false regs).1 (2 * ctrlCount regs) = true)
    (rest : List Word) :
    decode ([(0xF2#8 ++ 0b00#2 ++ e.field : Word), (0b100#3 ++ regs ++ 0#10 : Word)] ++ e.ext (2 * ctrlCount regs) ++ rest) =
      .ok ((ctrlForm false regs).2 e) rest := by
  obtain ⟨ho, hregs⟩ := ctrlWord_fields 0b100#3 regs
  rw [List.append_assoc, List.cons_append, decode_fpGeneral, List.singleton_append, fpGeneral_loadCtrl _ _ ho, fpCtrl_eq hregs]
  exact fpEa_ext h _ _ rest

theorem decode_fpStoreCtrl {regs : BitVec 3} {e : Ea} (h : e.wf (ctrlForm true regs).1 (2 * ctrlCount regs) = true)
    (rest : List Word) :
    decode ([(0xF2#8 ++ 0b00#2 ++ e.field : Word), (0b101#3 ++ regs ++ 0#10 : Word)] ++ e.ext (2 * ctrlCount regs) ++ rest) =
      .ok ((ctrlForm true regs).2 e) rest := by
  obtain ⟨ho, hregs⟩ := ctrlWord_fields 0b101#3 regs
  rw [List.append_assoc, List.cons_append, decode_fpGeneral, List.singleton_append, fpGeneral_storeCtrl _ _ ho, fpCtrl_eq hregs]
  exact fpEa_ext h _ _ rest

theorem decode_fpLoadList {regs : BitVec 3} {e : Ea}
    (h : (ctrlCount regs != 1 && e.wf (ctrlSrcModes regs) (2 * ctrlCount regs)) = true) (rest : List Word) :
    decode ([(0xF2#8 ++ 0b00#2 ++ e.field : Word), (0b100#3 ++ regs ++ 0#10 : Word)] ++ e.ext (2 * ctrlCount regs) ++ rest) =
      .ok (.fmovemLEaCtrlList regs e) rest := by
  obtain ⟨hcount, he⟩ := Bool.and_eq_true_iff.1 h
  obtain ⟨hform, -⟩ := ctrlForm_list (bne_iff_ne.1 hcount)
  have hrow := decode_fpLoadCtrl (regs := regs) (e := e) (by rw [hform]; exact he) rest
  rwa [hform] at hrow

theorem decode_fpStoreList {regs : BitVec 3} {e : Ea}
    (h : (ctrlCount regs != 1 && e.wf (ctrlDstModes regs) (2 * ctrlCount regs)) = true) (rest : List Word) :
    decode ([(0xF2#8 ++ 0b00#2 ++ e.field : Word), (0b101#3 ++ regs ++ 0#10 : Word)] ++ e.ext (2 * ctrlCount regs) ++ rest) =
      .ok (.fmovemLCtrlListEa regs e) rest := by
  obtain ⟨hcount, he⟩ := Bool.and_eq_true_iff.1 h
  obtain ⟨-, hform⟩ := ctrlForm_list (bne_iff_ne.1 hcount)
  have hrow := decode_fpStoreCtrl (regs := regs) (e := e) (by rw [hform]; exact he) rest
  rwa [hform] at hrow

/-! ### Lists of data registers (R695) -/

theorem listWord_fields (o : BitVec 3) (mode : BitVec 2) (list : BitVec 8) :
    (o ++ mode ++ 0#3 ++ list : BitVec 16).extractLsb' 13 3 = o ∧
      (o ++ mode ++ 0#3 ++ list : BitVec 16).extractLsb' 11 2 = mode ∧
      (o ++ mode ++ 0#3 ++ list : BitVec 16).extractLsb' 0 8 = list := by
  simp (disch := decide) only [BitVec.extractLsb'_append_eq_of_le, BitVec.extractLsb'_append_eq_of_add_le,
    BitVec.extractLsb'_eq_self, Nat.reduceSub, and_self]

theorem decode_fmovemLoad {mode : BitVec 2} {list : BitVec 8} {e : Ea} (h : e.wf .movemLoad 1 = true) (rest : List Word) :
    decode ([(0xF2#8 ++ 0b00#2 ++ e.field : Word), (0b110#3 ++ mode ++ 0#3 ++ list : Word)] ++ e.ext 1 ++ rest) =
      .ok (.fmovemXEaList mode list e) rest := by
  obtain ⟨ho, hmode, hlist⟩ := listWord_fields 0b110#3 mode list
  rw [List.append_assoc, List.cons_append, decode_fpGeneral, List.singleton_append, fpGeneral_loadList _ _ ho, hmode, hlist]
  exact fpEa_ext h _ _ rest

theorem decode_fmovemStore {mode : BitVec 2} {list : BitVec 8} {e : Ea} (h : e.wf .movemStore 1 = true) (rest : List Word) :
    decode ([(0xF2#8 ++ 0b00#2 ++ e.field : Word), (0b111#3 ++ mode ++ 0#3 ++ list : Word)] ++ e.ext 1 ++ rest) =
      .ok (.fmovemXListEa mode list e) rest := by
  obtain ⟨ho, hmode, hlist⟩ := listWord_fields 0b111#3 mode list
  rw [List.append_assoc, List.cons_append, decode_fpGeneral, List.singleton_append, fpGeneral_storeList _ _ ho, hmode, hlist]
  exact fpEa_ext h _ _ rest

/-! ### Predicates (R696 to R699) -/

/-- A predicate word has a predicate. -/
theorem predWord_pred (pred : BitVec 5) (ws : List Word) (k : BitVec 5 → List Word → Parse Instr) :
    predWord ((0#11 ++ pred : Word) :: ws) k = k pred ws := by
  have hfield : ((0#11 ++ pred : Word).extractLsb' 0 6).getLsbD 5 = false ∧
      ((0#11 ++ pred : Word).extractLsb' 0 6).extractLsb' 0 5 = pred := by revert pred; decide
  rw [predWord, takeWord_cons, Parse.bind_ok, withPred, hfield.1, hfield.2]
  rfl

theorem decode_fscc {pred : BitVec 5} {e : Ea} (h : e.wf .dataAlt 1 = true) (rest : List Word) :
    decode ([(0xF2#8 ++ 0b01#2 ++ e.field : Word), (0#11 ++ pred : Word)] ++ e.ext 1 ++ rest) = .ok (.fscc pred e) rest := by
  rw [List.append_assoc, List.cons_append,
    decode_opEa (k := fun w ws => predWord ws fun p ws => (eaOf 1 w ws).map (.fscc p)) h rfl, List.singleton_append, predWord_pred,
    eaOf_ext h, Parse.map_ok]

theorem decode_fdbcc (pred : BitVec 5) (dn : BitVec 3) (d : Word) (rest : List Word) :
    decode ([(0xF2#8 ++ 0b01001#5 ++ dn : Word), (0#11 ++ pred : Word), d] ++ rest) = .ok (.fdbcc pred dn d) rest :=
  (decode_opReg (k := fun y ws => predWord ws fun p ws => imm16 (.fdbcc p y) ws) rfl _).trans (predWord_pred pred _ _)

theorem decode_ftrapccW (pred : BitVec 5) (imm : Word) (rest : List Word) :
    decode ([0xF27A#16, (0#11 ++ pred : Word), imm] ++ rest) = .ok (.ftrapccW pred imm) rest :=
  (decode_fixed (k := fun ws => predWord ws fun p ws => imm16 (.ftrapccW p) ws) rfl _).trans (predWord_pred pred _ _)

theorem decode_ftrapccL (pred : BitVec 5) (imm : Long) (rest : List Word) :
    decode ([0xF27B#16, (0#11 ++ pred : Word)] ++ longWords imm ++ rest) = .ok (.ftrapccL pred imm) rest :=
  (decode_fixed (k := fun ws => predWord ws fun p ws => imm32 (.ftrapccL p) ws) rfl _).trans
    ((predWord_pred pred _ _).trans (imm32_longWords (.ftrapccL pred) imm rest))

theorem decode_ftrapcc (pred : BitVec 5) (rest : List Word) :
    decode ([0xF27C#16, (0#11 ++ pred : Word)] ++ rest) = .ok (.ftrapcc pred) rest :=
  (decode_fixed (k := fun ws => predWord ws fun p ws => .ok (.ftrapcc p) ws) rfl _).trans (predWord_pred pred _ _)

/-- The operation word of FBcc holds its predicate. -/
theorem fbccWord_fields (size : BitVec 2) (pred : BitVec 5) :
    (0xF2#8 ++ size ++ 0#1 ++ pred : BitVec 16) &&& 0xFFC0 = 0xF2#8 ++ size ++ 0#6 ∧
      ((0xF2#8 ++ size ++ 0#1 ++ pred : BitVec 16).extractLsb' 0 6).getLsbD 5 = false ∧
      ((0xF2#8 ++ size ++ 0#1 ++ pred : BitVec 16).extractLsb' 0 6).extractLsb' 0 5 = pred := by
  revert size pred
  decide

theorem decode_fbccW (pred : BitVec 5) (d : Word) (rest : List Word) :
    decode ([(0xF2#8 ++ 0b100#3 ++ pred : Word), d] ++ rest) =
      .ok (if pred = 0 ∧ d = 0 then .fnop else .fbccW pred d) rest := by
  obtain ⟨hmask, hbit, hpred⟩ := fbccWord_fields 0b10#2 pred
  have hrow := decode_bareRow (parse := fun w ws => fbccW w ws) rfl hmask (ws := d :: rest)
  refine hrow.trans ?_
  rw [fbccW, withPred, hbit, hpred]
  rfl

theorem decode_fbccL (pred : BitVec 5) (d : Long) (rest : List Word) :
    decode ([(0xF2#8 ++ 0b110#3 ++ pred : Word)] ++ longWords d ++ rest) = .ok (.fbccL pred d) rest := by
  obtain ⟨hmask, hbit, hpred⟩ := fbccWord_fields 0b11#2 pred
  have hrow := decode_bareRow (parse := fun w ws => fbccL w ws) rfl hmask (ws := longWords d ++ rest)
  refine hrow.trans ?_
  rw [fbccL, withPred, hbit, hpred, if_neg Bool.false_ne_true, takeLong_longWords, Parse.map_ok]

end Sys2Proof
end

section
/-! PROOFS. The decoder reads back every well-formed instruction from the words that the encoder writes, and so the words of the
spec's encodings (30_encoding R450 to R480). -/

namespace Sys2Proof

theorem not_fnop {pred : BitVec 5} {d : Word} (h : (pred != 0 || d != 0) = true) : ¬ (pred = 0 ∧ d = 0) := by
  rintro ⟨rfl, rfl⟩
  cases h

/-- Every instruction by the shape of its words. -/
theorem decode_encode {i : Instr} (h : i.wf = true) (rest : List Word) : decode (encode i ++ rest) = .ok i rest := by
  cases i with
  | oriToCcr | oriToSr | andiToCcr | andiToSr | eoriToCcr | eoriToSr | stop | rtd => exact decode_fixed_imm16 rest
  | illegal | reset | nop | rte | rts | trapv | rtr => exact decode_fixed_ok rest
  | oriB | andiB | subiB | addiB | eoriB | cmpiB | btst | bchg | bclr | bset => exact decode_imm8Ea h rest
  | oriW | andiW | subiW | addiW | eoriW | cmpiW | movemWListEa | movemWEaList | movemLListEa | movemLEaList =>
    exact decode_imm16Ea h rest
  | oriL | andiL | subiL | addiL | eoriL | cmpiL => exact decode_imm32Ea h rest
  | negxB | negxW | negxL | clrB | clrW | clrL | negB | negW | negL | notB | notW | notL | moveFromSr | moveFromCcr
  | moveToCcr | moveToSr | nbcd | pea | tstB | tstW | tstL | tas | jsr | jmp | asrEa | aslEa | lsrEa | lslEa | roxrEa
  | roxlEa | rorEa | rolEa | fsave | frestore => exact decode_oneEa h rest
  | btstDn | bchgDn | bclrDn | bsetDn | moveaL | moveaW | chkL | chkW | lea | addqB | subqB | addqW | subqW | addqL | subqL
  | orBEaDn | orBDnEa | orWEaDn | orWDnEa | orLEaDn | orLDnEa | divuW | divsW | subBEaDn | subBDnEa | subWEaDn | subWDnEa
  | subLEaDn | subLDnEa | subaW | subaL | cmpBEaDn | cmpWEaDn | cmpLEaDn | cmpaW | cmpaL | eorB | eorW | eorL | andBEaDn
  | andBDnEa | andWEaDn | andWDnEa | andLEaDn | andLDnEa | muluW | mulsW | addBEaDn | addBDnEa | addWEaDn | addWDnEa
  | addLEaDn | addLDnEa | addaW | addaL => exact decode_regEa h rest
  | cmpmB | cmpmW | cmpmL | exgDxDy | exgAxAy | exgDxAy => exact decode_regOpReg_ok rest
  | movepWD16AyDx | movepLD16AyDx | movepWDxD16Ay | movepLDxD16Ay => exact decode_regOpReg_imm16 rest
  | sbcd | subxB | subxW | subxL | abcd | addxB | addxW | addxL => exact decode_regOpBitReg_ok rest
  | pack | unpk => exact decode_regOpBitReg_imm16 rest
  | asrBDxDy | asrWDxDy | asrLDxDy | aslBDxDy | aslWDxDy | aslLDxDy | lsrBDxDy | lsrWDxDy | lsrLDxDy | lslBDxDy | lslWDxDy
  | lslLDxDy | roxrBDxDy | roxrWDxDy | roxrLDxDy | roxlBDxDy | roxlWDxDy | roxlLDxDy | rorBDxDy | rorWDxDy | rorLDxDy
  | rolBDxDy | rolWDxDy | rolLDxDy => exact decode_shift rest
  | swap | bkpt | extW | extL | extbL | unlk | moveAnUsp | moveUspAn | pflushnAn | pflushAn | ptestwAn | ptestrAn =>
    exact decode_opReg_ok rest
  | linkW => exact decode_opReg_imm16 rest
  | linkL | move16AnPlusXxxL | move16XxxLAnPlus | move16AnXxxL | move16XxxLAn => exact decode_opReg_imm32 rest
  | pflushan | pflusha => exact decode_op13_ok rest
  | trap n => exact decode_trap n rest
  | moveq dn d => exact decode_moveq dn d rest
  | trapcc => exact decode_cc_ok rest
  | trapccW => exact decode_cc_imm16 rest
  | trapccL => exact decode_cc_imm32 rest
  | dbcc cc dn d => exact decode_dbcc cc dn d rest
  | scc cc => exact decode_scc h cc rest
  | bra | bsr => exact decode_branch h rest
  | bcc => exact decode_bcc h rest
  | moveB => exact decode_move h rest (rows := []) rfl fun _ hmem => absurd hmem List.not_mem_nil
  | moveL => exact decode_move h rest (rows := rows2.take 1) rfl (List.forall_mem_singleton.2 ⟨rfl, rfl⟩)
  | moveW => exact decode_move h rest (rows := rows3.take 1) rfl (List.forall_mem_singleton.2 ⟨rfl, rfl⟩)
  | movesB | movesW | movesL => exact decode_moves rest h
  | cmp2B => exact decode_cmp2 rest .chk2B h
  | cmp2W => exact decode_cmp2 rest .chk2W h
  | cmp2L => exact decode_cmp2 rest .chk2L h
  | chk2B => exact decode_chk2 rest .cmp2B h
  | chk2W => exact decode_chk2 rest .cmp2W h
  | chk2L => exact decode_chk2 rest .cmp2L h
  | casB | casW | casL => exact decode_cas rest h
  | cas2W | cas2L => exact decode_cas2 rest
  | muluLEaDl | mulsLEaDl | muluLEaDhDl | mulsLEaDhDl => exact decode_mulLong rest h
  | divuLEaDrDq | divsLEaDrDq => exact decode_divLong rest h
  | divuLEaDq | divsLEaDq => exact (decode_divLong rest h).trans (congrArg (Parse.ok · rest) (if_pos rfl))
  | divulLEaDrDq | divslLEaDrDq =>
    obtain ⟨hne, hea⟩ := Bool.and_eq_true_iff.1 h
    exact (decode_divLong rest hea).trans (congrArg (Parse.ok · rest) (if_neg (bne_iff_ne.1 hne)))
  | movecRcRn | movecRnRc => exact decode_movec rest
  | bftst | bfchg | bfclr | bfset => exact decode_bf rest h
  | bfextu | bfexts | bfffo | bfins => exact decode_bfReg rest h
  | cinvl | cinvp | cpushl | cpushp => exact decode_cache rest
  | cinva | cpusha => exact decode_cacheAll rest
  | move16AxPlusAyPlus ax ay => exact decode_move16Pair ax ay rest
  | fmoveEaFpmFpn | fsmove | fdmove | fsqrt | fssqrt | fdsqrt | fabs | fsabs | fdabs | fneg | fsneg | fdneg | fdiv | fsdiv
  | fddiv | fadd | fsadd | fdadd | fmul | fsmul | fdmul | fsub | fssub | fdsub | fcmp | ftst | fintUnimplemented
  | fsinhUnimplemented | fintrzUnimplemented | flognp1Unimplemented | fetoxm1Unimplemented | ftanhUnimplemented
  | fatanUnimplemented | fasinUnimplemented | fatanhUnimplemented | fsinUnimplemented | ftanUnimplemented
  | fetoxUnimplemented | ftwotoxUnimplemented | ftentoxUnimplemented | flognUnimplemented | flog10Unimplemented
  | flog2Unimplemented | fcoshUnimplemented | facosUnimplemented | fcosUnimplemented | fgetexpUnimplemented
  | fgetmanUnimplemented | fmodUnimplemented | fsgldivUnimplemented | fremUnimplemented | fscaleUnimplemented
  | fsglmulUnimplemented => exact decode_fpArith h rest
  | fsincosUnimplemented _ _ dc => exact decode_fpSincos h dc rest
  | fmovecrUnimplemented dst off => exact decode_fmovecr dst off rest
  | fmoveLFpmEa | fmoveSFpmEa | fmoveXFpmEa | fmovePKFpmEa | fmoveWFpmEa | fmoveDFpmEa | fmoveBFpmEa =>
    exact decode_fpStore h rest
  | fmovePDnFpmEa _ dn => exact decode_fpStorePacked h dn rest
  | fmoveLEaFpcr => exact decode_fpLoadCtrl (regs := 4) h rest
  | fmoveLEaFpsr => exact decode_fpLoadCtrl (regs := 2) h rest
  | fmoveLEaFpiar => exact decode_fpLoadCtrl (regs := 1) h rest
  | fmovemLEaCtrlList => exact decode_fpLoadList h rest
  | fmoveLFpcrEa => exact decode_fpStoreCtrl (regs := 4) h rest
  | fmoveLFpsrEa => exact decode_fpStoreCtrl (regs := 2) h rest
  | fmoveLFpiarEa => exact decode_fpStoreCtrl (regs := 1) h rest
  | fmovemLCtrlListEa => exact decode_fpStoreList h rest
  | fmovemXEaList => exact decode_fmovemLoad h rest
  | fmovemXListEa => exact decode_fmovemStore h rest
  | fscc => exact decode_fscc h rest
  | fdbcc pred dn d => exact decode_fdbcc pred dn d rest
  | ftrapccW pred imm => exact decode_ftrapccW pred imm rest
  | ftrapccL pred imm => exact decode_ftrapccL pred imm rest
  | ftrapcc pred => exact decode_ftrapcc pred rest
  | fnop => exact decode_fbccW 0#5 0#16 rest
  | fbccW pred d => exact (decode_fbccW pred d rest).trans (congrArg (Parse.ok · rest) (if_neg (not_fnop h)))
  | fbccL pred d => exact decode_fbccL pred d rest

/-- Settles O1, by the shape of the instruction's words (`decode_encode`). -/
theorem decodeInvertsEncode : Obligations.DecodeInvertsEncode := fun _ rest h => decode_encode h rest

/-- Settles O2: the words of the instructions are those that the encoder writes for them; line A has no row, and no row matches
$4AFA. -/
theorem wordsOfTheSpecDecode : Obligations.WordsOfTheSpecDecode :=
  ⟨decodeInvertsEncode (.addLEaDn 0 (.dn 1)) [] rfl, decodeInvertsEncode (.moveL (.imm 0x12345678) (.pre 7)) [] rfl,
    decodeInvertsEncode .rts [] rfl, decodeInvertsEncode (.movemLListEa 0xC0C0 (.pre 7)) [] rfl,
    decodeInvertsEncode (.bfextu 0 ⟨false, 2, false, 8⟩ (.dn 1)) [] rfl, decodeInvertsEncode (.fadd (.fp 1) 0) [] rfl,
    decodeInvertsEncode (.movecRnRc 0 0x801) [] rfl, decodeInvertsEncode (.move16AxPlusAyPlus 0 1) [] rfl, rfl, by decide⟩

end Sys2Proof
end

section
/-! PROOFS. Which parser can refuse which words, and how: the F-line exception comes from the first words of line F alone, and an
extension word is refused exactly for a reserved index combination (30_encoding R465, R475, R477, R478). -/

namespace Sys2Proof

/-! ### What a parser can refuse -/

/-- A parser refuses its words, if it does, as `P` says. -/
def Parse.StopsOnly {α : Type} (P : Reject → Prop) : Parse α → Prop
  | .stop r => P r
  | _ => True

section

variable {α β : Type} {P : Reject → Prop}

theorem Parse.StopsOnly.of_stop {p : Parse α} {r : Reject} (h : p.StopsOnly P) (hp : p = .stop r) : P r := by
  rw [hp] at h
  exact h

@[simp] theorem Parse.stopsOnly_ok (a : α) (ws : List Word) : (Parse.ok a ws).StopsOnly P := trivial

@[simp] theorem Parse.stopsOnly_more : (Parse.more : Parse α).StopsOnly P := trivial

@[simp] theorem Parse.stopsOnly_stop (r : Reject) : (Parse.stop r : Parse α).StopsOnly P ↔ P r := Iff.rfl

theorem Parse.stopsOnly_bind {p : Parse α} {k : α → List Word → Parse β} (hp : p.StopsOnly P)
    (hk : ∀ a ws, (k a ws).StopsOnly P) : (p.bind k).StopsOnly P := by
  cases p with
  | ok a ws => exact hk a ws
  | more => trivial
  | stop r => exact hp

@[simp] theorem Parse.stopsOnly_map (p : Parse α) (f : α → β) : (p.map f).StopsOnly P ↔ p.StopsOnly P := by
  cases p <;> rfl

/-! ### Words, displacements, index extensions and effective addresses -/

/-- Words are never refused by themselves. -/
@[simp] theorem takeWord_stopsOnly (ws : List Word) : (takeWord ws).StopsOnly P := by cases ws <;> trivial

/-- What follows a word is all that can be refused. -/
theorem takeWord_bind_stopsOnly {k : Word → List Word → Parse β} (hk : ∀ w ws, (k w ws).StopsOnly P) (ws : List Word) :
    ((takeWord ws).bind k).StopsOnly P :=
  Parse.stopsOnly_bind (takeWord_stopsOnly ws) hk

@[simp] theorem takeLong_stopsOnly (ws : List Word) : (takeLong ws).StopsOnly P :=
  takeWord_bind_stopsOnly (fun _ ws => takeWord_bind_stopsOnly (fun _ ws => Parse.stopsOnly_ok _ ws) ws) ws

theorem takeImm_stopsOnly (n : Nat) : ∀ (acc : BitVec 96) (ws : List Word), (takeImm acc n ws).StopsOnly P := by
  induction n with
  | zero => exact fun _ _ => trivial
  | succ n ih => exact fun _ ws => takeWord_bind_stopsOnly (fun _ _ => ih _ _) ws

/-- A displacement is refused only for the reserved size code. -/
theorem takeDisp_stopsOnly_of_ne {c : BitVec 2} (hc : c ≠ 0#2) (ws : List Word) : (takeDisp c ws).StopsOnly P := by
  have hcode : c = 1#2 ∨ c = 2#2 ∨ c = 3#2 := by
    revert c
    decide
  rcases hcode with rfl | rfl | rfl <;> simp [takeDisp]

/-- An outer part is refused only for the reserved code of I/IS. -/
theorem takeInd_stopsOnly_of_ne {iis : BitVec 3} (h : iis ≠ 4#3) (ws : List Word) : (takeInd iis ws).StopsOnly P := by
  unfold takeInd
  split
  next => trivial
  next hne =>
    have hsize : iis.extractLsb' 0 2 ≠ 0#2 := by
      revert iis
      decide
    exact (Parse.stopsOnly_map _ _).2 (takeDisp_stopsOnly_of_ne hsize ws)

/-- An index extension is refused only for a reserved combination in its first word. -/
theorem takeIdx_stopsOnly_of_allowed {x : Word} (h : x.getLsbD 8 = true → reservedIdx x = false) (ws : List Word) :
    (takeIdx (x :: ws)).StopsOnly P := by
  cases hx : x.getLsbD 8 with
  | false =>
    rw [takeIdx_brief hx]
    trivial
  | true =>
    have hallowed := h hx
    rw [takeIdx_full hx hallowed]
    simp only [reservedIdx, Bool.or_eq_false_iff, beq_eq_false_iff_ne] at hallowed
    obtain ⟨⟨⟨-, hbd⟩, hind⟩, -⟩ := hallowed
    exact Parse.stopsOnly_bind (takeDisp_stopsOnly_of_ne hbd ws) fun _ ws =>
      (Parse.stopsOnly_map _ _).2 (takeInd_stopsOnly_of_ne hind ws)

/-- An index extension is refused as illegal exactly where its first word has a reserved combination (R465). -/
theorem takeIdx_eq_stop_iff (x : Word) (ws : List Word) (r : Reject) :
    takeIdx (x :: ws) = .stop r ↔ r = .illegal ∧ x.getLsbD 8 = true ∧ reservedIdx x = true := by
  by_cases hx : x.getLsbD 8 = true ∧ reservedIdx x = true
  · rw [takeIdx_reserved hx.1 hx.2, Parse.stop.injEq]
    exact ⟨fun h => ⟨h.symm, hx⟩, fun h => h.1.symm⟩
  · have hallowed : x.getLsbD 8 = true → reservedIdx x = false := fun h8 => by
      simpa using fun hr => hx ⟨h8, hr⟩
    exact ⟨fun h => ((takeIdx_stopsOnly_of_allowed (P := fun _ => False) hallowed ws).of_stop h).elim, fun h => (hx h.2).elim⟩

theorem takeIdx_stopsOnly (hP : P .illegal) (ws : List Word) : (takeIdx ws).StopsOnly P := by
  cases ws with
  | nil => trivial
  | cons x ws =>
    cases h : takeIdx (x :: ws) with
    | stop r =>
      obtain ⟨hr, -⟩ := (takeIdx_eq_stop_iff x ws r).1 h
      exact hr ▸ hP
    | _ => trivial

/-- An effective address is refused as illegal only. -/
theorem takeEa_stopsOnly (hP : P .illegal) (n : Nat) (mode reg : BitVec 3) (ws : List Word) :
    (takeEa n mode reg ws).StopsOnly P := by
  unfold takeEa
  split
  all_goals try split
  all_goals simp [takeIdx_stopsOnly hP, takeImm_stopsOnly, hP]

@[simp] theorem eaOf_stopsOnly (hP : P .illegal) (n : Nat) (w : Word) (ws : List Word) : (eaOf n w ws).StopsOnly P :=
  takeEa_stopsOnly hP n _ _ ws

/-- Every mode of a set is a mode: mode 7 has registers 0 to 4. -/
theorem EaSet.reg_lt_of_has {s : EaSet} {reg : BitVec 3} (h : s.has 7#3 reg = true) : reg.toNat < 5 := by
  have hbit : s.getLsbD (7 + reg.toNat) = true := h
  have := BitVec.lt_of_getLsbD hbit
  omega

/-- With no word after it, no effective-address field of a mode is refused. -/
theorem takeEa_nil_stopsOnly {s : EaSet} {mode reg : BitVec 3} (h : s.has mode reg = true) (n : Nat) :
    (takeEa n mode reg []).StopsOnly P := by
  rcases Machine.reg_cases mode with rfl | rfl | rfl | rfl | rfl | rfl | rfl | rfl
  case inr.inr.inr.inr.inr.inr.inr =>
    have hreg := EaSet.reg_lt_of_has h
    rcases Machine.reg_cases reg with rfl | rfl | rfl | rfl | rfl | rfl | rfl | rfl
    case inr.inr.inr.inr.inl => exact (Parse.stopsOnly_map _ _).2 (takeImm_stopsOnly n _ _)
    all_goals trivial
  all_goals trivial

theorem eaOf_nil_stopsOnly {s : EaSet} {w : Word} (h : s.has (w.extractLsb' 3 3) (ry w) = true) (n : Nat) :
    (eaOf n w []).StopsOnly P :=
  takeEa_nil_stopsOnly h n

end

end Sys2Proof
end

section
/-! PROOFS. The exception that the words of each line take, where they are no instruction: 10 in line A alone, 11 in line F alone
and for its first words always, 4 everywhere else (30_encoding R475, R477, R478, log 19). -/

namespace Sys2Proof

section

variable {P : Reject → Prop}

/-! ### The shapes of instruction -/

@[simp] theorem oneEa_stopsOnly (hP : P .illegal) (k : Ea → Instr) (n : Nat) (w : Word) (ws : List Word) :
    (oneEa k n w ws).StopsOnly P :=
  (Parse.stopsOnly_map _ _).2 (eaOf_stopsOnly hP n w ws)

@[simp] theorem regEa_stopsOnly (hP : P .illegal) (k : BitVec 3 → Ea → Instr) (n : Nat) (w : Word) (ws : List Word) :
    (regEa k n w ws).StopsOnly P :=
  (Parse.stopsOnly_map _ _).2 (eaOf_stopsOnly hP n w ws)

@[simp] theorem imm16_stopsOnly (k : Word → Instr) (ws : List Word) : (imm16 k ws).StopsOnly P :=
  (Parse.stopsOnly_map _ _).2 (takeWord_stopsOnly ws)

@[simp] theorem imm32_stopsOnly (k : Long → Instr) (ws : List Word) : (imm32 k ws).StopsOnly P :=
  (Parse.stopsOnly_map _ _).2 (takeLong_stopsOnly ws)

/-- A word, then an effective address: the shape of the immediate, multiply, divide, bit-field, MOVES, CAS and CMP2 words. -/
theorem takeWord_ea_stopsOnly (hP : P .illegal) (k : Word → Ea → Instr) (n : Nat) (w : Word) (ws : List Word) :
    ((takeWord ws).bind fun x ws => (eaOf n w ws).map (k x)).StopsOnly P :=
  takeWord_bind_stopsOnly (fun _ ws => (Parse.stopsOnly_map _ _).2 (eaOf_stopsOnly hP n w ws)) ws

@[simp] theorem imm8Ea_stopsOnly (hP : P .illegal) (k : Byte → Ea → Instr) (n : Nat) (w : Word) (ws : List Word) :
    (imm8Ea k n w ws).StopsOnly P :=
  takeWord_ea_stopsOnly hP (fun i => k (i.extractLsb' 0 8)) n w ws

@[simp] theorem imm16Ea_stopsOnly (hP : P .illegal) (k : Word → Ea → Instr) (n : Nat) (w : Word) (ws : List Word) :
    (imm16Ea k n w ws).StopsOnly P :=
  takeWord_ea_stopsOnly hP k n w ws

@[simp] theorem imm32Ea_stopsOnly (hP : P .illegal) (k : Long → Ea → Instr) (n : Nat) (w : Word) (ws : List Word) :
    (imm32Ea k n w ws).StopsOnly P :=
  Parse.stopsOnly_bind (takeLong_stopsOnly ws) fun _ ws => (Parse.stopsOnly_map _ _).2 (eaOf_stopsOnly hP n w ws)

@[simp] theorem moveEas_stopsOnly (hP : P .illegal) (k : Ea → Ea → Instr) (n : Nat) (w : Word) (ws : List Word) :
    (moveEas k n w ws).StopsOnly P := by
  unfold moveEas
  split
  next =>
    exact Parse.stopsOnly_bind (eaOf_stopsOnly hP n w ws) fun _ ws =>
      (Parse.stopsOnly_map _ _).2 (takeEa_stopsOnly hP n _ _ ws)
  next => exact hP

@[simp] theorem cmp2Chk2_stopsOnly (hP : P .illegal) (cmp chk : BitVec 4 → Ea → Instr) (w : Word) (ws : List Word) :
    (cmp2Chk2 cmp chk w ws).StopsOnly P :=
  takeWord_ea_stopsOnly hP (fun x => (if x.getLsbD 11 then chk else cmp) (x.extractLsb' 12 4)) 1 w ws

@[simp] theorem movesWord_stopsOnly (hP : P .illegal) (k : BitVec 4 → Bool → Ea → Instr) (w : Word) (ws : List Word) :
    (movesWord k w ws).StopsOnly P :=
  takeWord_ea_stopsOnly hP (fun x => k (x.extractLsb' 12 4) (x.getLsbD 11)) 1 w ws

@[simp] theorem casWord_stopsOnly (hP : P .illegal) (k : BitVec 3 → BitVec 3 → Ea → Instr) (w : Word) (ws : List Word) :
    (casWord k w ws).StopsOnly P :=
  takeWord_ea_stopsOnly hP (fun x => k (x.extractLsb' 6 3) (x.extractLsb' 0 3)) 1 w ws

@[simp] theorem cas2Words_stopsOnly (k : BitVec 4 → BitVec 3 → BitVec 3 → BitVec 4 → BitVec 3 → BitVec 3 → Instr)
    (ws : List Word) : (cas2Words k ws).StopsOnly P :=
  takeWord_bind_stopsOnly (fun _ ws => takeWord_bind_stopsOnly (fun _ _ => Parse.stopsOnly_ok _ _) ws) ws

@[simp] theorem mulLong_stopsOnly (hP : P .illegal) (w : Word) (ws : List Word) : (mulLong w ws).StopsOnly P :=
  takeWord_bind_stopsOnly (fun _ ws => (Parse.stopsOnly_map _ _).2 (eaOf_stopsOnly hP 2 w ws)) ws

@[simp] theorem divLong_stopsOnly (hP : P .illegal) (w : Word) (ws : List Word) : (divLong w ws).StopsOnly P :=
  takeWord_bind_stopsOnly (fun _ ws => (Parse.stopsOnly_map _ _).2 (eaOf_stopsOnly hP 2 w ws)) ws

@[simp] theorem movecWord_stopsOnly (k : BitVec 4 → BitVec 12 → Instr) (ws : List Word) : (movecWord k ws).StopsOnly P :=
  takeWord_bind_stopsOnly (fun _ _ => Parse.stopsOnly_ok _ _) ws

@[simp] theorem brDisp_stopsOnly (k : BrDisp → Instr) (w : Word) (ws : List Word) : (brDisp k w ws).StopsOnly P := by
  unfold brDisp
  dsimp only
  split
  next => simp
  next => split <;> simp

@[simp] theorem bfWord_stopsOnly (hP : P .illegal) (k : BfSpec → Ea → Instr) (w : Word) (ws : List Word) :
    (bfWord k w ws).StopsOnly P :=
  takeWord_ea_stopsOnly hP (fun x => k (bfOf x)) 1 w ws

@[simp] theorem bfRegWord_stopsOnly (hP : P .illegal) (k : BitVec 3 → BfSpec → Ea → Instr) (w : Word) (ws : List Word) :
    (bfRegWord k w ws).StopsOnly P :=
  takeWord_ea_stopsOnly hP (fun x => k (x.extractLsb' 12 3) (bfOf x)) 1 w ws

@[simp] theorem move16Pair_stopsOnly (k : BitVec 3 → BitVec 3 → Instr) (w : Word) (ws : List Word) :
    (move16Pair k w ws).StopsOnly P :=
  takeWord_bind_stopsOnly (fun _ _ => Parse.stopsOnly_ok _ _) ws

/-! ### The shapes of floating-point instruction -/

theorem withPred_stopsOnly (hP : P .fline) (p : BitVec 6) {k : BitVec 5 → Parse Instr} (hk : ∀ p, (k p).StopsOnly P) :
    (withPred p k).StopsOnly P := by
  unfold withPred
  split
  next => exact hP
  next => exact hk _

theorem predWord_stopsOnly (hP : P .fline) {k : BitVec 5 → List Word → Parse Instr} (hk : ∀ p ws, (k p ws).StopsOnly P)
    (ws : List Word) : (predWord ws k).StopsOnly P :=
  takeWord_bind_stopsOnly (fun _ ws => withPred_stopsOnly hP _ fun p => hk p ws) ws

@[simp] theorem fbccW_stopsOnly (hP : P .fline) (w : Word) (ws : List Word) : (fbccW w ws).StopsOnly P :=
  withPred_stopsOnly hP _ fun _ => by simp

@[simp] theorem fbccL_stopsOnly (hP : P .fline) (w : Word) (ws : List Word) : (fbccL w ws).StopsOnly P :=
  withPred_stopsOnly hP _ fun _ => by simp

/-- The command word of the general type is refused with the F-line exception; what is left is its effective address. -/
theorem fpGeneral_cons_stopsOnly (hP : P .fline) {w : Word} {ws : List Word}
    (hea : ∀ s n k, (fpEa s n w ws k).StopsOnly P) (c : Word) : (fpGeneral w (c :: ws)).StopsOnly P := by
  rcases Machine.reg_cases (c.extractLsb' 13 3) with ho | ho | ho | ho | ho | ho | ho | ho
  · cases hK : fpOp (c.extractLsb' 0 7) with
    | some K => rw [fpGeneral_register w ws ho hK]; trivial
    | none => rw [fpGeneral, takeWord_cons, Parse.bind_ok, ho]; simp [hK, hP]
  · rw [fpGeneral_reserved w ws ho]; exact hP
  · by_cases hm : c.extractLsb' 10 3 = 7#3
    · rw [fpGeneral_constant w ws ho hm]; trivial
    · cases hK : fpOp (c.extractLsb' 0 7) with
      | some K => rw [fpGeneral_operand w ws ho hm hK]; exact hea _ _ _
      | none => rw [fpGeneral, takeWord_cons, Parse.bind_ok, ho]; simp [hm, hK, hP]
  · rw [fpGeneral_store w ws ho, fpStore_eq rfl rfl rfl]; exact hea _ _ _
  · rw [fpGeneral_loadCtrl w ws ho, fpCtrl_eq rfl]; exact hea _ _ _
  · rw [fpGeneral_storeCtrl w ws ho, fpCtrl_eq rfl]; exact hea _ _ _
  · rw [fpGeneral_loadList w ws ho]; exact hea _ _ _
  · rw [fpGeneral_storeList w ws ho]; exact hea _ _ _

theorem fpEa_stopsOnly (hill : P .illegal) (hP : P .fline) (s : EaSet) (n : Nat) (w : Word) (ws : List Word) (k : Ea → Instr) :
    (fpEa s n w ws k).StopsOnly P := by
  unfold fpEa
  split
  next => exact (Parse.stopsOnly_map _ _).2 (eaOf_stopsOnly hill n w ws)
  next => exact hP

/-- With the command word alone, a mode that the instruction does not allow is refused with the F-line exception (log 19). -/
theorem fpEa_nil_stopsOnly (hP : P .fline) (s : EaSet) (n : Nat) (w : Word) (k : Ea → Instr) :
    (fpEa s n w [] k).StopsOnly P := by
  unfold fpEa
  split
  next h => exact (Parse.stopsOnly_map _ _).2 (eaOf_nil_stopsOnly h n)
  next => exact hP

@[simp] theorem fpGeneral_stopsOnly (hill : P .illegal) (hP : P .fline) (w : Word) (ws : List Word) :
    (fpGeneral w ws).StopsOnly P := by
  cases ws with
  | nil => trivial
  | cons c ws => exact fpGeneral_cons_stopsOnly hP (fun s n k => fpEa_stopsOnly hill hP s n w ws k) c

end

/-! ### The rows of the opcode table -/

theorem rowsF_stopsOnly {P : Reject → Prop} (hill : P .illegal) (hP : P .fline) :
    ∀ r ∈ rowsF, ∀ w ws, (r.parse w ws).StopsOnly P := by
  simp [rowsF, hill, hP, predWord_stopsOnly hP]

/-- Outside line F a row refuses words as illegal only. -/
theorem rowsOf_stopsOnly {w : Word} (hw : w.extractLsb' 12 4 ≠ 0xF) :
    ∀ r ∈ rowsOf w, ∀ ws, (r.parse w ws).StopsOnly (· = .illegal) := by
  unfold rowsOf
  split
  case h_15 h => exact absurd (BitVec.eq_of_toNat_eq h) hw
  case h_1 => simp [rows0]
  case h_2 => simp [rows1]
  case h_3 => simp [rows2]
  case h_4 => simp [rows3]
  case h_5 => simp [rows4]
  case h_6 => simp [rows5]
  case h_7 => simp [rows6]
  case h_8 => simp [rows7]
  case h_9 => simp [rows8]
  case h_10 => simp [rows9]
  case h_11 => simp [rowsB]
  case h_12 => simp [rowsC]
  case h_13 => simp [rowsD]
  case h_14 => simp [rowsE]
  case h_16 => simp

/-! ### Decoding words that are no instruction -/

/-- Words are refused by the row that selects the first one, or because no row does. -/
theorem decode_eq_stop {w : Word} {ws : List Word} {r : Reject} (h : decode (w :: ws) = .stop r) :
    (∃ row ∈ rowsOf w, row.selects w = true ∧ row.parse w ws = .stop r) ∨ r = rejectOf w := by
  rw [decode] at h
  split at h
  next row hrow => exact .inl ⟨row, List.mem_of_find?_eq_some hrow, List.find?_some (p := (Row.selects · w)) hrow, h⟩
  next => exact .inr (Parse.stop.inj h).symm

theorem rowsOf_lineA {w : Word} (hw : w.extractLsb' 12 4 = 0xA) : rowsOf w = [] := by
  rw [rowsOf, hw]
  rfl

theorem rowsOf_lineF {w : Word} (hw : w.extractLsb' 12 4 = 0xF) : rowsOf w = rowsF := by
  rw [rowsOf, hw]
  rfl

theorem rejectOf_lineA {w : Word} (hw : w.extractLsb' 12 4 = 0xA) : rejectOf w = .aline := if_pos hw

theorem rejectOf_lineF {w : Word} (hw : w.extractLsb' 12 4 = 0xF) : rejectOf w = .fline := by
  rw [rejectOf, hw]
  rfl

theorem rejectOf_other {w : Word} (ha : w.extractLsb' 12 4 ≠ 0xA) (hf : w.extractLsb' 12 4 ≠ 0xF) : rejectOf w = .illegal := by
  rw [rejectOf, if_neg ha, if_neg hf]

/-- No word of line A is an instruction, whatever follows it. -/
theorem decode_lineA {w : Word} (hw : w.extractLsb' 12 4 = 0xA) (ws : List Word) : decode (w :: ws) = .stop .aline := by
  rw [decode, rowsOf_lineA hw, List.find?_nil, rejectOf_lineA hw]

/-- What refuses words of line F is never an A-line opcode. -/
theorem decode_lineF_ne_aline {w : Word} {ws : List Word} {r : Reject} (hw : w.extractLsb' 12 4 = 0xF)
    (h : decode (w :: ws) = .stop r) : r ≠ .aline := by
  rcases decode_eq_stop h with ⟨row, hrow, -, hstop⟩ | rfl
  · exact (rowsF_stopsOnly (P := (· ≠ .aline)) Reject.noConfusion Reject.noConfusion row (rowsOf_lineF hw ▸ hrow) w ws).of_stop
      hstop
  · rw [rejectOf_lineF hw]
    exact Reject.noConfusion

/-- Outside lines A and F words are illegal. -/
theorem decode_other_illegal {w : Word} {ws : List Word} {r : Reject} (ha : w.extractLsb' 12 4 ≠ 0xA)
    (hf : w.extractLsb' 12 4 ≠ 0xF) (h : decode (w :: ws) = .stop r) : r = .illegal := by
  rcases decode_eq_stop h with ⟨row, hrow, -, hstop⟩ | rfl
  · exact (rowsOf_stopsOnly hf row hrow ws).of_stop hstop
  · exact rejectOf_other ha hf

theorem predWord_nil (k : BitVec 5 → List Word → Parse Instr) : predWord [] k = .more := rfl

theorem fpGeneral_nil (w : Word) : fpGeneral w [] = .more := rfl

/-- A row of line F does not refuse the word that selects it by itself but with the F-line exception: only FSAVE and FRESTORE
look at its effective-address field, which the row has checked. -/
theorem rowsF_nil_stopsOnly {w : Word} : ∀ r ∈ rowsF, r.selects w = true → (r.parse w []).StopsOnly (· = .fline) := by
  have hone (s : EaSet) (k : Ea → Instr) (hs : s.has (w.extractLsb' 3 3) (ry w) = true) :
      (oneEa k 1 w []).StopsOnly (· = .fline) := (Parse.stopsOnly_map _ _).2 (eaOf_nil_stopsOnly hs 1)
  simp +contextual [rowsF, selects_iff, hone EaSet.fsaveModes, hone EaSet.frestoreModes, predWord_nil, fpGeneral_nil]

/-- The first word of line F is refused, if it is by itself, with the F-line exception. -/
theorem decode_lineF_alone {w : Word} {r : Reject} (hw : w.extractLsb' 12 4 = 0xF) (h : decode [w] = .stop r) : r = .fline := by
  rcases decode_eq_stop h with ⟨row, hrow, hsel, hstop⟩ | rfl
  · exact (rowsF_nil_stopsOnly row (rowsOf_lineF hw ▸ hrow) hsel).of_stop hstop
  · exact rejectOf_lineF hw

/-- A general floating-point word with its command word alone is refused, if it is, with the F-line exception. -/
theorem decode_fpCommand {w c : Word} {r : Reject} (hw : w &&& 0xFFC0 = 0xF200) (h : decode [w, c] = .stop r) : r = .fline := by
  rw [decode_bareRow (parse := fun w ws => fpGeneral w ws) rfl hw] at h
  have hstops : (fpGeneral w [c]).StopsOnly (· = .fline) :=
    fpGeneral_cons_stopsOnly (P := (· = .fline)) rfl (fun s n k => fpEa_nil_stopsOnly (P := (· = .fline)) rfl s n w k) c
  exact hstops.of_stop h

/-- Only line A takes vector 10 and only line F vector 11. -/
theorem decode_stop_line {w : Word} {ws : List Word} {r : Reject} (h : decode (w :: ws) = .stop r) :
    (r = .aline ↔ w.extractLsb' 12 4 = 0xA) ∧ (r = .fline → w.extractLsb' 12 4 = 0xF) := by
  by_cases ha : w.extractLsb' 12 4 = 0xA
  · have hr : Reject.aline = r := Parse.stop.inj ((decode_lineA ha ws).symm.trans h)
    exact ⟨iff_of_true hr.symm ha, fun hf => Reject.noConfusion (hr.trans hf)⟩
  · by_cases hf : w.extractLsb' 12 4 = 0xF
    · exact ⟨iff_of_false (decode_lineF_ne_aline hf h) ha, fun _ => hf⟩
    · have hr := decode_other_illegal ha hf h
      exact ⟨iff_of_false (fun h => Reject.noConfusion (hr.symm.trans h)) ha, fun h => Reject.noConfusion (hr.symm.trans h)⟩

/-- The reserved combinations of a full extension word, bit by bit. -/
theorem reservedIdx_iff (x : Word) : reservedIdx x = true ↔
    x.getLsbD 3 = true ∨ x.extractLsb' 4 2 = 0 ∨ x.extractLsb' 0 3 = 4 ∨ (x.getLsbD 6 = true ∧ x.getLsbD 2 = true) := by
  simp [reservedIdx, or_assoc]

end Sys2Proof
end

section
/-! PROOFS. A step over words that are no instruction: they are fetched one by one, each from the pipeline or else from memory,
until they are refused, and the refusal is taken as an exception (30_encoding R477, R478, 60_exceptions R1116). -/

namespace Sys2Proof.Machine

variable {s : State}

/-! ### Taking words from the pipeline -/

theorem piped_unpipe_of_ne (m : MemSys) {la a : Long} (h : a ≠ la) : (m.unpipe la).piped a = m.piped a := by
  rw [MemSys.piped, MemSys.unpipe, List.find?_filter, MemSys.piped]
  congr 2
  funext x
  by_cases hx : x.la = a <;> simp [hx, h]

theorem after_ne {j k : Nat} (hjk : j < k) (hk : k ≤ maxWords) : s.after k ≠ s.after j := fun h => by
  have hsum : BitVec.ofNat 32 (2 * k) = BitVec.ofNat 32 (2 * j) := (BitVec.add_right_inj s.pc).1 h
  have hnat := congrArg BitVec.toNat hsum
  simp only [BitVec.toNat_ofNat, maxWords] at hnat hk
  omega

theorem taken_succ (n : Nat) : s.taken (n + 1) = { s with mem := (s.taken n).mem.unpipe (s.after n) } := by
  rw [State.taken, List.range_succ, List.foldl_append]
  rfl

/-- The words that come later are the same when the first ones are taken from the pipeline. -/
theorem wordAt_taken {n k : Nat} (hn : n ≤ k) (hk : k ≤ maxWords) : (s.taken n).wordAt (s.after k) = s.wordAt (s.after k) := by
  induction n with
  | zero => rfl
  | succ n ih =>
    rw [← ih (by omega), taken_succ, State.wordAt, State.wordAt, piped_unpipe_of_ne _ (after_ne hn hk)]
    rfl

/-- An exception is taken in the same way when words were taken from the pipeline: it refills it. -/
theorem takes_taken_iff (n : Nat) {vector : BitVec 8} {format : BitVec 4} {spc : Long} {extra : List Byte} {t : State} :
    Takes (s.taken n) vector format spc extra t ↔ Takes s vector format spc extra t := by
  rw [taken_eq]
  rfl

theorem Flat.taken (h : Flat s) (n : Nat) : Flat (s.taken n) := by
  rw [taken_eq]
  exact h.of_eq rfl rfl rfl rfl

/-! ### The fetch of words that are refused -/

/-- The words at the pc are no instruction: they are refused with `r`, and no shorter run of them is. -/
structure RefusedWords (s : State) (ws : List Word) (r : Reject) : Prop where
  fresh : s.mem.stale = []
  nonempty : 0 < ws.length
  short : ws.length ≤ maxWords
  word : ∀ k (h : k < ws.length), s.wordAt (s.after k) = some ws[k]
  more : ∀ k, 0 < k → k < ws.length → decode (ws.take k) = .more
  stop : decode ws = .stop r

section fetch

variable {ws : List Word} {r : Reject}

/-- The next word is fetched as if none had been taken from the pipeline. -/
theorem RefusedWords.fetchWord_taken (hw : RefusedWords s ws r) (h : Ready s) {k : Nat} (hk : k < ws.length) :
    fetchWord s.ctl (s.taken k).mem s.super (s.after k) = .ok ws[k] (s.taken (k + 1)).mem := by
  have hmax : k ≤ maxWords := Nat.le_trans (Nat.le_of_lt hk) hw.short
  have hbus : (s.taken k).mem.quiet = true := (h.flat.taken k).bus
  have hstale : (s.taken k).mem.stale = [] := by rw [taken_eq]; exact hw.fresh
  rw [taken_succ]
  exact h.flat.fetchWord hbus hstale s.super (h.after_even k) ((wordAt_taken (le_refl k) hmax).trans (hw.word k hk))

theorem RefusedWords.fetchMore (hw : RefusedWords s ws r) (h : Ready s) (fuel : Nat) :
    ∀ k, 0 < k → k ≤ ws.length → ws.length < k + fuel →
      fetchMore fuel (s.taken k) (ws.take k) = .reject r (s.taken ws.length) := by
  induction fuel with
  | zero => intros; omega
  | succ fuel ih =>
    intro k hpos hk hfuel
    rw [Machine.fetchMore]
    rcases Nat.eq_or_lt_of_le hk with rfl | hlt
    · rw [List.take_length, hw.stop]
    · have hfetch : fetchWord (s.taken k).ctl (s.taken k).mem (s.taken k).super ((s.taken k).after k) =
          .ok ws[k] (s.taken (k + 1)).mem := hw.fetchWord_taken h hlt
      have hnext : ({ s.taken k with mem := (s.taken (k + 1)).mem } : State) = s.taken (k + 1) := rfl
      have hrest := ih (k + 1) (Nat.succ_pos k) hlt (by omega)
      rw [← List.take_append_getElem hlt] at hrest
      rw [hw.more k hpos hlt, List.length_take_of_le hk]
      simp only [hfetch, hnext, hrest]

/-- In the supervisor state, or where the first word is not privileged, words that are refused are fetched and no more. -/
theorem RefusedWords.fetchInstr (hw : RefusedWords s ws r) (h : Ready s)
    (hpriv : s.super = true ∨ ∀ w, ws.head? = some w → privilegedWord w = false) :
    fetchInstr s = .reject r (s.taken ws.length) := by
  have hpos := hw.nonempty
  have hfirst : fetchWord s.ctl s.mem s.super s.pc = .ok ws[0] (s.taken 1).mem := by
    have hpc : s.after 0 = s.pc := BitVec.add_zero s.pc
    rw [← hpc]
    exact hw.fetchWord_taken h hpos
  have hallowed : (!s.super && privilegedWord ws[0]) = false := by
    rcases hpriv with hsuper | hword
    · rw [hsuper]; rfl
    · rw [hword ws[0] (by rw [List.head?_eq_getElem?, List.getElem?_eq_getElem hpos]), Bool.and_false]
  have hmore := hw.fetchMore h (maxWords + 1) 1 Nat.one_pos hpos (by have := hw.short; omega)
  have hone : ws.take 1 = [ws[0]] := (List.take_append_getElem hpos).symm
  rw [hone] at hmore
  have hsuper : ({ s with mem := (s.taken 1).mem } : State).super = s.super := rfl
  rw [Machine.fetchInstr, hfirst]
  simp only [hsuper, hallowed, Bool.false_eq_true, if_false]
  exact hmore

end fetch

/-! ### The exception -/

/-- The vector of the exception that a refusal takes (60_exceptions R1116). -/
def rejectVector : Reject → BitVec 8
  | .illegal => 4
  | .aline => 10
  | .fline => 11

theorem rejected_eq (r : Reject) : rejected s r = takeException s (rejectVector r) 0 s.pc [] := by cases r <;> rfl

theorem advance_runInstruction (h : Ready s) (hr : s.run = .normal) (ht : s.trace = none) (hp : s.interruptPending = false) :
    advance s = runInstruction s := by
  have hpc : s.pc[0] = false := h.even
  simp [advance, hr, started_of_unserialized h.flat.serial, h.flat.push, ht, hp, hpc]

/-- Words that are refused take the exception of the refusal, from the state before them. -/
theorem step_refused (h : Ready s) (hi : s.inputs = []) (hr : s.run = .normal) (ht : s.trace = none)
    (hp : s.interruptPending = false) {r : Reject} {n : Nat} (hfetch : fetchInstr s = .reject r (s.taken n)) :
    ∃ t, step s = .next t ∧ Takes s (rejectVector r) 0 s.pc [] t := by
  obtain ⟨htakes, hstruck⟩ := takeException_takes (h.flat.taken n) frameFields_zero s.pc (rejectVector r)
  have hrun : runInstruction s = .next (takeException (s.taken n) (rejectVector r) 0 s.pc []) := by
    rw [runInstruction, hfetch, ← taken_pc (s := s) n, ← rejected_eq]
  exact ⟨_, step_of_advance hi ((advance_runInstruction h hr ht hp).trans hrun) hstruck, (takes_taken_iff n).1 htakes⟩

/-- Settles O12: the words are fetched until they are refused and take the exception of the refusal; which one it is follows from
the line of the first word, row by row of the opcode table. -/
theorem wordsThatAreNoInstructionTrap : Obligations.WordsThatAreNoInstructionTrap := by
  unfold Obligations.WordsThatAreNoInstructionTrap
  refine ⟨?_, ?_, fun w hw => decode_lineA hw [], ?_⟩
  · intro s ws r h hi hr ht hp hstale hne hlen hw hmore hstop hpriv
    have hrefused : RefusedWords s ws r := ⟨hstale, List.length_pos_iff.2 hne, hlen, hw, hmore, hstop⟩
    obtain ⟨t, hstep, htakes⟩ := step_refused h hi hr ht hp (hrefused.fetchInstr h hpriv)
    refine ⟨t, hstep, ?_⟩
    cases r <;> exact htakes
  · intro w ws r h
    obtain ⟨haline, hfline⟩ := decode_stop_line h
    refine ⟨haline, hfline, fun hw hws => decode_lineF_alone hw (hws ▸ h), fun hw hlen => ?_⟩
    obtain ⟨c, rfl⟩ := List.length_eq_one_iff.1 hlen
    exact decode_fpCommand hw h
  · intro x ws r
    simp only [takeIdx_eq_stop_iff, reservedIdx_iff]

end Sys2Proof.Machine
end

section
/-! PROOFS. The data movement instructions in the flat configuration: what they share. Registers of either bank by number, the
flags of a logical result, the effective addresses of the control modes, and the states in which instructions end
(30_encoding R453 to R464; 41_integer_arithmetic R601). -/

namespace Sys2Proof.Machine

variable {s t u : State}

/-! ### Registers -/

theorem AddrRegs.set_set_self (a : AddrRegs) (sr : Word) (n : BitVec 3) (v w : Long) :
    (a.set sr n v).set sr n w = a.set sr n w := by
  rcases reg_cases n with h | h | h | h | h | h | h | h <;> subst h <;> try rfl
  simp only [AddrRegs.set, show (7 : BitVec 3).toNat = 7 from rfl]
  split
  · rfl
  · split <;> rfl

/-- Writes of different address registers commute. -/
theorem AddrRegs.set_comm (a : AddrRegs) (sr : Word) {n m : BitVec 3} (h : n ≠ m) (v w : Long) :
    (a.set sr n v).set sr m w = (a.set sr m w).set sr n v := by
  have h7 : ∀ (k : BitVec 3) (x y : Long), k ≠ 7 → (a.set sr 7 x).set sr k y = (a.set sr k y).set sr 7 x := by
    intro k x y hk
    simp only [AddrRegs.set, show (7 : BitVec 3).toNat = 7 from rfl]
    rcases reg_cases k with hm | hm | hm | hm | hm | hm | hm | hm <;> subst hm <;>
      first | exact absurd rfl hk | (cases supervisor sr <;> cases master sr <;> rfl)
  by_cases hn : n = 7
  · subst hn
    exact h7 m v w h.symm
  by_cases hm : m = 7
  · subst hm
    exact (h7 n w v h).symm
  rcases reg_cases n with e | e | e | e | e | e | e | e <;> subst e <;>
    rcases reg_cases m with e | e | e | e | e | e | e | e <;> subst e <;>
      first | rfl | exact absurd rfl h | exact absurd rfl hn | exact absurd rfl hm

theorem AddrRegs.get_set (a : AddrRegs) (sr : Word) (n m : BitVec 3) (v : Long) :
    (a.set sr n v).get sr m = if m = n then v else a.get sr m := by
  split
  case isTrue h => rw [h, AddrRegs.get_set_self]
  case isFalse h => exact AddrRegs.get_set_of_ne a sr v h

theorem setA_setA_self (s : State) (n : BitVec 3) (v w : Long) : (s.setA n v).setA n w = s.setA n w :=
  congrArg s.withA (AddrRegs.set_set_self s.a s.sr n v w)

theorem setA_setA_comm (s : State) {n m : BitVec 3} (h : n ≠ m) (v w : Long) :
    (s.setA n v).setA m w = (s.setA m w).setA n v :=
  congrArg s.withA (AddrRegs.set_comm s.a s.sr h v w)

/-- A register number names a data register or an address register. -/
theorem regNumber_cases (q : BitVec 4) : (∃ r : BitVec 3, q = r.zeroExtend 4) ∨ ∃ r : BitVec 3, q = 8 + r.zeroExtend 4 := by
  revert q
  decide

theorem dataNumber_bits (r : BitVec 3) : (r.zeroExtend 4).getLsbD 3 = false ∧ (r.zeroExtend 4).extractLsb' 0 3 = r := by
  revert r
  decide

theorem addrNumber_bits (r : BitVec 3) :
    (8 + r.zeroExtend 4 : BitVec 4).getLsbD 3 = true ∧ (8 + r.zeroExtend 4 : BitVec 4).extractLsb' 0 3 = r := by
  revert r
  decide

theorem getR_data (s : State) (r : BitVec 3) : s.getR (r.zeroExtend 4) = s.getD r := by
  obtain ⟨hbit, hnum⟩ := dataNumber_bits r
  rw [State.getR, hbit, hnum, if_neg Bool.false_ne_true]

theorem getR_addr (s : State) (r : BitVec 3) : s.getR (8 + r.zeroExtend 4) = s.getA r := by
  obtain ⟨hbit, hnum⟩ := addrNumber_bits r
  rw [State.getR, hbit, hnum, if_pos rfl]

theorem setR_data (s : State) (r : BitVec 3) (v : Long) : s.setR (r.zeroExtend 4) v = s.setD r v := by
  obtain ⟨hbit, hnum⟩ := dataNumber_bits r
  rw [State.setR, hbit, hnum, if_neg Bool.false_ne_true]

theorem setR_addr (s : State) (r : BitVec 3) (v : Long) : s.setR (8 + r.zeroExtend 4) v = s.setA r v := by
  obtain ⟨hbit, hnum⟩ := addrNumber_bits r
  rw [State.setR, hbit, hnum, if_pos rfl]

@[simp] theorem setR_mem (s : State) (q : BitVec 4) (v : Long) : (s.setR q v).mem = s.mem := by
  unfold State.setR
  split <;> rfl

@[simp] theorem setR_ctl (s : State) (q : BitVec 4) (v : Long) : (s.setR q v).ctl = s.ctl := by
  unfold State.setR
  split <;> rfl

/-! ### The flags of a logical result (R601) -/

/-- A number is negative in two's complement of `n + 1` bits if bit `n` is set. -/
theorem bmod_neg_iff_testBit (m n : Nat) : (m : Int).bmod (2 ^ (n + 1)) < 0 ↔ m.testBit n = true := by
  have hpow : 0 < 2 ^ n := Nat.two_pow_pos n
  have hlow : m % 2 ^ n < 2 ^ n := Nat.mod_lt _ hpow
  have hmod : (m : Int) % ((2 ^ (n + 1) : Nat) : Int) = ((m % 2 ^ n + 2 ^ n * (m / 2 ^ n % 2) : Nat) : Int) := by
    rw [← Nat.mod_pow_succ, Int.natCast_mod]
  rw [Int.bmod_def, hmod, Nat.testBit_eq_decide_div_mod_eq, decide_eq_true_eq, Nat.pow_succ]
  rcases Nat.mod_two_eq_zero_or_one (m / 2 ^ n) with h | h <;> rw [h] <;> split <;> omega

theorem negAt_eq_msb (z : Size) (v : Long) : negAt z v = z.msb v := by
  have h : ∀ n, z.bits = n + 1 → negAt z v = z.msb v := fun n hn => by
    rw [negAt, signedAt, Size.msb, hn, Bool.eq_iff_iff, decide_eq_true_eq]
    exact bmod_neg_iff_testBit v.toNat n
  cases z
  · exact h 7 rfl
  · exact h 15 rfl
  · exact h 31 rfl

/-- The low bits of a value, as a number. -/
theorem trunc_toNat (z : Size) (v : Long) : (z.trunc v).toNat = unsignedAt z v := by
  cases z
  · simp [Size.trunc, unsignedAt, Size.bits]
    omega
  · simp [Size.trunc, unsignedAt, Size.bits]
    omega
  · exact (Nat.mod_eq_of_lt v.isLt).symm

theorem zeroAt_eq_isZero (z : Size) (v : Long) : zeroAt z v = z.isZero v := by
  rw [zeroAt, ← trunc_toNat, Size.isZero, Bool.eq_iff_iff, decide_eq_true_eq, beq_iff_eq]
  exact BitVec.toNat_inj (y := 0#32)

/-- MOVE, EXT, SWAP and their like set the flags as `logicSr` says. -/
theorem setLogic_sr (s : State) (z : Size) (r : Long) : (s.setLogic z r).sr = logicSr s.sr z r := by
  rw [logicSr, negAt_eq_msb, zeroAt_eq_isZero]
  rfl

theorem setLogic_eq_logicSr (s : State) (z : Size) (r : Long) : s.setLogic z r = { s with sr := logicSr s.sr z r } := by
  rw [← setLogic_sr]
  rfl

/-! ### The end of an instruction -/

/-- The end of an instruction whose effect on memory is given by the memory it leaves. -/
theorem CompletesAs.own_ram {pc : Long} {ram : List Host.Cell}
    (h : CompletesAs { u with mem := { u.mem with ram := ram } } pc t) :
    CompletesAs { u with mem := { u.mem with ram := t.mem.ram } } pc t ∧ t.mem.ram = ram := by
  have hram : t.mem.ram = ram := h.ram
  exact ⟨hram ▸ h, hram⟩

/-- An instruction that only moves on leaves the state it moves on with, memory being as before. -/
theorem leaves_of_next (h : Ready s) {i : Instr} {n : Nat} (hexec : exec i s = next s u n) (hflat : Flat u)
    (hram : u.mem.ram = s.mem.ram) : Leaves i s n u := by
  obtain ⟨t, hnext, hdone⟩ := next_flat h hflat n
  exact ⟨t, hexec.trans hnext, hdone, sameBytes_of_ram (hdone.ram.trans hram)⟩

/-- The same for a change of data registers, address registers and flags. -/
theorem leaves_registers (h : Ready s) {i : Instr} {n : Nat} {d : Bank Long} {a : AddrRegs} {sr : Word}
    (hexec : exec i s = next s { s with d := d, a := a, sr := sr } n) : Leaves i s n { s with d := d, a := a, sr := sr } :=
  leaves_of_next h hexec (h.flat.of_eq rfl rfl rfl) rfl

/-- An instruction may draw free values. -/
theorem Leaves.of_near {i : Instr} {n : Nat} {v : State} (h : Leaves i s n v) (hn : Near u v) : Leaves i s n u := by
  obtain ⟨t, hexec, hdone, hsame⟩ := h
  exact ⟨t, hexec, hdone.of_near hn, hsame⟩

/-- An instruction that makes one write and changes address registers. -/
theorem storesAndReaches_of_nextWith (h : Ready s) {i : Instr} {n k : Nat} {a : AddrRegs} {x v : Long} (hk : k ≤ 16)
    (hexec : exec i s = nextWith s (s.withA a) n [s.writeOf x k v]) :
    StoresAndReaches i s (s.withA a) (s.after n) x k v := by
  obtain ⟨t, hnext, hdone⟩ := nextWith_flat h (h.flat.withA a) n (ws := [s.writeOf x k v])
    (List.forall_mem_singleton.2 (writeOf_tt s x k v))
  exact ⟨t, hexec.trans hnext, hdone, storesAt_of_ram hk hdone.ram⟩

/-! ### A result put at its place -/

/-- Putting a result at `l` as a register or as a write to be made, and making the write, is `State.put`. -/
theorem putLoc_put (s : State) (a : AddrRegs) (sr : Word) (z : Size) (l : Loc) (v : Long) :
    let p := putLoc { s with a := a, sr := sr } z l v
    { p.1 with mem := { p.1.mem with ram := ramAfter p.1.mem.ram p.2 } } = s.put a sr z l v := by
  cases l <;> rfl

theorem putLoc_flat (h : Flat s) (z : Size) (l : Loc) (v : Long) :
    Flat (putLoc s z l v).1 ∧ ∀ w ∈ (putLoc s z l v).2, w.acc.tt ≠ 2 := by
  cases l with
  | mem x => exact ⟨h, List.forall_mem_singleton.2 (writeOf_tt s x z.bytes v)⟩
  | d n => exact ⟨h.of_eq rfl rfl rfl, fun _ hw => absurd hw List.not_mem_nil⟩
  | a n => exact ⟨h.of_eq rfl rfl rfl, fun _ hw => absurd hw List.not_mem_nil⟩
  | imm x => exact ⟨h, fun _ hw => absurd hw List.not_mem_nil⟩

/-- What a store does to memory depends on the memory it leaves only. -/
theorem StoresTo.of_ram {l : Loc} {n : Nat} {v : Long} (h : StoresTo s u l n v) (hram : t.mem.ram = u.mem.ram) :
    StoresTo s t l n v := by
  have hbyte : ∀ b, t.byteAt b = u.byteAt b := fun b => by rw [State.byteAt, hram, State.byteAt]
  cases l with
  | mem x =>
    obtain ⟨hsame, hread⟩ := h
    exact ⟨fun b hb => (hbyte b).trans (hsame b hb), fun hwf => by rw [State.bytesAt, hram]; exact hread hwf⟩
  | d n => exact fun b => (hbyte b).trans (h b)
  | a n => exact fun b => (hbyte b).trans (h b)
  | imm x => exact fun b => (hbyte b).trans (h b)

/-- An instruction that ends by putting a result at `l`. -/
theorem nextWith_putLoc (h : Ready s) (a : AddrRegs) (sr : Word) (z : Size) (l : Loc) (v : Long) (n : Nat) :
    ∃ t, nextWith s (putLoc { s with a := a, sr := sr } z l v).1 n (putLoc { s with a := a, sr := sr } z l v).2 = .next t ∧
      CompletesAs (s.put a sr z l v) (s.after n) t ∧ StoresTo s t l z.bytes v := by
  obtain ⟨hflat, hwrites⟩ := putLoc_flat (s := { s with a := a, sr := sr }) (h.flat.of_eq rfl rfl rfl) z l v
  obtain ⟨t, hnext, hdone⟩ := nextWith_flat h hflat n hwrites
  rw [putLoc_put] at hdone
  exact ⟨t, hnext, hdone, (put_storesTo s a sr z l v).of_ram hdone.ram⟩

/-! ### Effective addresses -/

/-- An operand in memory is read where it has been evaluated. -/
theorem reads_mem (h : Flat s) {z : Size} {ea : Ea} {pre : Nat} {y : Long} {a : AddrRegs}
    (he : Evaluates s ea z.bytes pre (.mem y) a) : Reads s z ea pre (.mem y) (s.valueAt y z.bytes) a := by
  have hread : readLoc (s.withA a) z (.mem y) = .ok (s.valueAt y z.bytes) (s.withA a) := (h.withA a).read y z.bytes
  rw [Reads, readEa, show evalEa s ea z.bytes (s.pc + BitVec.ofNat 32 (2 * pre)) = _ from he, Res.bind_ok, hread, Res.bind_ok]

/-- The mode of a well-formed operand is one of the set. -/
theorem has_of_wf {p : EaSet} {n : Nat} {ea : Ea} (h : ea.wf p n = true) : p.has ea.modeField ea.regField = true := by
  unfold Ea.wf at h
  exact ((Bool.and_eq_true _ _).mp h).1

/-- A larger set of addressing modes takes the same operands. -/
theorem wf_of_subset {p q : EaSet} (hpq : ∀ m r, p.has m r = true → q.has m r = true) {n : Nat} {ea : Ea}
    (h : ea.wf p n = true) : ea.wf q n = true := by
  unfold Ea.wf at h ⊢
  obtain ⟨hmode, hext⟩ := (Bool.and_eq_true _ _).mp h
  exact (Bool.and_eq_true _ _).mpr ⟨hpq _ _ hmode, hext⟩

theorem wf_control_of_controlAlt {n : Nat} {ea : Ea} (h : ea.wf .controlAlt n = true) : ea.wf .control n = true :=
  wf_of_subset (by decide) h

/-- The control modes (R467): the address is computed from registers and memory, and no register changes. -/
inductive ControlMode : Ea → Prop
  | ind (r : BitVec 3) : ControlMode (.ind r)
  | disp (r : BitVec 3) (d : BitVec 16) : ControlMode (.disp r d)
  | idx (r : BitVec 3) (x : IndexExt) : ControlMode (.idx r x)
  | absW (a : BitVec 16) : ControlMode (.absW a)
  | absL (a : BitVec 32) : ControlMode (.absL a)
  | pcDisp (d : BitVec 16) : ControlMode (.pcDisp d)
  | pcIdx (x : IndexExt) : ControlMode (.pcIdx x)

theorem isControl_of_wf {n : Nat} {ea : Ea} (h : ea.wf .control n = true) : ControlMode ea := by
  cases ea with
  | dn r | an r | post r | pre r | imm v =>
    exact absurd (has_of_wf h) (by simp [EaSet.has, Ea.modeField, Ea.regField, EaSet.control])
  | ind r => exact .ind r
  | disp r d => exact .disp r d
  | idx r x => exact .idx r x
  | absW a => exact .absW a
  | absL a => exact .absL a
  | pcDisp d => exact .pcDisp d
  | pcIdx x => exact .pcIdx x

theorem evaluates_idx {r : BitVec 3} {x : IndexExt} {y : Long} (h : indexedEa s (s.getA r) x = .ok y s) (k pre : Nat) :
    Evaluates s (.idx r x) k pre (.mem y) s.a := by
  rw [Evaluates, evalEa, h, Res.bind_ok]

theorem evaluates_pcIdx {pre : Nat} {x : IndexExt} {y : Long} (h : indexedEa s (s.after pre) x = .ok y s) (k : Nat) :
    Evaluates s (.pcIdx x) k pre (.mem y) s.a := by
  rw [Evaluates, evalEa, h, Res.bind_ok]

theorem control_evaluates (h : Flat s) {ea : Ea} (hc : ControlMode ea) (pre : Nat) :
    ∃ x, Evaluates s ea 0 pre (.mem x) s.a := by
  cases hc with
  | idx r x =>
    obtain ⟨y, hy⟩ := indexedEa_flat h (s.getA r) x
    exact ⟨y, evaluates_idx hy 0 pre⟩
  | pcIdx x =>
    obtain ⟨y, hy⟩ := indexedEa_flat h (s.after pre) x
    exact ⟨y, evaluates_pcIdx hy 0⟩
  | ind r | disp r d | absW a | absL a | pcDisp d => exact ⟨_, rfl⟩

/-- The address that an instruction which only computes one gets. -/
theorem Evaluates.controlEa {ea : Ea} {pre : Nat} {x : Long} (h : Evaluates s ea 0 pre (.mem x) s.a) :
    controlEa s ea (s.after pre) = .ok x s := by
  rw [Sys2Proof.Machine.controlEa, show evalEa s ea 0 (s.after pre) = _ from h, Res.bind_ok, Loc.addr]

end Sys2Proof.Machine
end

section
/-! PROOFS. MOVE, and every addressing mode as all instructions evaluate and read it (40_data_movement R551; 30_encoding R453 to
R464). -/

namespace Sys2Proof.Machine

variable {s : State}

/-! ### The addressing modes -/

/-- A register or an immediate is read at a size, zero-extended. -/
theorem reads_trunc {z : Size} {ea : Ea} {pre : Nat} {l : Loc} {v : Long} (he : ∀ k, Evaluates s ea k pre l s.a)
    (hread : readLoc s z l = .ok (z.trunc v) s) :
    (∀ k, Evaluates s ea k pre l s.a) ∧ Reads s z ea pre l (BitVec.ofNat 32 (v.toNat % 2 ^ z.bits)) s.a := by
  refine ⟨he, ?_⟩
  rw [show v.toNat % 2 ^ z.bits = (z.trunc v).toNat from (trunc_toNat z v).symm, BitVec.ofNat_toNat, BitVec.setWidth_eq]
  rw [Reads, readEa, show evalEa s ea z.bytes (s.pc + BitVec.ofNat 32 (2 * pre)) = _ from he z.bytes, Res.bind_ok]
  rw [show readLoc _ z l = _ from hread, Res.bind_ok]

/-- The low bits of an immediate of three long words are those of its last long word. -/
theorem toNat_truncate_mod (z : Size) (v : BitVec 96) : (v.truncate 32).toNat % 2 ^ z.bits = v.toNat % 2 ^ z.bits := by
  rw [BitVec.truncate_eq_setWidth, BitVec.toNat_setWidth]
  exact Nat.mod_mod_of_dvd _ (Nat.pow_dvd_pow 2 (by cases z <;> decide))

/-- A memory operand is read where it is evaluated. -/
theorem reads_memory (h : Flat s) (z : Size) {ea : Ea} {pre : Nat} {y : Nat → Long} {a : Nat → AddrRegs}
    (he : ∀ k, Evaluates s ea k pre (.mem (y k)) (a k)) :
    (∀ k, Evaluates s ea k pre (.mem (y k)) (a k)) ∧
      Reads s z ea pre (.mem (y z.bytes)) (s.valueAt (y z.bytes) z.bytes) (a z.bytes) :=
  ⟨he, reads_mem h (he z.bytes)⟩

/-! ### Indexed and memory-indirect addresses (R458 to R460) -/

/-- The index is the register, or its sign-extended low word, times the scale. -/
theorem indexValue_eq (s : State) (x : IndexReg) :
    indexValue s x =
      let reg := if x.da then s.getA x.reg else s.getD x.reg
      BitVec.ofInt 32 ((if x.long then reg.toInt else (reg.extractLsb' 0 16).toInt) * 2 ^ x.scale.toNat) := by
  have hscale : ∀ (v : Long) (n : Nat), v <<< n = BitVec.ofInt 32 (v.toInt * 2 ^ n) := fun v n => by
    have hpow : BitVec.twoPow 32 n = BitVec.ofInt 32 (2 ^ n) := by
      rw [show (2 : Int) ^ n = ((2 ^ n : Nat) : Int) by norm_cast, BitVec.ofInt_natCast]
      exact BitVec.eq_of_toNat_eq (by rw [BitVec.toNat_twoPow, BitVec.toNat_ofNat])
    rw [BitVec.shiftLeft_eq_mul_twoPow, BitVec.ofInt_mul, BitVec.ofInt_toInt, hpow]
  unfold indexValue
  extract_lets reg
  rw [hscale]
  split
  · rfl
  · rw [BitVec.toInt_signExtend_of_le (by decide)]

theorem indexedEa_pre (h : Flat s) (base : Long) (x : IndexReg) (bs is : Bool) (bd od : Disp) :
    indexedEa s base (.full x bs is bd (.pre od)) =
      .ok (s.valueAt ((if bs then 0 else base) + dispValue bd + if is then 0 else indexValue s x) 4 + dispValue od) s := by
  simp only [indexedEa, h.read, Res.bind_ok, State.valueAt, State.bytesAt]

theorem indexedEa_post (h : Flat s) (base : Long) (x : IndexReg) (bs is : Bool) (bd od : Disp) :
    indexedEa s base (.full x bs is bd (.post od)) =
      .ok (s.valueAt ((if bs then 0 else base) + dispValue bd) 4 + (if is then 0 else indexValue s x) + dispValue od) s := by
  simp only [indexedEa, h.read, Res.bind_ok, State.valueAt, State.bytesAt]

/-! ### MOVE -/

theorem moveEa_completes (h : Ready s) (z : Size) (src dst : Ea) :
    ∃ l v a l' a' t, Reads s z src 1 l v a ∧ evalEa (s.withA a) dst z.bytes s.pc = .ok l' (s.withA a') ∧
      moveEa z src dst s = .next t ∧
      CompletesAs (s.put a' (logicSr s.sr z v) z l' v) (s.after (1 + Ea.words z.immWords src + Ea.words z.immWords dst)) t ∧
      StoresTo s t l' z.bytes v := by
  obtain ⟨l, v, a, hread⟩ := readEa_flat h.flat z src 1 s.pc
  obtain ⟨l', a', heval⟩ := evalEa_flat (h.flat.withA a) dst z.bytes s.pc
  obtain ⟨t, hnext, hdone, hstore⟩ := nextWith_putLoc h a' (logicSr s.sr z v) z l' v
    (1 + Ea.words z.immWords src + Ea.words z.immWords dst)
  refine ⟨l, v, a, l', a', t, hread, heval, ?_, hdone, hstore⟩
  rw [moveEa, hread, Res.bind_ok, heval, Res.bind_ok, orAbort_ok, setLogic_eq_logicSr]
  exact hnext

/-- Settles O15: what an addressing mode addresses is its arm of `evalEa`; MOVE is one evaluation after the other. -/
theorem moveCopiesTheSource : Obligations.MoveCopiesTheSource := by
  unfold Obligations.MoveCopiesTheSource
  constructor
  · intro s src dst h p hp
    simp only [List.mem_cons, List.not_mem_nil, or_false] at hp
    rcases hp with rfl | rfl | rfl
    · exact moveEa_completes h .b src dst
    · exact moveEa_completes h .w src dst
    · exact moveEa_completes h .l src dst
  · intro s z pre r d x v h value memory finds step disp
    have immediate : value (.imm v) (.imm v) v.toNat := by
      show _ ∧ Reads s z _ pre _ (BitVec.ofNat 32 (v.toNat % 2 ^ z.bits)) s.a
      rw [← toNat_truncate_mod]
      exact reads_trunc (fun _ => rfl) rfl
    refine ⟨reads_trunc (fun _ => rfl) rfl, reads_trunc (fun _ => rfl) rfl, immediate, reads_memory h.flat z fun _ => rfl,
      reads_memory h.flat z fun _ => rfl, reads_memory h.flat z fun _ => rfl, reads_memory h.flat z fun _ => rfl,
      reads_memory h.flat z fun _ => rfl, reads_memory h.flat z fun _ => rfl, reads_memory h.flat z fun _ => rfl, ?_⟩
    intro p hp i d8 bs is bd od reg whole index base added
    have heval : ∀ e y k, indexedEa s p.2 e = .ok y s → Evaluates s (p.1 e) k pre (.mem y) s.a := by
      intro e y k hy
      simp only [List.mem_cons, List.not_mem_nil, or_false] at hp
      rcases hp with rfl | rfl
      · exact evaluates_idx hy k pre
      · exact evaluates_pcIdx hy k
    have hindex : indexValue s i = index := indexValue_eq s i
    have hdisp : ∀ e, dispValue e = disp e := fun e => by cases e <;> rfl
    have hadded : (if is then 0 else indexValue s i) = added := by rw [hindex]
    have hbase : (if bs then 0 else p.2) + dispValue bd = base := by rw [hdisp]
    refine ⟨reads_memory h.flat z fun k => heval _ _ k ?_, reads_memory h.flat z fun k => heval _ _ k ?_,
      reads_memory h.flat z fun k => heval _ _ k ?_, reads_memory h.flat z fun k => heval _ _ k ?_⟩
    · rw [← hindex]
      rfl
    · rw [← hbase, ← hadded]
      rfl
    · rw [indexedEa_pre h.flat, hbase, hadded, hdisp]
    · rw [indexedEa_post h.flat, hbase, hadded, hdisp]

end Sys2Proof.Machine
end

section
/-! PROOFS. MOVEQ, EXG, SWAP, EXT, LEA and the operations on address registers, PEA, LINK and UNLK, and MOVE16
(40_data_movement R552 to R566; 41_integer_arithmetic R611 to R644; 44_shift_rotate R842). -/

namespace Sys2Proof.Machine

variable {s : State}

/-! ### Registers and addresses -/

theorem swap_halves (v : Long) : v.extractLsb' 0 16 ++ v.extractLsb' 16 16 = v.rotateLeft 16 := by
  refine BitVec.eq_of_getLsbD_eq fun i hi => ?_
  rw [BitVec.getLsbD_append, BitVec.getLsbD_rotateLeft]
  by_cases h : i < 16
  · simp [h]
  · simp [h, hi, show i - 16 < 16 by omega]

/-- EXT and its like put a result in a data register and set the flags from it. -/
theorem setDnLogic_leaves (h : Ready s) {i : Instr} {z : Size} {n : BitVec 3} {v : Long}
    (hexec : exec i s = setDnLogic z n v s) : Leaves i s 1 (s.put s.a (logicSr s.sr z v) z (.d n) v) := by
  rw [setDnLogic, setLogic_eq_logicSr] at hexec
  exact leaves_registers h hexec

/-- EXG exchanges any two registers. -/
theorem exchange_leaves (h : Ready s) {i : Instr} {x y : BitVec 4} (hexec : exec i s = exchange x y s) :
    Leaves i s 1 ((s.setR x (s.getR y)).setR y (s.getR x)) :=
  leaves_of_next h hexec (h.flat.of_eq (by simp) (by simp) (by simp) (by simp)) (by simp)

theorem execLea_leaves (h : Ready s) {ea : Ea} (hc : ControlMode ea) (n : BitVec 3) :
    ∃ x, Evaluates s ea 0 1 (.mem x) s.a ∧
      Leaves (.lea n ea) s (1 + Ea.words 1 ea) { s with a := s.a.set s.sr n x } := by
  obtain ⟨x, hx⟩ := control_evaluates h.flat hc 1
  refine ⟨x, hx, leaves_registers h ?_⟩
  show execLea n ea s = _
  rw [execLea, hx.controlEa, orAbort_ok]
  rfl

/-- MOVEA, ADDA and SUBA: An is read before the source's addressing mode updates it (log 22). -/
theorem addressOp_leavesFrom (h : Ready s) {i : Instr} {z : Size} {n : BitVec 3} {ea : Ea} {f : Long → Long → Long}
    (hexec : exec i s = addressOp z n ea f s) :
    LeavesFrom i s z ea 1 fun v a => { s with a := a.set s.sr n (f (s.getA n) (z.sext v)) } := by
  obtain ⟨l, v, a, t, hread, hnext, hdone⟩ := testEa_flat h z ea 1 (f := fun u v => u.setA n (f (s.getA n) (z.sext v)))
    fun u v hu => hu.of_eq rfl rfl rfl
  exact ⟨l, v, a, t, hread, hexec.trans hnext, hdone, sameBytes_of_ram hdone.ram⟩

/-- Settles O18: each of them moves on with registers and flags changed and no write. -/
theorem registerAndAddressMoves : Obligations.RegisterAndAddressMoves := by
  unfold Obligations.RegisterAndAddressMoves
  constructor
  · intro s x y b h v
    have moveq : exec (.moveq x b) s = setDnLogic .l x (b.signExtend 32) s := rfl
    have swap : exec (.swap x) s = setDnLogic .l x (v.rotateLeft 16) s := by
      rw [← swap_halves]
      rfl
    have extL := setDnLogic_leaves h (i := .extL x) rfl
    have extbL := setDnLogic_leaves h (i := .extbL x) rfl
    have exgData := exchange_leaves h (i := .exgDxDy x y) rfl
    have exgAddr := exchange_leaves h (i := .exgAxAy x y) rfl
    have exgBoth := exchange_leaves h (i := .exgDxAy x y) rfl
    rw [getR_data, getR_data, setR_data, setR_data] at exgData
    rw [getR_addr, getR_addr, setR_addr, setR_addr] at exgAddr
    rw [getR_data, getR_addr, setR_data, setR_addr] at exgBoth
    exact ⟨setDnLogic_leaves h moveq, setDnLogic_leaves h swap, setDnLogic_leaves h rfl, extL, extbL, exgData, exgAddr,
      exgBoth⟩
  · intro s n ea q h
    refine ⟨fun hw => execLea_leaves h (isControl_of_wf hw) n, ?_, ?_, ?_⟩
    · intro p hp
      simp only [List.mem_cons, List.not_mem_nil, or_false] at hp
      rcases hp with rfl | rfl | rfl | rfl | rfl | rfl <;> exact addressOp_leavesFrom h rfl
    · intro i hi
      simp only [List.mem_cons, List.not_mem_nil, or_false] at hi
      rcases hi with rfl | rfl | rfl <;> exact leaves_registers h rfl
    · intro i hi
      simp only [List.mem_cons, List.not_mem_nil, or_false] at hi
      rcases hi with rfl | rfl | rfl <;> exact leaves_registers h rfl

/-! ### The stack -/

theorem execPea_stores (h : Ready s) {ea : Ea} (hc : ControlMode ea) :
    ∃ x, Evaluates s ea 0 1 (.mem x) s.a ∧ StoresAndReaches (.pea ea) s
      (s.withA (s.a.set s.sr 7 (s.getA 7 - 4))) (s.after (1 + Ea.words 1 ea)) (s.getA 7 - 4) 4 x := by
  obtain ⟨x, hx⟩ := control_evaluates h.flat hc 1
  refine ⟨x, hx, storesAndReaches_of_nextWith h (by decide) ?_⟩
  show execPea ea s = _
  rw [execPea, hx.controlEa, orAbort_ok]
  rfl

/-- The address registers of LINK, An being loaded with the stack pointer before the stack pointer moves on. -/
theorem link_registers (a : AddrRegs) (sr : Word) (n : BitVec 3) (sp x : Long) :
    ((a.set sr 7 sp).set sr n sp).set sr 7 x = (a.set sr n sp).set sr 7 x := by
  by_cases hn : n = 7
  · rw [hn, AddrRegs.set_set_self]
  · rw [AddrRegs.set_comm a sr (Ne.symm hn), AddrRegs.set_set_self]

theorem linkAn_stores (h : Ready s) {i : Instr} {n : BitVec 3} {d : Long} {k : Nat} (hexec : exec i s = linkAn n d k s) :
    StoresAndReaches i s (s.withA ((s.a.set s.sr n (s.getA 7 - 4)).set s.sr 7 (s.getA 7 - 4 + d))) (s.after k)
      (s.getA 7 - 4) 4 (if n = 7 then s.getA 7 - 4 else s.getA n) := by
  refine storesAndReaches_of_nextWith h (by decide) (hexec.trans ?_)
  have hpushed : (s.setA 7 (s.getA 7 - 4)).getA n = if n = 7 then s.getA 7 - 4 else s.getA n := AddrRegs.get_set _ _ _ _ _
  have hsp : ((s.setA 7 (s.getA 7 - 4)).setA n (s.getA 7 - 4)).getA 7 = s.getA 7 - 4 := by
    by_cases hn : n = 7
    · rw [hn, getA_setA_self]
    · rw [getA_setA_of_ne _ _ (Ne.symm hn), getA_setA_self]
  have hregs := link_registers s.a s.sr n (s.getA 7 - 4) (s.getA 7 - 4 + d)
  rw [← hregs, ← hpushed, linkAn, hsp]
  rfl

theorem execUnlk_leaves (h : Ready s) {n : BitVec 3} (hn : n ≠ 7) : Leaves (.unlk n) s 1
    { s with a := (s.a.set s.sr 7 (s.getA n + 4)).set s.sr n (s.valueAt (s.getA n) 4) } := by
  refine leaves_registers h ?_
  show execUnlk n s = _
  rw [execUnlk, h.flat.read, orAbort_ok, if_neg hn]
  rfl

/-- UNLK A7 leaves a free value. -/
theorem execUnlk_seven_leaves (h : Ready s) : ∃ v, Leaves (.unlk 7) s 1 { s with a := s.a.set s.sr 7 v } := by
  have hexec : exec (.unlk 7) s = next s ((s.draw 32).2.setA 7 (s.draw 32).1) 1 := by
    show execUnlk 7 s = _
    rw [execUnlk, h.flat.read, orAbort_ok, if_pos rfl]
  exact ⟨(s.draw 32).1, (leaves_of_next h hexec (h.flat.of_eq rfl rfl rfl) rfl).of_near ⟨_, _, rfl⟩⟩

/-- Settles O19: one long word is pushed or popped, at the stack pointer before or after it moves. -/
theorem stackFrameInstructions : Obligations.StackFrameInstructions := by
  unfold Obligations.StackFrameInstructions
  intro s n ea d e h sp
  refine ⟨fun hw => execPea_stores h (isControl_of_wf hw), ?_, execUnlk_leaves h, execUnlk_seven_leaves h⟩
  intro p hp
  simp only [List.mem_cons, List.not_mem_nil, or_false] at hp
  rcases hp with rfl | rfl <;> exact linkAn_stores h rfl

/-! ### MOVE16 -/

/-- The line of `src` is copied to that of `dst`; the register updates may draw a free value. -/
theorem move16_copies (h : Ready s) {i : Instr} {src dst : Long} {n : Nat} {after : State → State} {a : AddrRegs}
    (hexec : exec i s = move16 src dst n after s) (hafter : Near (s.withA a) (after s)) :
    ∃ t, exec i s = .next t ∧
      CompletesAs { s with a := a, mem := { s.mem with ram := t.mem.ram } } (s.after n) t ∧
      SameBytesBut s t (dst &&& 0xFFFFFFF0) 16 ∧
      (Memory.wf s.mem → t.bytesAt (dst &&& 0xFFFFFFF0) 16 = s.bytesAt (src &&& 0xFFFFFFF0) 16) := by
  have hread : s.lift (dataRead s.ctl s.mem (s.lineOf src) (move16Line src) 16) = .ok (s.bytesAt (src &&& 0xFFFFFFF0) 16) s := by
    rw [h.flat.dataRead h.flat.bus (by simp [State.lineOf, State.lineAccess])]
    rfl
  rw [move16, hread, orAbort_ok] at hexec
  obtain ⟨p, k, hp⟩ := hafter
  obtain ⟨t, hnext, hdone⟩ := nextWith_flat h (s := after s) (by rw [hp]; exact h.flat.of_eq rfl rfl rfl) n
    (ws := [⟨move16Line dst, s.bytesAt (src &&& 0xFFFFFFF0) 16, s.lineOf dst⟩])
    (List.forall_mem_singleton.2 (by simp [State.lineOf, State.lineAccess]))
  rw [hp] at hdone
  obtain ⟨hdone, hram⟩ := hdone.own_ram
  have hlen : (s.bytesAt (src &&& 0xFFFFFFF0) 16).length = 16 := getBytes_length _ _ _ _
  refine ⟨t, hexec.trans hnext, hdone.of_near ⟨p, k, rfl⟩, putBytes_same hlen hram, fun hwf => ?_⟩
  have hback := getBytes_putBytes (base := 0) (bs := s.bytesAt (src &&& 0xFFFFFFF0) 16) (a := dst &&& 0xFFFFFFF0) hwf.1
    (by rw [hlen]; decide)
  rw [hlen] at hback
  rw [State.bytesAt, hram]
  exact hback

/-- Settles O20: one line read and one line write; a free value chooses the increment where both registers are the same. -/
theorem move16CopiesALine : Obligations.Move16CopiesALine := by
  unfold Obligations.Move16CopiesALine
  intro s x y m h line copies inc
  refine ⟨fun hxy => move16_copies h rfl ?_, ?_, move16_copies h rfl (.refl _), move16_copies h rfl (.refl _),
    move16_copies h rfl (.refl _), move16_copies h rfl (.refl _)⟩
  · rw [if_neg hxy]
    exact .refl _
  · have hdrawn : ∀ k : Long, (if (s.draw 1).1 = 1 then 32 else 16) = k →
        copies (.move16AxPlusAyPlus x x) 2 (s.getA x) (s.getA x) (inc x k) := fun k hk => by
      refine move16_copies h rfl ?_
      subst hk
      rw [if_pos rfl]
      exact ⟨_, _, rfl⟩
    by_cases hone : (s.draw 1).1 = 1
    · exact .inr (hdrawn 32 (if_pos hone))
    · exact .inl (hdrawn 16 (if_neg hone))

end Sys2Proof.Machine
end

section
/-! PROOFS. MOVEM: rows of writes, upwards and downwards, and rows of reads (40_data_movement R554, R555). -/

namespace Sys2Proof.Machine

variable {s u w : State}

/-! ### Rows of bytes -/

/-- The bytes of two neighbouring ranges. -/
theorem inRange_append {a b : Long} {n k : Nat} (h : n + k ≤ 2 ^ 32) :
    inRange a (n + k) b ↔ inRange a n b ∨ inRange (a + BitVec.ofNat 32 n) k b := by
  have hsub : b - (a + BitVec.ofNat 32 n) = (b - a) - BitVec.ofNat 32 n := by bv_omega
  simp only [inRange, hsub, BitVec.toNat_sub, BitVec.toNat_ofNat]
  omega

theorem inRange_disjoint {a b : Long} {n k : Nat} (h : n + k ≤ 2 ^ 32) (hb : inRange (a + BitVec.ofNat 32 n) k b) :
    ¬ inRange a n b := by
  have hsub : b - (a + BitVec.ofNat 32 n) = (b - a) - BitVec.ofNat 32 n := by bv_omega
  simp only [inRange, hsub, BitVec.toNat_sub, BitVec.toNat_ofNat] at hb ⊢
  omega

/-! ### Lists of registers (R554) -/

theorem registersOf_length_le (p : Nat → Bool) : (registersOf p).length ≤ 16 := by
  rw [registersOf, List.length_map]
  exact List.length_filter_le _ _

theorem size_bytes_le (z : Size) : z.bytes ≤ 4 := by cases z <;> decide

theorem row_length_le (z : Size) (p : Nat → Bool) : z.bytes * (registersOf p).length ≤ 64 :=
  Nat.mul_le_mul (size_bytes_le z) (registersOf_length_le p)

/-- The list of -(An) is reversed: its bit 0 is A7. -/
theorem listRegsPre_eq (list : BitVec 16) : listRegsPre list = (registersOf fun i => list.getLsbD (15 - i)).reverse := by
  have hrange : List.range 16 = ((List.range 16).map fun i => 15 - i).reverse := by decide
  have hback : ∀ i ∈ List.range 16, 15 - (15 - i) = i := by decide
  have hfilter : (List.range 16).filter (fun i => list.getLsbD (15 - (15 - i))) =
      (List.range 16).filter fun i => list.getLsbD i :=
    List.filter_congr fun i hi => by rw [hback i hi]
  rw [registersOf, ← List.map_reverse, ← List.filter_reverse, hrange, List.reverse_reverse, List.filter_map, List.map_map]
  exact congrArg (List.map _) hfilter.symm

theorem flatMap_toBytes_length (f : BitVec 4 → Long) (k : Nat) (rs : List (BitVec 4)) :
    (rs.flatMap fun r => toBytes (f r) k).length = k * rs.length := by
  induction rs with
  | nil => rfl
  | cons r rs ih => rw [List.flatMap_cons, List.length_append, toBytes_length, ih, List.length_cons, Nat.mul_succ, Nat.add_comm]

/-! ### MOVEM to memory (R554) -/

theorem movemWrites_tt (s : State) (z : Size) :
    ∀ (rs : List (BitVec 4)) (a : Long), ∀ w ∈ movemWrites s z a rs, w.acc.tt ≠ 2
  | [], _, _, hw => absurd hw List.not_mem_nil
  | _ :: rs, _, w, hw => by
    rcases List.mem_cons.1 hw with rfl | hw
    · exact writeOf_tt s _ _ _
    · exact movemWrites_tt s z rs _ w hw

theorem movemWritesPre_tt (s : State) (z : Size) (n : BitVec 3) :
    ∀ (rs : List (BitVec 4)) (a : Long), ∀ w ∈ movemWritesPre s z n a rs, w.acc.tt ≠ 2
  | [], _, _, hw => absurd hw List.not_mem_nil
  | _ :: rs, _, w, hw => by
    rcases List.mem_cons.1 hw with rfl | hw
    · exact writeOf_tt s _ _ _
    · exact movemWritesPre_tt s z n rs _ w hw

/-- What MOVEM to -(An) stores of a register: An itself less the operand size. -/
def movemPreValue (s : State) (z : Size) (n : BitVec 3) (r : BitVec 4) : Long :=
  if r = 8 + n.zeroExtend 4 then s.getR r - BitVec.ofNat 32 z.bytes else s.getR r

theorem movemWritesPre_length (s : State) (z : Size) (n : BitVec 3) :
    ∀ (rs : List (BitVec 4)) (a : Long), (movemWritesPre s z n a rs).length = rs.length
  | [], _ => rfl
  | _ :: rs, _ => congrArg (· + 1) (movemWritesPre_length s z n rs _)

/-- Writes upwards are one row of bytes. -/
theorem ramAfter_movemWrites (s : State) (z : Size) : ∀ (rs : List (BitVec 4)) (ram : List Host.Cell) (a : Long),
    ramAfter ram (movemWrites s z a rs) = putBytes ram 0 a (rs.flatMap fun r => toBytes (s.getR r) z.bytes)
  | [], _, _ => rfl
  | r :: rs, ram, a => by
    have hrow := putBytes_append 0 (toBytes (s.getR r) z.bytes) (rs.flatMap fun r => toBytes (s.getR r) z.bytes) ram a
    rw [toBytes_length] at hrow
    exact (ramAfter_movemWrites s z rs _ _).trans hrow

/-- The registers of a -(An) list stored downwards from `a` stand upwards in reverse order, and nothing else changes. -/
theorem ramAfter_movemWritesPre (s : State) (z : Size) (n : BitVec 3) :
    ∀ (rs : List (BitVec 4)) (ram : List Host.Cell) (a : Long), z.bytes * rs.length ≤ 2 ^ 32 →
    let x := a - BitVec.ofNat 32 (z.bytes * rs.length)
    (∀ b, ¬ inRange x (z.bytes * rs.length) b →
      cellGet (ramAfter ram (movemWritesPre s z n a rs)) (0 + b.toNat) = cellGet ram (0 + b.toNat)) ∧
    (cellsWf ram = true → getBytes (ramAfter ram (movemWritesPre s z n a rs)) 0 x (z.bytes * rs.length) =
      rs.reverse.flatMap fun r => toBytes (movemPreValue s z n r) z.bytes)
  | [], _, _, _ => ⟨fun _ _ => rfl, fun _ => rfl⟩
  | r :: rs, ram, a, hlen => by
    intro x
    rw [List.length_cons, Nat.mul_succ] at hlen
    have hx : x = a - BitVec.ofNat 32 z.bytes - BitVec.ofNat 32 (z.bytes * rs.length) := by
      simp only [x, List.length_cons, Nat.mul_succ, BitVec.ofNat_add]
      bv_omega
    have htop : x + BitVec.ofNat 32 (z.bytes * rs.length) = a - BitVec.ofNat 32 z.bytes := by
      rw [hx, BitVec.sub_add_cancel]
    obtain ⟨hsame, hrow⟩ := ramAfter_movemWritesPre s z n rs
      (putBytes ram 0 (a - BitVec.ofNat 32 z.bytes) (toBytes (movemPreValue s z n r) z.bytes)) (a - BitVec.ofNat 32 z.bytes)
      (by omega)
    rw [← hx] at hsame hrow
    rw [List.length_cons, Nat.mul_succ]
    refine ⟨fun b hb => ?_, fun hwf => ?_⟩
    · rw [inRange_append hlen, not_or, htop] at hb
      exact (hsame b hb.1).trans (cellGet_putBytes_of_not_inRange (by rw [toBytes_length]; exact hb.2))
    · rw [← getBytes_append, List.reverse_cons, List.flatMap_append, List.flatMap_singleton, htop]
      refine congrArg₂ _ (hrow (putBytes_wf hwf)) ?_
      refine (getBytes_congr (fun b hb => hsame b (inRange_disjoint hlen (htop ▸ hb))) (by omega)).trans ?_
      have hback := getBytes_putBytes (base := 0) (bs := toBytes (movemPreValue s z n r) z.bytes)
        (a := a - BitVec.ofNat 32 z.bytes) hwf (by rw [toBytes_length]; omega)
      rwa [toBytes_length] at hback

/-- Where no MOVEM is continued, its base is the address of its control mode. -/
theorem movemBase_control (hm : s.movemEa = none) {ea : Ea} (hc : ControlMode ea) {x : Long}
    (hx : Evaluates s ea 0 2 (.mem x) s.a) : movemBase s ea = .ok x s := by
  rw [← hx.controlEa]
  cases hc <;> simp only [movemBase, hm]

/-- The end of a MOVEM that has made its writes. -/
theorem next_stored (h : Ready s) (a : AddrRegs) (ram : List Host.Cell) (p : List StaleWord) (n : Nat) :
    ∃ t, next s ((s.stored ram p).withA a) n = .next t ∧
      CompletesAs { s with a := a, mem := { s.mem with ram := t.mem.ram } } (s.after n) t ∧ t.mem.ram = ram := by
  obtain ⟨t, hnext, hdone⟩ := next_flat h ((h.flat.stored ram p).withA a) n
  have hnear : Near { s.withA a with mem := { s.mem with ram := ram } } ((s.stored ram p).withA a) := ⟨p, s.mem.draws, rfl⟩
  obtain ⟨hdone, hram⟩ := (hdone.of_near hnear).own_ram (u := s.withA a)
  exact ⟨t, hnext, hdone, hram⟩

theorem movemStore_control (h : Ready s) (hm : s.movemEa = none) (z : Size) (list : BitVec 16) {ea : Ea}
    (hc : ControlMode ea) {x : Long} (hx : Evaluates s ea 0 2 (.mem x) s.a) :
    ∃ p, movemStore z list ea s =
      next s (s.stored (ramAfter s.mem.ram (movemWrites s z x (listRegs list))) p) (2 + Ea.words 1 ea) := by
  obtain ⟨p, hall⟩ := Flat.writeAll h.flat (movemWrites_tt s z (listRegs list) x)
  refine ⟨p, ?_⟩
  rw [movemStore, movemBase_control hm hc hx, orAbort_ok]
  cases hc <;> simp only [hall]

theorem movemStore_pre (h : Ready s) (z : Size) (list : BitVec 16) (r : BitVec 3) :
    ∃ p, movemStore z list (.pre r) s =
      next s ((s.stored (ramAfter s.mem.ram (movemWritesPre s z r (s.getA r) (listRegsPre list))) p).withA
        (s.a.set s.sr r (s.getA r - BitVec.ofNat 32 (z.bytes * (listRegsPre list).length)))) 2 := by
  obtain ⟨p, hall⟩ := Flat.writeAll h.flat (movemWritesPre_tt s z r (listRegsPre list) (s.getA r))
  refine ⟨p, ?_⟩
  rw [movemStore, movemBase, orAbort_ok]
  simp only [hall, movemWritesPre_length]
  rfl

/-- MOVEM to a control mode. -/
theorem movemStore_control_stores (h : Ready s) (hm : s.movemEa = none) {i : Instr} (z : Size) (list : BitVec 16) {ea : Ea}
    (hexec : exec i s = movemStore z list ea s) (hc : ControlMode ea) :
    let regs := registersOf fun i => list.getLsbD i
    ∃ x t, Evaluates s ea 0 2 (.mem x) s.a ∧ exec i s = .next t ∧
      CompletesAs { s with mem := { s.mem with ram := t.mem.ram } } (s.after (2 + Ea.words 1 ea)) t ∧
      SameBytesBut s t x (z.bytes * regs.length) ∧
      (Memory.wf s.mem → t.bytesAt x (z.bytes * regs.length) = regs.flatMap fun n => toBytes (s.getR n) z.bytes) := by
  intro regs
  obtain ⟨x, hx⟩ := control_evaluates h.flat hc 2
  obtain ⟨p, hstore⟩ := movemStore_control h hm z list hc hx
  obtain ⟨t, hnext, hdone, hram⟩ := next_stored h s.a (ramAfter s.mem.ram (movemWrites s z x (listRegs list))) p
    (2 + Ea.words 1 ea)
  rw [ramAfter_movemWrites] at hram
  have hlen := flatMap_toBytes_length s.getR z.bytes regs
  refine ⟨x, t, hx, hexec.trans (hstore.trans hnext), hdone, putBytes_same hlen hram, fun hwf => ?_⟩
  have hback := getBytes_putBytes (base := 0) (a := x) (bs := regs.flatMap fun r => toBytes (s.getR r) z.bytes) hwf.1
    (by have := row_length_le z fun i => list.getLsbD i
        rw [hlen]
        exact this.trans (by decide))
  rw [hlen] at hback
  rw [State.bytesAt, hram]
  exact hback

/-- MOVEM to -(An). -/
theorem movemStore_pre_stores (h : Ready s) {i : Instr} (z : Size) (list : BitVec 16) (r : BitVec 3)
    (hexec : exec i s = movemStore z list (.pre r) s) :
    let regs := registersOf fun i => list.getLsbD (15 - i)
    let x := s.getA r - BitVec.ofNat 32 (z.bytes * regs.length)
    ∃ t, exec i s = .next t ∧
      CompletesAs { s with a := s.a.set s.sr r x, mem := { s.mem with ram := t.mem.ram } } (s.after 2) t ∧
      SameBytesBut s t x (z.bytes * regs.length) ∧
      (Memory.wf s.mem →
        t.bytesAt x (z.bytes * regs.length) = regs.flatMap fun n => toBytes (movemPreValue s z r n) z.bytes) := by
  intro regs x
  obtain ⟨p, hstore⟩ := movemStore_pre h z list r
  have hlist : listRegsPre list = regs.reverse := listRegsPre_eq list
  rw [hlist, List.length_reverse] at hstore
  obtain ⟨t, hnext, hdone, hram⟩ := next_stored h (s.a.set s.sr r x)
    (ramAfter s.mem.ram (movemWritesPre s z r (s.getA r) regs.reverse)) p 2
  obtain ⟨hsame, hrow⟩ := ramAfter_movemWritesPre s z r regs.reverse s.mem.ram (s.getA r)
    (by have := row_length_le z fun i => list.getLsbD (15 - i)
        rw [List.length_reverse]
        exact this.trans (by decide))
  rw [List.length_reverse, ← hram] at hsame hrow
  rw [List.reverse_reverse] at hrow
  refine ⟨t, hexec.trans (hstore.trans hnext), hdone, fun b hb => ?_, fun hwf => hrow hwf.1⟩
  rw [State.byteAt, State.byteAt, ← Nat.zero_add b.toNat]
  exact hsame b hb

/-! ### MOVEM from memory (R555) -/

/-- One register of a MOVEM loaded: `x` is the address of the first operand, `q` the register with the number of its operand. -/
def movemLoaded (s : State) (z : Size) (x : Long) (u : State) (q : BitVec 4 × Nat) : State :=
  u.setR q.1 (z.sext (s.valueAt (x + BitVec.ofNat 32 (z.bytes * q.2)) z.bytes))

/-- The same where the register `skip` is not loaded. -/
def movemLoadedBut (skip : Option (BitVec 4)) (s : State) (z : Size) (x : Long) (u : State) (q : BitVec 4 × Nat) : State :=
  if skip = some q.1 then u else movemLoaded s z x u q

theorem movemLoadedBut_none (s : State) (z : Size) (x : Long) : movemLoadedBut none s z x = movemLoaded s z x := rfl

theorem movemLoadedBut_frame (skip : Option (BitVec 4)) (s : State) (z : Size) (x : Long) (u : State) (q : BitVec 4 × Nat) :
    (movemLoadedBut skip s z x u q).mem = u.mem ∧ (movemLoadedBut skip s z x u q).ctl = u.ctl := by
  unfold movemLoadedBut movemLoaded
  split
  · exact ⟨rfl, rfl⟩
  · exact ⟨setR_mem _ _ _, setR_ctl _ _ _⟩

theorem foldl_movemLoadedBut_frame (skip : Option (BitVec 4)) (s : State) (z : Size) (x : Long) :
    ∀ (l : List (BitVec 4 × Nat)) (u : State),
    (l.foldl (movemLoadedBut skip s z x) u).mem = u.mem ∧ (l.foldl (movemLoadedBut skip s z x) u).ctl = u.ctl
  | [], _ => ⟨rfl, rfl⟩
  | q :: l, u => by
    obtain ⟨hmem, hctl⟩ := movemLoadedBut_frame skip s z x u q
    obtain ⟨hmem', hctl'⟩ := foldl_movemLoadedBut_frame skip s z x l (movemLoadedBut skip s z x u q)
    exact ⟨hmem'.trans hmem, hctl'.trans hctl⟩

/-- The loads are made one by one, each from memory as it is before the instruction. -/
theorem movemLoads_flat (h : Flat s) (z : Size) (skip : Option (BitVec 4)) (x : Long) :
    ∀ (rs : List (BitVec 4)) (k : Nat) (u : State), u.mem = s.mem → u.ctl = s.ctl →
    movemLoads u z skip (x + BitVec.ofNat 32 (z.bytes * k)) rs =
      .ok (x + BitVec.ofNat 32 (z.bytes * (k + rs.length))) ((rs.zipIdx k).foldl (movemLoadedBut skip s z x) u)
  | [], _, _, _, _ => rfl
  | r :: rs, k, u, hmem, hctl => by
    have hflat : Flat u := h.of_eq hctl (by rw [hmem]) (by rw [hmem]) (by rw [hmem])
    have hread := hflat.read (x + BitVec.ofNat 32 (z.bytes * k)) z.bytes
    obtain ⟨hmem', hctl'⟩ := movemLoadedBut_frame skip s z x u (r, k)
    have hrest := movemLoads_flat h z skip x rs (k + 1) (movemLoadedBut skip s z x u (r, k)) (hmem'.trans hmem)
      (hctl'.trans hctl)
    have hstep : x + BitVec.ofNat 32 (z.bytes * k) + BitVec.ofNat 32 z.bytes = x + BitVec.ofNat 32 (z.bytes * (k + 1)) := by
      rw [BitVec.add_assoc, ← BitVec.ofNat_add, Nat.mul_succ]
    rw [movemLoads, hread]
    simp only [hstep, hmem]
    rw [List.length_cons, show k + (rs.length + 1) = k + 1 + rs.length by omega]
    exact hrest

/-- Registers that agree once An has been written agree so after the load of a register too. -/
theorem setR_setA_congr {r : BitVec 3} (h : ∀ v, u.setA r v = w.setA r v) (q : BitVec 4) (x v : Long) :
    (u.setR q x).setA r v = (w.setR q x).setA r v := by
  rcases regNumber_cases q with ⟨n, rfl⟩ | ⟨n, rfl⟩
  · rw [setR_data, setR_data]
    exact congrArg (State.setD · n x) (h v)
  · rw [setR_addr, setR_addr]
    by_cases hn : n = r
    · rw [hn, setA_setA_self, setA_setA_self, h]
    · rw [setA_setA_comm _ hn, setA_setA_comm _ hn, h]

/-- An (An)+ load leaves An as its addressing mode does, whether An is loaded before or not (R555). -/
theorem foldl_skip_setA (s : State) (z : Size) (x : Long) (r : BitVec 3) : ∀ (l : List (BitVec 4 × Nat)) (u w : State),
    (∀ v, u.setA r v = w.setA r v) → ∀ v,
    (l.foldl (movemLoadedBut (some (8 + r.zeroExtend 4)) s z x) u).setA r v = (l.foldl (movemLoaded s z x) w).setA r v
  | [], _, _, h, v => h v
  | q :: l, u, w, h, v => by
    refine foldl_skip_setA s z x r l _ _ (fun v => ?_) v
    unfold movemLoadedBut
    split
    case isTrue hq =>
      rw [movemLoaded, ← Option.some.inj hq, setR_addr, setA_setA_self, h]
    case isFalse => exact setR_setA_congr h _ _ v

theorem movemLoad_control (h : Ready s) (hm : s.movemEa = none) (z : Size) (list : BitVec 16) {ea : Ea} (hc : ControlMode ea)
    {x : Long} (hx : Evaluates s ea 0 2 (.mem x) s.a) :
    movemLoad z list ea s = next s (((listRegs list).zipIdx).foldl (movemLoaded s z x) s) (2 + Ea.words 1 ea) := by
  have hload := movemLoads_flat h.flat z none x (listRegs list) 0 s rfl rfl
  rw [Nat.mul_zero, BitVec.add_zero, movemLoadedBut_none] at hload
  unfold movemLoad
  rw [movemBase_control hm hc hx, orAbort_ok]
  cases hc <;> simp only [hload]

theorem movemLoad_post (h : Ready s) (z : Size) (list : BitVec 16) (r : BitVec 3) :
    movemLoad z list (.post r) s = next s ((((listRegs list).zipIdx).foldl (movemLoaded s z (s.getA r)) s).setA r
      (s.getA r + BitVec.ofNat 32 (z.bytes * (listRegs list).length))) 2 := by
  have hload := movemLoads_flat h.flat z (some (8 + r.zeroExtend 4)) (s.getA r) (listRegs list) 0 s rfl rfl
  rw [Nat.mul_zero, BitVec.add_zero, Nat.zero_add] at hload
  rw [movemLoad, movemBase, orAbort_ok, ← foldl_skip_setA s z (s.getA r) r _ s s fun _ => rfl]
  simp only [hload]
  rfl

theorem movemLoaded_flat (h : Flat s) (z : Size) (x : Long) (l : List (BitVec 4 × Nat)) :
    Flat (l.foldl (movemLoaded s z x) s) ∧ (l.foldl (movemLoaded s z x) s).mem = s.mem := by
  obtain ⟨hmem, hctl⟩ := foldl_movemLoadedBut_frame none s z x l s
  rw [movemLoadedBut_none] at hmem hctl
  exact ⟨h.of_eq hctl (by rw [hmem]) (by rw [hmem]) (by rw [hmem]), hmem⟩

/-- MOVEM from a control mode. -/
theorem movemLoad_control_leaves (h : Ready s) (hm : s.movemEa = none) {i : Instr} (z : Size) (list : BitVec 16) {ea : Ea}
    (hexec : exec i s = movemLoad z list ea s) (hc : ControlMode ea) :
    ∃ x, Evaluates s ea 0 2 (.mem x) s.a ∧ Leaves i s (2 + Ea.words 1 ea)
      ((registersOf fun i => list.getLsbD i).zipIdx.foldl (movemLoaded s z x) s) := by
  obtain ⟨x, hx⟩ := control_evaluates h.flat hc 2
  obtain ⟨hflat, hmem⟩ := movemLoaded_flat h.flat z x (listRegs list).zipIdx
  exact ⟨x, hx, leaves_of_next h (hexec.trans (movemLoad_control h hm z list hc hx)) hflat (congrArg (·.ram) hmem)⟩

/-- MOVEM from (An)+. -/
theorem movemLoad_post_leaves (h : Ready s) {i : Instr} (z : Size) (list : BitVec 16) (r : BitVec 3)
    (hexec : exec i s = movemLoad z list (.post r) s) :
    let regs := registersOf fun i => list.getLsbD i
    Leaves i s 2 ((regs.zipIdx.foldl (movemLoaded s z (s.getA r)) s).setA r
      (s.getA r + BitVec.ofNat 32 (z.bytes * regs.length))) := by
  obtain ⟨hflat, hmem⟩ := movemLoaded_flat h.flat z (s.getA r) (listRegs list).zipIdx
  exact leaves_of_next h (hexec.trans (movemLoad_post h z list r)) (hflat.of_eq rfl rfl rfl) (congrArg (·.ram) hmem)

/-- Settles O16: the writes are rows of bytes, the loads a fold over the list. -/
theorem movemMovesTheListedRegisters : Obligations.MovemMovesTheListedRegisters := by
  unfold Obligations.MovemMovesTheListedRegisters
  constructor
  · intro s list ea r h hm p hp
    simp only [List.mem_cons, List.not_mem_nil, or_false] at hp
    rcases hp with rfl | rfl
    · exact ⟨fun hw => movemStore_control_stores h hm .w list rfl (isControl_of_wf (wf_control_of_controlAlt hw)),
        movemStore_pre_stores h .w list r rfl⟩
    · exact ⟨fun hw => movemStore_control_stores h hm .l list rfl (isControl_of_wf (wf_control_of_controlAlt hw)),
        movemStore_pre_stores h .l list r rfl⟩
  · intro s list ea r h hm p hp
    simp only [List.mem_cons, List.not_mem_nil, or_false] at hp
    rcases hp with rfl | rfl
    · exact ⟨fun hw => movemLoad_control_leaves h hm .w list rfl (isControl_of_wf hw), movemLoad_post_leaves h .w list r rfl⟩
    · exact ⟨fun hw => movemLoad_control_leaves h hm .l list rfl (isControl_of_wf hw), movemLoad_post_leaves h .l list r rfl⟩

end Sys2Proof.Machine
end

section
/-! PROOFS. MOVEP: reads and writes of every second byte, most significant first (40_data_movement R556). -/

namespace Sys2Proof.Machine

variable {s : State}

/-! ### Bytes as values -/

/-- One more byte after the bits of a value. -/
theorem shiftLeft_or_byte {m : Nat} (x : BitVec m) (b : Byte) :
    (x.setWidth 32 : Long) <<< 8 ||| b.setWidth 32 = (x ++ b).setWidth 32 := by
  refine BitVec.eq_of_getLsbD_eq fun i hi => ?_
  rw [BitVec.getLsbD_or, BitVec.getLsbD_shiftLeft, BitVec.getLsbD_setWidth, BitVec.getLsbD_setWidth, BitVec.getLsbD_setWidth,
    BitVec.getLsbD_append]
  by_cases h : i < 8
  · simp [h, hi]
  · simp [h, hi, BitVec.getLsbD_of_ge b i (by omega), show i - 8 < 32 by omega]

theorem ofBytes_one (b : Byte) : ofBytes [b] = b.setWidth 32 := by
  simp [ofBytes]

theorem zero_shiftLeft_or_byte (b : Byte) : (0 : Long) <<< 8 ||| b.setWidth 32 = b.setWidth 32 := by
  simp

/-- A word of two bytes put in the low half of a register. -/
theorem merge_word_bytes (v : Long) (x y : Byte) :
    Size.merge .w v ((x ++ y : Word).setWidth 32) = v.extractLsb' 16 16 ++ x ++ y := by
  have hlow : ((x ++ y : Word).setWidth 32 : Long).extractLsb' 0 16 = x ++ y :=
    BitVec.eq_of_getLsbD_eq fun i hi => by simp [hi, show i < 32 by omega, -BitVec.getLsbD_eq_getElem]
  rw [Size.merge, hlow]
  refine BitVec.eq_of_getLsbD_eq fun i hi => ?_
  rw [BitVec.getLsbD_append, BitVec.getLsbD_append, BitVec.getLsbD_append, BitVec.getLsbD_append]
  by_cases h8 : i < 8
  · simp [h8, show i < 16 by omega]
  · by_cases h16 : i < 16
    · simp [h8, h16, show i - 8 < 8 by omega]
    · simp [h8, h16, show ¬ i - 8 < 8 by omega, Nat.sub_sub]

/-! ### The bytes read -/

theorem movepRead_succ (h : Flat s) (a acc : Long) (n : Nat) :
    movepRead s a acc (n + 1) = movepRead s (a + 2) (acc <<< 8 ||| (s.byteAt a).setWidth 32) n := by
  rw [movepRead, h.read, Res.bind_ok, getBytes, getBytes, ofBytes_one, Nat.zero_add]
  rfl

theorem movepRead_two (h : Flat s) (a : Long) :
    movepRead s a 0 2 = .ok ((s.byteAt a ++ s.byteAt (a + 2)).setWidth 32) s := by
  rw [movepRead_succ h, movepRead_succ h, movepRead, zero_shiftLeft_or_byte, shiftLeft_or_byte]

theorem movepRead_four (h : Flat s) (a : Long) : movepRead s a 0 4 =
    .ok (s.byteAt a ++ s.byteAt (a + 2) ++ s.byteAt (a + 4) ++ s.byteAt (a + 6)) s := by
  have h4 : a + 2 + 2 = a + 4 := BitVec.add_assoc a 2 2
  have h6 : a + 4 + 2 = a + 6 := BitVec.add_assoc a 4 2
  rw [movepRead_succ h, movepRead_succ h, movepRead_succ h, movepRead_succ h, movepRead, zero_shiftLeft_or_byte,
    shiftLeft_or_byte, shiftLeft_or_byte, shiftLeft_or_byte, h4, h6, BitVec.setWidth_eq]

theorem movepLoad_leaves (h : Ready s) {i : Instr} {z : Size} {dx ay : BitVec 3} {d : BitVec 16} {v : Long}
    (hread : movepRead s (s.getA ay + d.signExtend 32) 0 z.bytes = .ok v s) (hexec : exec i s = movepLoad z dx ay d s) :
    Leaves i s 2 { s with d := s.d.set dx (z.merge (s.getD dx) v) } := by
  rw [movepLoad, hread, orAbort_ok] at hexec
  exact leaves_registers h hexec

/-! ### The bytes written -/

theorem movepWrites_tt (s : State) (v : Long) : ∀ (n : Nat) (a : Long), ∀ w ∈ movepWrites s a v n, w.acc.tt ≠ 2
  | 0, _, _, hw => absurd hw List.not_mem_nil
  | n + 1, _, w, hw => by
    rcases List.mem_cons.1 hw with rfl | hw
    · exact writeOf_tt s _ _ _
    · exact movepWrites_tt s v n _ w hw

/-- The address of the next byte but one. -/
theorem stride_succ (a : Long) (k : Nat) : a + 2 + BitVec.ofNat 32 (2 * k) = a + BitVec.ofNat 32 (2 * (k + 1)) := by
  rw [Nat.mul_succ, BitVec.ofNat_add]
  bv_omega

/-- Each byte of the value stands at its address, and every other byte is as before. -/
theorem ramAfter_movepWrites (s : State) (v : Long) : ∀ (n : Nat) (ram : List Host.Cell) (a : Long), 2 * n ≤ 2 ^ 32 →
    (∀ b : Long, (∀ k < n, b ≠ a + BitVec.ofNat 32 (2 * k)) →
      cellGet (ramAfter ram (movepWrites s a v n)) b.toNat = cellGet ram b.toNat) ∧
    (cellsWf ram = true → ∀ k < n, cellGet (ramAfter ram (movepWrites s a v n)) (a + BitVec.ofNat 32 (2 * k)).toNat =
      v.extractLsb' (8 * (n - 1 - k)) 8)
  | 0, _, _, _ => ⟨fun _ _ => rfl, fun _ _ hk => absurd hk (Nat.not_lt_zero _)⟩
  | n + 1, ram, a, hn => by
    have hbyte : (v >>> (8 * n)).extractLsb' (8 * 0) 8 = v.extractLsb' (8 * n) 8 := by
      refine BitVec.eq_of_getLsbD_eq fun i hi => ?_
      rw [BitVec.getLsbD_extractLsb', BitVec.getLsbD_extractLsb', BitVec.getLsbD_ushiftRight, Nat.mul_zero, Nat.zero_add]
    have hram : ramAfter ram (movepWrites s a v (n + 1)) =
        ramAfter (cellPut ram a.toNat (v.extractLsb' (8 * n) 8)) (movepWrites s (a + 2) v n) := by
      rw [← hbyte, ← Nat.zero_add a.toNat]
      rfl
    obtain ⟨hsame, hrow⟩ := ramAfter_movepWrites s v n (cellPut ram a.toNat (v.extractLsb' (8 * n) 8)) (a + 2) (by omega)
    rw [hram]
    refine ⟨fun b hb => ?_, fun hwf k hk => ?_⟩
    · have hfirst : b ≠ a := by simpa using hb 0 (Nat.succ_pos n)
      refine (hsame b fun k hk => ?_).trans (cellGet_cellPut_of_ne (fun e => hfirst (BitVec.eq_of_toNat_eq e)) _ ram)
      rw [stride_succ]
      exact hb (k + 1) (Nat.succ_lt_succ hk)
    · cases k with
      | zero =>
        have hkept := hsame a fun k hk => by
          rw [stride_succ]
          bv_omega
        rw [Nat.mul_zero, BitVec.add_zero, hkept]
        exact cellGet_cellPut_self _ hwf
      | succ k =>
        have hlater := hrow (cellPut_wf hwf) k (Nat.lt_of_succ_lt_succ hk)
        rw [stride_succ] at hlater
        rw [hlater, show n + 1 - 1 - (k + 1) = n - 1 - k by omega]

theorem movepWritesOf_stores (h : Ready s) {i : Instr} {z : Size} {dx ay : BitVec 3} {d : BitVec 16}
    (hexec : exec i s = nextWith s s 2 (movepWritesOf z dx ay d s)) :
    let x := s.getA ay + d.signExtend 32
    ∃ t, exec i s = .next t ∧ CompletesAs { s with mem := { s.mem with ram := t.mem.ram } } (s.after 2) t ∧
      (∀ b, (∀ k < z.bytes, b ≠ x + BitVec.ofNat 32 (2 * k)) → t.byteAt b = s.byteAt b) ∧
      (Memory.wf s.mem → ∀ k < z.bytes,
        t.byteAt (x + BitVec.ofNat 32 (2 * k)) = (s.getD dx).extractLsb' (8 * (z.bytes - 1 - k)) 8) := by
  intro x
  obtain ⟨t, hnext, hdone⟩ := nextWith_flat h h.flat 2 (ws := movepWritesOf z dx ay d s) (movepWrites_tt s _ _ _)
  obtain ⟨hdone, hram⟩ := hdone.own_ram (u := s)
  obtain ⟨hsame, hrow⟩ := ramAfter_movepWrites s (s.getD dx) z.bytes s.mem.ram x (by cases z <;> decide)
  rw [show ramAfter s.mem.ram (movepWrites s x (s.getD dx) z.bytes) = t.mem.ram from hram.symm] at hsame hrow
  exact ⟨t, hexec.trans hnext, hdone, hsame, fun hwf => hrow hwf.1⟩

/-- Settles O17: two or four reads or writes of one byte. -/
theorem movepUsesEverySecondByte : Obligations.MovepUsesEverySecondByte := by
  unfold Obligations.MovepUsesEverySecondByte
  intro s dx ay d h x v
  have word := movepLoad_leaves h (i := .movepWD16AyDx dx ay d) (z := .w) (movepRead_two h.flat x) rfl
  rw [merge_word_bytes] at word
  refine ⟨word, movepLoad_leaves h (z := .l) (movepRead_four h.flat x) rfl, fun p hp => ?_⟩
  simp only [List.mem_cons, List.not_mem_nil, or_false] at hp
  rcases hp with rfl | rfl
  · exact movepWritesOf_stores h (z := .w) rfl
  · exact movepWritesOf_stores h (z := .l) rfl

end Sys2Proof.Machine
end

section
/-! PROOFS. Sums, differences and comparisons: what `addN` and `subN` compute, by bits, is the sum and the difference of the
integers that the operands are at a size, with the carry, the borrow and the overflow that the statements name
(41_integer_arithmetic R601, R602). -/

namespace Sys2Proof.Machine

/-! ### Values at a size -/

theorem two_pow_bits (z : Size) : 2 ^ z.bits = 2 * 2 ^ (z.bits - 1) := by cases z <;> rfl

theorem two_pow_bits_dvd (z : Size) : 2 ^ z.bits ∣ 2 ^ 32 := Nat.pow_dvd_pow 2 (by cases z <;> decide)

theorem unsignedAt_lt (z : Size) (v : Long) : unsignedAt z v < 2 * 2 ^ (z.bits - 1) := by
  rw [← two_pow_bits]
  exact Nat.mod_lt _ (Nat.two_pow_pos _)

/-- Two values with the same low bits are the same at a size. -/
theorem signedAt_congr {z : Size} {v w : Long} (h : unsignedAt z v = unsignedAt z w) : signedAt z v = signedAt z w := by
  have hmod : (v.toNat : Int) % ((2 ^ z.bits : Nat) : Int) = (w.toNat : Int) % ((2 ^ z.bits : Nat) : Int) := by
    exact_mod_cast h
  rw [signedAt, signedAt, Int.bmod_def, Int.bmod_def, hmod]

theorem unsignedAt_trunc (z : Size) (v : Long) : unsignedAt z (z.trunc v) = unsignedAt z v := by
  rw [unsignedAt, trunc_toNat, unsignedAt, Nat.mod_mod]

theorem signedAt_trunc (z : Size) (v : Long) : signedAt z (z.trunc v) = signedAt z v := signedAt_congr (unsignedAt_trunc z v)

/-- A number reduced modulo the size is itself at that size. -/
theorem unsignedAt_ofNat_mod (z : Size) (m : Nat) : unsignedAt z (BitVec.ofNat 32 (m % 2 ^ z.bits)) = m % 2 ^ z.bits := by
  rw [unsignedAt, BitVec.toNat_ofNat, Nat.mod_mod_of_dvd _ (two_pow_bits_dvd z), Nat.mod_mod]

/-- The two's complement integer of a number below `2 * h`. -/
def signedOf (h m : Nat) : Int := if m < h then m else m - 2 * h

theorem signedAt_eq_signedOf (z : Size) (v : Long) : signedAt z v = signedOf (2 ^ (z.bits - 1)) (unsignedAt z v) := by
  have hmod : (v.toNat : Int) % ((2 * 2 ^ (z.bits - 1) : Nat) : Int) = (unsignedAt z v : Int) := by
    rw [← two_pow_bits, unsignedAt]
    norm_cast
  rw [signedAt, two_pow_bits, Int.bmod_def, hmod, signedOf]
  generalize 2 ^ (z.bits - 1) = h
  split <;> split <;> omega

theorem signedOf_neg {h m : Nat} (hm : m < 2 * h) : decide (signedOf h m < 0) = decide (h ≤ m) := by
  rw [decide_eq_decide, signedOf]
  split <;> omega

/-- The sign bit of a value at a size. -/
theorem msb_eq_decide (z : Size) (v : Long) : z.msb v = decide (2 ^ (z.bits - 1) ≤ unsignedAt z v) := by
  rw [← negAt_eq_msb, negAt, signedAt_eq_signedOf, signedOf_neg (unsignedAt_lt z v)]

/-- An integer is out of the signed range of a size below its least value or from half the modulus on. -/
theorem not_inSigned (z : Size) (i : Int) :
    (!inSigned z i) = decide (i < -(2 ^ (z.bits - 1) : Nat) ∨ ((2 ^ (z.bits - 1) : Nat) : Int) ≤ i) := by
  rw [inSigned, ← Bool.decide_and, ← decide_not, decide_eq_decide]
  push_cast
  omega

/-! ### Addition -/

/-- Adding two numbers of one sign gives one of the other exactly if the sum of the integers is out of range. -/
theorem sum_overflows_iff {h a b x r : Nat} (ha : a < 2 * h) (hb : b < 2 * h) (hx : x ≤ 1) (hr : r = (a + b + x) % (2 * h)) :
    ((h ≤ a ↔ h ≤ b) ∧ ¬ (h ≤ r ↔ h ≤ b)) ↔
      signedOf h a + signedOf h b + x < -(h : Int) ∨ (h : Int) ≤ signedOf h a + signedOf h b + x := by
  have hr : r = if a + b + x < 2 * h then a + b + x else a + b + x - 2 * h := by
    rw [hr]
    split
    case isTrue hlt => exact Nat.mod_eq_of_lt hlt
    case isFalse hge => rw [Nat.mod_eq_sub_mod (by omega), Nat.mod_eq_of_lt (by omega)]
  unfold signedOf
  split at hr <;> split <;> split <;> omega

theorem addN_r (z : Size) (a b : Long) (x : Bool) : (addN z a b x).r = sumAt z a b x := by
  simp only [addN, sumAt, trunc_toNat]

theorem addN_c (z : Size) (a b : Long) (x : Bool) :
    (addN z a b x).c = decide (2 ^ z.bits ≤ unsignedAt z a + unsignedAt z b + x.toNat) := by
  simp only [addN, trunc_toNat]

theorem addN_v (z : Size) (a b : Long) (x : Bool) :
    (addN z a b x).v = !inSigned z (signedAt z a + signedAt z b + x.toNat) := by
  have hr : unsignedAt z (sumAt z a b x) = (unsignedAt z a + unsignedAt z b + x.toNat) % (2 * 2 ^ (z.bits - 1)) := by
    rw [sumAt, unsignedAt_ofNat_mod, two_pow_bits]
  have hover := sum_overflows_iff (unsignedAt_lt z a) (unsignedAt_lt z b) (Bool.toNat_le x) hr
  rw [not_inSigned, signedAt_eq_signedOf, signedAt_eq_signedOf]
  have hv : (addN z a b x).v = (z.msb a == z.msb b && z.msb (addN z a b x).r != z.msb b) := rfl
  rw [hv, addN_r, msb_eq_decide, msb_eq_decide, msb_eq_decide, Bool.eq_iff_iff, decide_eq_true_eq, ← hover]
  simp only [Bool.and_eq_true, beq_iff_eq, bne_iff_ne, ne_eq, decide_eq_decide]

/-! ### Subtraction -/

/-- The difference modulo the size, as a number. -/
theorem unsignedAt_diffAt (z : Size) (a b : Long) (x : Bool) :
    (unsignedAt z (diffAt z a b x) : Int) = ((unsignedAt z b : Int) - unsignedAt z a - x.toNat) % ((2 ^ z.bits : Nat) : Int) := by
  have hpos : (0 : Int) < ((2 ^ z.bits : Nat) : Int) := by exact_mod_cast Nat.two_pow_pos z.bits
  obtain ⟨n, hn⟩ := Int.eq_ofNat_of_zero_le
    (Int.emod_nonneg ((unsignedAt z b : Int) - unsignedAt z a - x.toNat) (ne_of_gt hpos))
  have hlt : (n : Int) < ((2 ^ z.bits : Nat) : Int) := hn ▸ Int.emod_lt_of_pos _ hpos
  have hmod : n % 2 ^ z.bits = n := Nat.mod_eq_of_lt (by exact_mod_cast hlt)
  have hdiff : diffAt z a b x = BitVec.ofNat 32 (n % 2 ^ z.bits) := by
    rw [diffAt, show ((2 : Int) ^ z.bits) = ((2 ^ z.bits : Nat) : Int) by norm_cast, hn, hmod, BitVec.ofInt_natCast]
  rw [hdiff, unsignedAt_ofNat_mod, hmod, hn]

/-- Subtracting a number of the other sign gives one of that sign exactly if the difference of the integers is out of range. -/
theorem diff_overflows_iff {h a b x r : Nat} (ha : a < 2 * h) (hb : b < 2 * h) (hx : x ≤ 1)
    (hr : (r : Int) = ((b : Int) - a - x) % ((2 * h : Nat) : Int)) :
    (¬ (h ≤ a ↔ h ≤ b) ∧ ¬ (h ≤ r ↔ h ≤ b)) ↔
      signedOf h b - signedOf h a - x < -(h : Int) ∨ (h : Int) ≤ signedOf h b - signedOf h a - x := by
  have hr : (r : Int) = if b < a + x then (b : Int) - a - x + 2 * h else (b : Int) - a - x := by
    rw [hr]
    split
    case isTrue hlt => rw [← Int.add_emod_right, Int.emod_eq_of_lt (by omega) (by omega)]; push_cast; rfl
    case isFalse hge => exact Int.emod_eq_of_lt (by omega) (by omega)
  unfold signedOf
  split at hr <;> split <;> split <;> omega

theorem subN_r (z : Size) (a b : Long) (x : Bool) : (subN z a b x).r = diffAt z a b x := by
  have hpos : (0 : Int) < (2 : Int) ^ z.bits := by positivity
  simp only [subN, diffAt, trunc_toNat]
  rw [← BitVec.ofInt_natCast, Int.toNat_of_nonneg (Int.emod_nonneg _ (ne_of_gt hpos))]

theorem subN_c (z : Size) (a b : Long) (x : Bool) : (subN z a b x).c = borrowAt z a b x := by
  simp only [subN, borrowAt, trunc_toNat, decide_eq_decide]
  omega

theorem subN_v (z : Size) (a b : Long) (x : Bool) : (subN z a b x).v = underAt z a b x := by
  have hr := unsignedAt_diffAt z a b x
  rw [two_pow_bits] at hr
  have hover := diff_overflows_iff (unsignedAt_lt z a) (unsignedAt_lt z b) (Bool.toNat_le x) hr
  rw [underAt, not_inSigned, signedAt_eq_signedOf, signedAt_eq_signedOf]
  have hv : (subN z a b x).v = (z.msb a != z.msb b && z.msb (subN z a b x).r != z.msb b) := rfl
  rw [hv, subN_r, msb_eq_decide, msb_eq_decide, msb_eq_decide, Bool.eq_iff_iff, decide_eq_true_eq, ← hover]
  simp only [Bool.and_eq_true, bne_iff_ne, ne_eq, decide_eq_decide]

/-! ### Operations as functions of the status register and the operands -/

/-- An operation whose result is `r` and whose status register is `g`, of the status register before and the operands at the
size `z`; it changes nothing else. -/
structure Computes (z : Size) (f : State → Long → Long → State × Long) (r : Word → Long → Long → Long)
    (g : Word → Long → Long → Word) : Prop where
  eq : ∀ u a b, f u a b = ({ u with sr := g u.sr a b }, r u.sr a b)
  result : ∀ sr a b, r sr (z.trunc a) (z.trunc b) = r sr a b
  status : ∀ sr a b, g sr (z.trunc a) (z.trunc b) = g sr a b

theorem sumAt_trunc (z : Size) (a b : Long) (x : Bool) : sumAt z (z.trunc a) (z.trunc b) x = sumAt z a b x := by
  simp only [sumAt, unsignedAt_trunc]

theorem sumSr_trunc (sr : Word) (z : Size) (a b : Long) (x sticky : Bool) :
    sumSr sr z (z.trunc a) (z.trunc b) x sticky = sumSr sr z a b x sticky := by
  simp only [sumSr, sumAt_trunc, unsignedAt_trunc, signedAt_trunc]

theorem diffAt_trunc (z : Size) (a b : Long) (x : Bool) : diffAt z (z.trunc a) (z.trunc b) x = diffAt z a b x := by
  simp only [diffAt, unsignedAt_trunc]

theorem diffSr_trunc (sr : Word) (z : Size) (a b : Long) (x sticky : Bool) :
    diffSr sr z (z.trunc a) (z.trunc b) x sticky = diffSr sr z a b x sticky := by
  simp only [diffSr, diffAt_trunc, borrowAt, underAt, unsignedAt_trunc, signedAt_trunc]

theorem setArith_add (u : State) (z : Size) (a b : Long) (x : Bool) :
    u.setArith z (addN z a b x) = { u with sr := sumSr u.sr z a b x false } := by
  rw [setArith_eq, ← negAt_eq_msb, ← zeroAt_eq_isZero, addN_r, addN_c, addN_v, sumSr, Bool.not_false, Bool.true_or, Bool.and_true]
  rfl

theorem setArithX_add (u : State) (z : Size) (a b : Long) (x : Bool) :
    u.setArithX z (addN z a b x) = { u with sr := sumSr u.sr z a b x true } := by
  rw [setArithX_eq, ← negAt_eq_msb, ← zeroAt_eq_isZero, addN_r, addN_c, addN_v, sumSr, Bool.not_true, Bool.false_or, Bool.and_comm]
  rfl

theorem setArith_sub (u : State) (z : Size) (a b : Long) (x : Bool) :
    u.setArith z (subN z a b x) = { u with sr := diffSr u.sr z a b x false } := by
  rw [setArith_eq, ← negAt_eq_msb, ← zeroAt_eq_isZero, subN_r, subN_c, subN_v, diffSr, Bool.not_false, Bool.true_or, Bool.and_true]
  rfl

theorem setArithX_sub (u : State) (z : Size) (a b : Long) (x : Bool) :
    u.setArithX z (subN z a b x) = { u with sr := diffSr u.sr z a b x true } := by
  rw [setArithX_eq, ← negAt_eq_msb, ← zeroAt_eq_isZero, subN_r, subN_c, subN_v, diffSr, Bool.not_true, Bool.false_or, Bool.and_comm]
  rfl

/-- A comparison sets the flags of the difference, X excepted (R630). -/
theorem compareOp_eq (z : Size) (u : State) (a b : Long) : compareOp z u a b = { u with sr := compareSr u.sr z a b } := by
  rw [compareOp, setCompare_eq, ← negAt_eq_msb, ← zeroAt_eq_isZero, subN_r, subN_c, subN_v]
  rfl

theorem addOp_computes (z : Size) :
    Computes z (addOp z) (fun _ a b => sumAt z a b false) (fun sr a b => sumSr sr z a b false false) where
  eq u a b := by rw [addOp, setArith_add, addN_r]
  result _ a b := sumAt_trunc z a b false
  status sr a b := sumSr_trunc sr z a b false false

theorem subOp_computes (z : Size) :
    Computes z (subOp z) (fun _ a b => diffAt z a b false) (fun sr a b => diffSr sr z a b false false) where
  eq u a b := by rw [subOp, setArith_sub, subN_r]
  result _ a b := diffAt_trunc z a b false
  status sr a b := diffSr_trunc sr z a b false false

theorem addxOp_computes (z : Size) :
    Computes z (addxOp z) (fun sr a b => sumAt z a b (srX sr)) (fun sr a b => sumSr sr z a b (srX sr) true) where
  eq u a b := by rw [addxOp, setArithX_add, addN_r]; rfl
  result sr a b := sumAt_trunc z a b (srX sr)
  status sr a b := sumSr_trunc sr z a b (srX sr) true

theorem subxOp_computes (z : Size) :
    Computes z (subxOp z) (fun sr a b => diffAt z a b (srX sr)) (fun sr a b => diffSr sr z a b (srX sr) true) where
  eq u a b := by rw [subxOp, setArithX_sub, subN_r]; rfl
  result sr a b := diffAt_trunc z a b (srX sr)
  status sr a b := diffSr_trunc sr z a b (srX sr) true

end Sys2Proof.Machine
end

section
/-! PROOFS. The instructions that compute with operands of one size: ADD, SUB, NEG and their immediate, quick and extended forms,
and the comparisons (41_integer_arithmetic R610 to R633, R641, R642; 47_program_control R936). -/

namespace Sys2Proof.Machine

variable {s u w : State} {i : Instr} {z : Size} {ea : Ea} {f : State → Long → Long → State × Long}
  {r : Word → Long → Long → Long} {g : Word → Long → Long → Word}

/-! ### The shapes of instructions -/

theorem Near.flat (hn : Near u w) (h : Flat u) : Flat w := by
  obtain ⟨p, k, rfl⟩ := hn
  exact h.of_eq rfl rfl rfl

theorem Near.ram (hn : Near u w) : w.mem.ram = u.mem.ram := by
  obtain ⟨p, k, rfl⟩ := hn
  rfl

/-- An instruction that changes registers and flags, and may draw free values. -/
theorem leaves_near (h : Ready s) {n : Nat} {d : Bank Long} {a : AddrRegs} {sr : Word} (hexec : exec i s = next s w n)
    (hn : Near { s with d := d, a := a, sr := sr } w) : Leaves i s n { s with d := d, a := a, sr := sr } :=
  (leaves_of_next h hexec (hn.flat (h.flat.of_eq rfl rfl rfl)) hn.ram).of_near hn

/-- What an instruction that reads one operand does after the read. -/
theorem Reads.orAbort_eq {pre : Nat} {l : Loc} {v : Long} {a : AddrRegs} (hread : Reads s z ea pre l v a)
    (k : Loc × Long → State → Out) : orAbort s (readEa s z ea pre s.pc) k = k (l, v) (s.withA a) := by
  rw [show readEa s z ea pre s.pc = _ from hread, orAbort_ok]

/-- Every operand can be read, so an instruction that leaves a state for each operand leaves one. -/
theorem leavesFrom_of_reads (h : Ready s) {pre : Nat} {u : Long → AddrRegs → State}
    (hleaves : ∀ l v a, Reads s z ea pre l v a → Leaves i s (eaLength pre z ea) (u v a)) : LeavesFrom i s z ea pre u := by
  obtain ⟨l, v, a, hread⟩ := readEa_flat h.flat z ea pre s.pc
  obtain ⟨t, hexec, hdone, hsame⟩ := hleaves l v a hread
  exact ⟨l, v, a, t, hread, hexec, hdone, hsame⟩

/-- `<ea> op Dn → Dn`. -/
theorem Computes.putsInDn (hf : Computes z f r g) (h : Ready s) {dn : BitVec 3} (hexec : exec i s = eaToDn s z ea dn f) :
    PutsInDn i s z ea dn (r s.sr) (g s.sr) := by
  obtain ⟨l, v, a, hread⟩ := readEa_flat h.flat z ea 1 s.pc
  have htrunc : z.trunc (z.trunc (s.getD dn)) = z.trunc (s.getD dn) :=
    BitVec.eq_of_toNat_eq (by rw [trunc_toNat, unsignedAt_trunc, trunc_toNat])
  have hresult : r s.sr v (z.trunc (s.getD dn)) = r s.sr v (s.getD dn) := by
    rw [← hf.result, htrunc, hf.result]
  have hstatus : g s.sr v (z.trunc (s.getD dn)) = g s.sr v (s.getD dn) := by
    rw [← hf.status, htrunc, hf.status]
  have hnext : exec i s = next s (s.put a (g s.sr v (s.getD dn)) z (.d dn) (r s.sr v (s.getD dn))) (eaLength 1 z ea) := by
    rw [hexec, eaToDn, Reads.orAbort_eq hread, ← hresult, ← hstatus]
    simp only [hf.eq]
    rfl
  obtain ⟨t, hdone⟩ := leaves_of_next h hnext (h.flat.of_eq rfl rfl rfl) rfl
  exact ⟨l, v, a, t, hread, hdone⟩

/-- `op <ea>`, read and written back. -/
theorem Computes.putsBack (hf : Computes z f r g) (h : Ready s) {pre : Nat} {src : Long}
    (hexec : exec i s = modifyEa s z ea pre src f) : PutsBack i s z ea pre (r s.sr src) (g s.sr src) := by
  obtain ⟨l, v, a, hread⟩ := readEa_flat h.flat z ea pre s.pc
  obtain ⟨t, hnext, hdone⟩ := nextWith_putLoc h a (g s.sr src v) z l (r s.sr src v) (eaLength pre z ea)
  refine ⟨l, v, a, t, hread, ?_, hdone⟩
  rw [hexec, modifyEa, Reads.orAbort_eq hread]
  simp only [hf.eq]
  exact hnext

/-- `op Ry,Rx` between data registers. -/
theorem Computes.leaves_registers (hf : Computes z f r g) (h : Ready s) {rx ry : BitVec 3}
    (hexec : exec i s = extended s z rx false ry 1 f) :
    Leaves i s 1 (s.put s.a (g s.sr (s.getD ry) (s.getD rx)) z (.d rx) (r s.sr (s.getD ry) (s.getD rx))) := by
  refine leaves_of_next h ?_ (h.flat.of_eq rfl rfl rfl) rfl
  rw [hexec, extended, if_neg Bool.false_ne_true, hf.eq, hf.result, hf.status]
  rfl

theorem reads_pre (h : Flat s) (z : Size) (n : BitVec 3) (pc : Long) :
    readEa s z (.pre n) 1 pc = .ok (.mem (s.getA n - stepOf z.bytes n), s.valueAt (s.getA n - stepOf z.bytes n) z.bytes)
      (s.setA n (s.getA n - stepOf z.bytes n)) := by
  have hmoved : Flat (s.setA n (s.getA n - stepOf z.bytes n)) := h.of_eq rfl rfl rfl
  rw [readEa, evalEa, Res.bind_ok, readLoc, hmoved.read, Res.bind_ok]
  rfl

theorem reads_post (h : Flat s) (z : Size) (n : BitVec 3) (pc : Long) :
    readEa s z (.post n) 1 pc = .ok (.mem (s.getA n), s.valueAt (s.getA n) z.bytes)
      (s.setA n (s.getA n + stepOf z.bytes n)) := by
  have hmoved : Flat (s.setA n (s.getA n + stepOf z.bytes n)) := h.of_eq rfl rfl rfl
  rw [readEa, evalEa, Res.bind_ok, readLoc, hmoved.read, Res.bind_ok]
  rfl

/-- One write, of a result with its flags. -/
theorem storesAndReaches_flags (h : Ready s) {n k : Nat} {a : AddrRegs} {sr : Word} {x v : Long} (hk : k ≤ 16)
    (hexec : exec i s = nextWith s { s with a := a, sr := sr } n [State.writeOf { s with a := a, sr := sr } x k v]) :
    StoresAndReaches i s { s with a := a, sr := sr } (s.after n) x k v := by
  obtain ⟨t, hnext, hdone⟩ := nextWith_flat h (s := { s with a := a, sr := sr }) (h.flat.of_eq rfl rfl rfl) n
    (List.forall_mem_singleton.2 (writeOf_tt { s with a := a, sr := sr } x k v))
  exact ⟨t, hexec.trans hnext, hdone, storesAt_of_ram hk hdone.ram⟩

/-- `op -(Ay),-(Ax)`: the source is addressed and read first (R466). -/
theorem Computes.stores_predecremented (hf : Computes z f r g) (h : Ready s) {rx ry : BitVec 3}
    (hexec : exec i s = extended s z rx true ry 1 f) :
    let y := s.getA ry - stepOf z.bytes ry
    let a := s.a.set s.sr ry y
    let x := a.get s.sr rx - stepOf z.bytes rx
    StoresAndReaches i s { s with a := a.set s.sr rx x, sr := g s.sr (s.valueAt y z.bytes) (s.valueAt x z.bytes) } (s.after 1)
      x z.bytes (r s.sr (s.valueAt y z.bytes) (s.valueAt x z.bytes)) := by
  intro y a x
  refine storesAndReaches_flags h ((size_bytes_le z).trans (by decide)) ?_
  have hmoved : Flat (s.setA ry (s.getA ry - stepOf z.bytes ry)) := h.flat.of_eq rfl rfl rfl
  rw [hexec, extended, if_pos rfl, reads_pre h.flat, Res.bind_ok]
  simp only [reads_pre hmoved, Res.bind_ok, orAbort_ok, hf.eq]
  rfl

/-! ### Addition and subtraction (R610 to R624, R641, R642) -/

/-- ADDQ and SUBQ to anything but an address register. -/
theorem quickOp_of_ne_an (hea : ∀ n, ea ≠ .an n) (q : BitVec 3) (fa : Long → Long → Long) :
    quickOp z q ea fa f s = modifyEa s z ea 1 (quickAt q) f := by
  cases ea with
  | an n => exact absurd rfl (hea n)
  | _ => rfl

/-- Settles O21: `addOp` on a register or on an operand read and written back. -/
theorem addInstructionsAdd : Obligations.AddInstructionsAdd := by
  unfold Obligations.AddInstructionsAdd
  intro s dn ea b w l q h
  refine ⟨?_, ?_, fun hea => ?_⟩
  · intro p hp
    simp only [List.mem_cons, List.not_mem_nil, or_false] at hp
    rcases hp with rfl | rfl | rfl <;> exact (addOp_computes _).putsInDn h rfl
  · intro p hp
    simp only [List.mem_cons, List.not_mem_nil, or_false] at hp
    rcases hp with rfl | rfl | rfl | rfl | rfl | rfl <;> exact (addOp_computes _).putsBack h rfl
  · intro p hp
    simp only [List.mem_cons, List.not_mem_nil, or_false] at hp
    rcases hp with rfl | rfl | rfl <;> exact (addOp_computes _).putsBack h (quickOp_of_ne_an hea q _)

/-- Zero minus the operand, whatever the source. -/
theorem negOp_computes (z : Size) :
    Computes z (negOp z) (fun _ _ b => diffAt z b 0 false) (fun sr _ b => diffSr sr z b 0 false false) where
  eq u _ b := (subOp_computes z).eq u b 0
  result _ _ b := by simp only [diffAt, unsignedAt_trunc]
  status sr _ b := by simp only [diffSr, diffAt, borrowAt, underAt, unsignedAt_trunc, signedAt_trunc]

theorem negxOp_computes (z : Size) :
    Computes z (negxOp z) (fun sr _ b => diffAt z b 0 (srX sr)) (fun sr _ b => diffSr sr z b 0 (srX sr) true) where
  eq u _ b := (subxOp_computes z).eq u b 0
  result _ _ b := by simp only [diffAt, unsignedAt_trunc]
  status sr _ b := by simp only [diffSr, diffAt, borrowAt, underAt, unsignedAt_trunc, signedAt_trunc]

/-- Settles O22: `subOp` on a register or on an operand read and written back. -/
theorem subtractInstructionsSubtract : Obligations.SubtractInstructionsSubtract := by
  unfold Obligations.SubtractInstructionsSubtract
  intro s dn ea b w l q h
  refine ⟨?_, ?_, fun hea => ?_, ?_⟩
  · intro p hp
    simp only [List.mem_cons, List.not_mem_nil, or_false] at hp
    rcases hp with rfl | rfl | rfl <;> exact (subOp_computes _).putsInDn h rfl
  · intro p hp
    simp only [List.mem_cons, List.not_mem_nil, or_false] at hp
    rcases hp with rfl | rfl | rfl | rfl | rfl | rfl <;> exact (subOp_computes _).putsBack h rfl
  · intro p hp
    simp only [List.mem_cons, List.not_mem_nil, or_false] at hp
    rcases hp with rfl | rfl | rfl <;> exact (subOp_computes _).putsBack h (quickOp_of_ne_an hea q _)
  · intro p hp
    simp only [List.mem_cons, List.not_mem_nil, or_false] at hp
    rcases hp with rfl | rfl | rfl <;> exact (negOp_computes _).putsBack h (src := 0) rfl

/-- Settles O23: X is the carry or the borrow in, and Z is cleared only; the memory forms read by one predecrement after the
other. -/
theorem extendedArithmeticUsesX : Obligations.ExtendedArithmeticUsesX := by
  unfold Obligations.ExtendedArithmeticUsesX
  intro s rx ry ea h x
  refine ⟨?_, ?_, ?_, ?_⟩
  · intro p hp
    simp only [List.mem_cons, List.not_mem_nil, or_false] at hp
    rcases hp with rfl | rfl | rfl <;> exact (addxOp_computes _).leaves_registers h rfl
  · intro p hp
    simp only [List.mem_cons, List.not_mem_nil, or_false] at hp
    rcases hp with rfl | rfl | rfl <;> exact (subxOp_computes _).leaves_registers h rfl
  · intro p hp
    simp only [List.mem_cons, List.not_mem_nil, or_false] at hp
    rcases hp with rfl | rfl | rfl | rfl | rfl | rfl
    · exact (addxOp_computes .b).stores_predecremented h rfl
    · exact (addxOp_computes .w).stores_predecremented h rfl
    · exact (addxOp_computes .l).stores_predecremented h rfl
    · exact (subxOp_computes .b).stores_predecremented h rfl
    · exact (subxOp_computes .w).stores_predecremented h rfl
    · exact (subxOp_computes .l).stores_predecremented h rfl
  · intro p hp
    simp only [List.mem_cons, List.not_mem_nil, or_false] at hp
    rcases hp with rfl | rfl | rfl <;> exact (negxOp_computes _).putsBack h (src := 0) rfl

/-! ### Comparison (R630 to R633, R936) -/

/-- An instruction that sets flags from the operand it reads. -/
theorem testEa_leavesFrom (h : Ready s) {pre : Nat} {f : State → Long → State} {sr : Long → Word}
    (hexec : exec i s = testEa s z ea pre f) (hf : ∀ a v, f (s.withA a) v = { s with a := a, sr := sr v }) :
    LeavesFrom i s z ea pre fun v a => { s with a := a, sr := sr v } :=
  leavesFrom_of_reads h fun l v a hread => leaves_registers h (by
    rw [hexec, testEa, hread.orAbort_eq]
    exact congrArg (next s · _) (hf a v))

/-- An instruction that compares a source and a destination, `src` and `dst` of the operand it reads. -/
theorem compareEa_leavesFrom (h : Ready s) {y : Size} {pre : Nat} {src dst : State → Long → Long}
    (hexec : exec i s = testEa s z ea pre fun u v => compareOp y u (src u v) (dst u v))
    (hsrc : ∀ a v, src (s.withA a) v = src s v) (hdst : ∀ a v, dst (s.withA a) v = dst s v) :
    LeavesFrom i s z ea pre fun v a => { s with a := a, sr := compareSr s.sr y (src s v) (dst s v) } :=
  testEa_leavesFrom h hexec fun a v => by rw [hsrc, hdst, compareOp_eq]

/-- CMPM: the source is addressed and read first. -/
theorem compareMem_leaves (h : Ready s) {ax ay : BitVec 3} (hexec : exec i s = compareMem z ax ay s) :
    let a := s.a.set s.sr ay (s.getA ay + stepOf z.bytes ay)
    let x := a.get s.sr ax
    Leaves i s 1 { s with
      a := a.set s.sr ax (x + stepOf z.bytes ax)
      sr := compareSr s.sr z (s.valueAt (s.getA ay) z.bytes) (s.valueAt x z.bytes) } := by
  intro a x
  have hmoved : Flat (s.setA ay (s.getA ay + stepOf z.bytes ay)) := h.flat.of_eq rfl rfl rfl
  refine leaves_registers h ?_
  rw [hexec, compareMem, reads_post h.flat, Res.bind_ok, reads_post hmoved, Res.bind_ok, orAbort_ok, compareOp_eq]
  rfl

/-- Settles O24: the operands are read and nothing is written. -/
theorem compareInstructionsSetFlagsOnly : Obligations.CompareInstructionsSetFlagsOnly := by
  unfold Obligations.CompareInstructionsSetFlagsOnly
  intro s dn ax ay ea b w l h
  refine ⟨?_, ?_, ?_, ?_, ?_⟩
  · intro p hp
    simp only [List.mem_cons, List.not_mem_nil, or_false] at hp
    rcases hp with rfl | rfl | rfl <;>
      exact compareEa_leavesFrom h (src := fun _ v => v) (dst := fun u _ => u.getD dn) rfl (fun _ _ => rfl) fun _ _ => rfl
  · intro p hp
    simp only [List.mem_cons, List.not_mem_nil, or_false] at hp
    rcases hp with rfl | rfl | rfl <;>
      exact compareEa_leavesFrom h (src := fun _ _ => _) (dst := fun _ v => v) rfl (fun _ _ => rfl) fun _ _ => rfl
  · intro p hp
    simp only [List.mem_cons, List.not_mem_nil, or_false] at hp
    rcases hp with rfl | rfl <;>
      exact compareEa_leavesFrom h (src := fun _ v => Size.sext _ v) (dst := fun _ _ => s.getA dn) rfl (fun _ _ => rfl)
        fun _ _ => rfl
  · intro p hp
    simp only [List.mem_cons, List.not_mem_nil, or_false] at hp
    rcases hp with rfl | rfl | rfl <;> exact testEa_leavesFrom h rfl fun a v => setLogic_eq_logicSr (s.withA a) _ v
  · intro p hp
    simp only [List.mem_cons, List.not_mem_nil, or_false] at hp
    rcases hp with rfl | rfl | rfl <;> exact compareMem_leaves h rfl

end Sys2Proof.Machine
end

section
/-! PROOFS. The traps that complete an instruction, and the checks of bounds: CMP2, CHK2 and CHK (41_integer_arithmetic R634;
48_system_control R991, R992; 60_exceptions R1115; 90_conflicts C43). -/

namespace Sys2Proof.Machine

variable {s u w : State} {i : Instr} {z : Size} {ea : Ea}

/-! ### Traps (R1115) -/

/-- The trace that an instruction which changes the flow leaves. -/
theorem traceAfter_traced (sr : Word) (m : MemSys) (pc : Long) : TraceAfter sr pc (if traced sr m true then some pc else none) := by
  unfold TraceAfter traced
  cases sr.getLsbD 15 <;> cases sr.getLsbD 14 <;> simp only [Bool.false_eq_true, if_false, if_true]
  split
  · exact .inl rfl
  · split <;> exact .inr rfl

theorem TraceAfter.congr {sr sr' : Word} {pc : Long} {tr : Option Long} (h : TraceAfter sr pc tr)
    (h15 : sr'.getLsbD 15 = sr.getLsbD 15) (h14 : sr'.getLsbD 14 = sr.getLsbD 14) : TraceAfter sr' pc tr := by
  unfold TraceAfter
  rw [h15, h14]
  exact h

theorem settleTrace_near (s u : State) (flow : Bool) : ∃ k, s.settleTrace u flow =
    { u with trace := if traced s.sr u.mem flow then some s.pc else none, mem := { u.mem with draws := k } } := by
  unfold State.settleTrace
  split
  · exact ⟨_, rfl⟩
  · exact ⟨u.mem.draws, rfl⟩

/-- An exception taken with a trace pending is one taken without, and the trace then pending again. -/
theorem Takes.traced {pc : Long} {tr : Option Long} {v : State} {vector : BitVec 8} {format : BitVec 4} {spc : Long}
    {extra : List Byte} {t : State} (hv : ∃ p k, v = { u with trace := tr, mem := { u.mem with stale := p, draws := k } })
    (htr : TraceAfter u.sr pc tr) (h : Takes v vector format spc extra t) :
    TakesTraced pc u vector format spc extra { t with trace := tr } := by
  have hhandler : handlerOf v vector format spc extra = handlerOf u vector format spc extra := by
    obtain ⟨p, k, rfl⟩ := hv
    rfl
  rw [Takes, hhandler] at h
  unfold TakesTraced
  split at h
  case isTrue hodd => rwa [if_pos hodd]
  case isFalse heven =>
    rw [if_neg heven]
    obtain ⟨p, k, rfl⟩ := hv
    obtain ⟨⟨p, k, q, hq, rfl⟩, hsame, hbytes⟩ := h
    exact ⟨tr, htr, ⟨p, k, q, hq, rfl⟩, hsame, hbytes⟩

/-- A trap by which an instruction completes, `u` being the state that it leaves. -/
theorem trapNext_takes (hu : Flat u) (hn : Near u w) (h15 : u.sr.getLsbD 15 = s.sr.getLsbD 15)
    (h14 : u.sr.getLsbD 14 = s.sr.getLsbD 14) (vector : BitVec 8) (k : Nat) :
    ∃ t, trapNext s w vector k = .next t ∧ TakesTraced s.pc u vector 2 (s.after k) (toBytes s.pc 4) t := by
  obtain ⟨draws, hsettled⟩ := settleTrace_near s w true
  have hw : Flat w := hn.flat hu
  have hflat : Flat (s.settleTrace w true) := by
    rw [hsettled]
    exact hw.of_eq rfl rfl rfl
  obtain ⟨htakes, -⟩ := takeException_takes hflat (frameFields_two s.pc) (s.after k) vector
  have htrace := (traceAfter_traced s.sr w.mem s.pc).congr h15 h14
  have hsame : ∃ p k, s.settleTrace w true = { u with
      trace := if traced s.sr w.mem true then some s.pc else none, mem := { u.mem with stale := p, draws := k } } := by
    obtain ⟨p, k, hnear⟩ := hn
    exact ⟨p, draws, by rw [hsettled, hnear]⟩
  refine ⟨_, ?_, htakes.traced hsame htrace⟩
  rw [trapNext, tracedTrap, ownTrap, if_neg (by simp [MemSys.givesUp, hw.push]), hsettled]
  rfl

/-- A trap of an instruction that has set flags. -/
theorem trapNext_takesTraced (h : Ready s) {vector : BitVec 8} {k : Nat} {a : AddrRegs} {x n y v c : Bool}
    (hexec : exec i s = trapNext s w vector k) (hn : Near { s with a := a, sr := withCcr s.sr x n y v c } w) :
    ∃ t, exec i s = .next t ∧
      TakesTraced s.pc { s with a := a, sr := withCcr s.sr x n y v c } vector 2 (s.after k) (toBytes s.pc 4) t := by
  have hflat : Flat { s with a := a, sr := withCcr s.sr x n y v c } := h.flat.of_eq rfl rfl rfl
  rw [hexec]
  exact trapNext_takes hflat hn (setXNZVC_high s x n y v c 15 (by decide))
    (setXNZVC_high s x n y v c 14 (by decide)) vector k

/-! ### CHK (R991) -/

/-- A sign-extended operand is the integer that it is at its size. -/
theorem toInt_sext (z : Size) (v : Long) : (z.sext v).toInt = signedAt z v := by
  have hlow : ∀ n, n ≤ 32 → ((v.extractLsb' 0 n).signExtend 32 : Long).toInt = (v.toNat : Int).bmod (2 ^ n) := fun n hn => by
    rw [BitVec.toInt_signExtend_of_le hn, BitVec.toInt_eq_toNat_bmod, BitVec.extractLsb'_toNat, Nat.shiftRight_zero]
    push_cast
    exact_mod_cast Int.emod_bmod (v.toNat : Int) (2 ^ n)
  cases z
  · exact hlow 8 (by decide)
  · exact hlow 16 (by decide)
  · exact BitVec.toInt_eq_toNat_bmod v

/-- CHK takes its trap or goes on by where Dn lies, with flags that are free but for N where it traps. -/
theorem checkBound_outcomes (h : Ready s) {dn : BitVec 3} (hexec : exec i s = checkBound z dn ea s) :
    ∃ l v a n y o c, Reads s z ea 1 l v a ∧
      (let d := signedAt z (s.getD dn)
       let u (n : Bool) : State := { s with a := a, sr := withCcr s.sr (srX s.sr) n y o c }
       (0 ≤ d ∧ d ≤ signedAt z v → Leaves i s (eaLength 1 z ea) (u n)) ∧
       (d < 0 → ∃ t, exec i s = .next t ∧ TakesTraced s.pc (u true) 6 2 (s.after (eaLength 1 z ea)) (toBytes s.pc 4) t) ∧
       (0 ≤ d ∧ signedAt z v < d →
         ∃ t, exec i s = .next t ∧ TakesTraced s.pc (u false) 6 2 (s.after (eaLength 1 z ea)) (toBytes s.pc 4) t)) := by
  obtain ⟨l, v, a, hread⟩ := readEa_flat h.flat z ea 1 s.pc
  let free : BitVec 4 := (s.draw 4).1
  let sr (n : Option Bool) : Word :=
    withCcr s.sr (srX s.sr) (n.getD (free.getLsbD 3)) (free.getLsbD 2) (free.getLsbD 1) (free.getLsbD 0)
  have hchecked : ∀ n, Near { s with a := a, sr := sr n } ((s.withA a).setCheck n) := fun n =>
    ⟨s.mem.stale, s.mem.draws + 1, rfl⟩
  rw [checkBound, Reads.orAbort_eq hread] at hexec
  simp only [toInt_sext] at hexec
  have hdn : (s.withA a).getD dn = s.getD dn := rfl
  rw [hdn] at hexec
  refine ⟨l, v, a, free.getLsbD 3, free.getLsbD 2, free.getLsbD 1, free.getLsbD 0, hread, ?_, ?_, ?_⟩
  · intro hin
    rw [if_neg (by omega), if_neg (by omega)] at hexec
    exact leaves_near h hexec (hchecked none)
  · intro hneg
    rw [if_pos hneg] at hexec
    exact trapNext_takesTraced h hexec (hchecked (some true))
  · intro habove
    rw [if_neg (by omega), if_pos habove.2] at hexec
    exact trapNext_takesTraced h hexec (hchecked (some false))

/-! ### CMP2 and CHK2 (R634, R992) -/

theorem ofBytes_concat (bs : List Byte) (b : Byte) : ofBytes (bs ++ [b]) = ofBytes bs <<< 8 ||| b.zeroExtend 32 := by
  rw [ofBytes, List.foldl_append]
  rfl

/-- The value of some bytes fits in their bits. -/
theorem ofBytes_lt (bs : List Byte) : (ofBytes bs).toNat < 2 ^ (8 * bs.length) := by
  induction bs using List.reverseRecOn with
  | nil => decide
  | append_singleton bs b ih =>
    have hshift : (ofBytes bs <<< 8).toNat < 2 ^ (8 * bs.length + 8) := by
      rw [BitVec.toNat_shiftLeft, Nat.shiftLeft_eq, Nat.pow_add]
      exact (Nat.mod_le _ _).trans_lt (Nat.mul_lt_mul_of_pos_right ih (by decide))
    have hbyte : (b.zeroExtend 32 : Long).toNat < 2 ^ (8 * bs.length + 8) := by
      rw [BitVec.toNat_setWidth]
      exact (Nat.mod_le _ _).trans_lt (b.isLt.trans_le (Nat.pow_le_pow_right (by decide) (Nat.le_add_left _ _)))
    rw [ofBytes_concat, BitVec.toNat_or, List.length_append, List.length_singleton, Nat.mul_succ]
    exact Nat.or_lt_two_pow hshift hbyte

/-- An operand read from memory is zero-extended. -/
theorem trunc_valueAt (s : State) (z : Size) (x : Long) : z.trunc (s.valueAt x z.bytes) = s.valueAt x z.bytes := by
  have hlt := ofBytes_lt (s.bytesAt x z.bytes)
  rw [State.bytesAt, getBytes_length, show 8 * z.bytes = z.bits by cases z <;> rfl] at hlt
  exact BitVec.eq_of_toNat_eq (by rw [trunc_toNat, unsignedAt]; exact Nat.mod_eq_of_lt hlt)

/-- Whether a value lies outside the bounds: with the upper one below the lower one, strictly between them. -/
def outside (r lb ub : Long) : Bool :=
  if lb.toNat ≤ ub.toNat then decide (r.toNat < lb.toNat ∨ ub.toNat < r.toNat)
  else decide (ub.toNat < r.toNat ∧ r.toNat < lb.toNat)

theorem boundsZC_eq (r lb ub : Long) : boundsZC r lb ub = (decide (r = lb ∨ r = ub), outside r lb ub) := by
  have hz : (r == lb || r == ub) = decide (r = lb ∨ r = ub) := by rw [Bool.decide_or]; rfl
  have hc : (if lb.ule ub then r.ult lb || ub.ult r else ub.ult r && r.ult lb) = outside r lb ub := by
    rw [outside, Bool.decide_or, Bool.decide_and]
    simp only [BitVec.ule, BitVec.ult, decide_eq_true_eq]
  rw [boundsZC, hz, hc]

/-- What CMP2 and CHK2 make of the flags: N and V are free. -/
def boundsSr (s : State) (r lb ub : Long) : Word :=
  let free : BitVec 2 := (s.draw 2).1
  withCcr s.sr (srX s.sr) (free.getLsbD 1) (decide (r = lb ∨ r = ub)) (free.getLsbD 0) (outside r lb ub)

theorem setBounds_near (s : State) (r lb ub : Long) : Near { s with sr := boundsSr s r lb ub } (setBounds s r lb ub) := by
  rw [setBounds, boundsZC_eq]
  exact ⟨s.mem.stale, s.mem.draws + 1, rfl⟩

theorem setBounds_flagC (s : State) (r lb ub : Long) : (setBounds s r lb ub).flagC = outside r lb ub := by
  rw [setBounds, boundsZC_eq, setNZVC_flagC]

/-- CMP2 and CHK2 read the bounds, extended to 32 bits, and go on with the flags. -/
theorem compareBounds_eq (h : Ready s) (rn : BitVec 4) {x : Long} (hx : Evaluates s ea 0 2 (.mem x) s.a) (k : State → Out) :
    let ext (u : Long) : Long := if rn.getLsbD 3 then z.sext u else z.trunc u
    let lb := ext (s.valueAt x z.bytes)
    let ub := ext (s.valueAt (x + BitVec.ofNat 32 z.bytes) z.bytes)
    let r := if rn.getLsbD 3 then s.getR rn else z.trunc (s.getR rn)
    compareBounds z rn ea s k = k (setBounds s r lb ub) := by
  have hread : ∀ y, s.read y z.bytes = .ok (s.valueAt y z.bytes) s := fun y => h.flat.read y z.bytes
  intro ext lb ub r
  rw [compareBounds, hx.controlEa, Res.bind_ok, hread, Res.bind_ok, hread, Res.bind_ok, orAbort_ok]
  simp only [r, lb, ub, ext]
  split
  · rfl
  · rw [trunc_valueAt, trunc_valueAt]

/-- CMP2 and CHK2 at a size. -/
theorem boundsChecked (h : Ready s) (hea : ea.wf .control 1 = true) (rn : BitVec 4) {cmp2 chk2 : Instr}
    (hcmp : exec cmp2 s = compare2 z rn ea s) (hchk : exec chk2 s = check2 z rn ea s) :
    ∃ x n v, Evaluates s ea 0 2 (.mem x) s.a ∧
      (let ext (u : Long) : Long := if rn.getLsbD 3 then z.sext u else z.trunc u
       let lb := ext (s.valueAt x z.bytes)
       let ub := ext (s.valueAt (x + BitVec.ofNat 32 z.bytes) z.bytes)
       let r := if rn.getLsbD 3 then s.getR rn else z.trunc (s.getR rn)
       let c := outside r lb ub
       let u := { s with sr := withCcr s.sr (srX s.sr) n (decide (r = lb ∨ r = ub)) v c }
       Leaves cmp2 s (2 + Ea.words 1 ea) u ∧
       (c = false → Leaves chk2 s (2 + Ea.words 1 ea) u) ∧
       (c = true → ∃ t, exec chk2 s = .next t ∧
        TakesTraced s.pc u 6 2 (s.after (2 + Ea.words 1 ea)) (toBytes s.pc 4) t)) := by
  obtain ⟨x, hx⟩ := control_evaluates h.flat (isControl_of_wf hea) 2
  refine ⟨x, (s.draw 2).1.getLsbD 1, (s.draw 2).1.getLsbD 0, hx, ?_⟩
  intro ext lb ub r c u
  have hnear : Near u (setBounds s r lb ub) := setBounds_near s r lb ub
  have hflag : (setBounds s r lb ub).flagC = c := setBounds_flagC s r lb ub
  rw [compare2, compareBounds_eq h rn hx] at hcmp
  rw [check2, compareBounds_eq h rn hx] at hchk
  refine ⟨leaves_near h hcmp hnear, fun hc => ?_, fun hc => ?_⟩
  · exact leaves_near h (hchk.trans (if_neg (Bool.eq_false_iff.1 (hflag.trans hc)))) hnear
  · exact trapNext_takesTraced h (hchk.trans (if_pos (hflag.trans hc))) hnear

/-- Settles O25: the comparisons set flags, and the checks branch on them. -/
theorem boundsChecks : Obligations.BoundsChecks := by
  unfold Obligations.BoundsChecks
  constructor
  · intro s rn ea h hea p hp
    simp only [List.mem_cons, List.not_mem_nil, or_false] at hp
    rcases hp with rfl | rfl | rfl <;> exact boundsChecked h hea rn rfl rfl
  · intro s dn ea h p hp
    simp only [List.mem_cons, List.not_mem_nil, or_false] at hp
    rcases hp with rfl | rfl <;> exact checkBound_outcomes h rfl

end Sys2Proof.Machine
end

section
/-! PROOFS. The instructions that write their operand without reading it: CLR, Scc, MOVE from CCR and MOVE from SR
(41_integer_arithmetic R640; 47_program_control R929; 48_system_control R968, R970). -/

namespace Sys2Proof.Machine

variable {s u : State} {m : MemSys} {i : Instr} {z : Size} {ea : Ea}

/-! ### The write -/

/-- An instruction that stores a result, with its flags, at an operand that it has not read. -/
theorem storeEa_stores (h : Ready s) {pre : Nat} {f : State → State × Long} {r : Long} {sr : Word}
    (hexec : exec i s = storeEa s z ea pre f) (hf : ∀ a, f (s.withA a) = ({ s with a := a, sr := sr }, r)) :
    Stores i s z ea pre r sr := by
  obtain ⟨l, a, heval⟩ := evalEa_flat h.flat ea z.bytes (s.after pre)
  obtain ⟨t, hnext, hdone⟩ := nextWith_putLoc h a sr z l r (eaLength pre z ea)
  refine ⟨l, a, t, heval, ?_, hdone⟩
  rw [hexec, storeEa, heval, orAbort_ok, hf]
  exact hnext

/-- The condition codes as a word. -/
theorem ccr_word (sr : Word) : ((sr.extractLsb' 0 5).zeroExtend 32 : Long) = (sr &&& 0x1F).zeroExtend 32 := by
  refine BitVec.eq_of_toNat_eq ?_
  have hmask : (0x1F : Word).toNat = 2 ^ 5 - 1 := rfl
  rw [BitVec.toNat_setWidth, BitVec.toNat_setWidth, BitVec.extractLsb'_toNat, BitVec.toNat_and, hmask,
    Nat.and_two_pow_sub_one_eq_mod, Nat.shiftRight_zero]

theorem clearEa_eq (z : Size) (ea : Ea) (s : State) :
    clearEa z ea s = storeEa s z ea 1 fun s1 => ({ s1 with sr := logicSr s1.sr z 0 }, 0) := by
  simp only [clearEa, setLogic_eq_logicSr]

theorem exec_scc (cc : BitVec 4) (ea : Ea) (s : State) :
    exec (.scc cc ea) s = storeEa s .b ea 1 fun s1 => (s1, if s1.cond cc then 0xFF else 0) := rfl

theorem exec_moveFromCcr (ea : Ea) (s : State) :
    exec (.moveFromCcr ea) s = storeEa s .w ea 1 fun s1 => (s1, (s1.sr &&& 0x1F).zeroExtend 32) := by
  simp only [← ccr_word]
  rfl

theorem exec_moveFromSr (hs : s.super = true) :
    exec (.moveFromSr ea) s = storeEa s .w ea 1 fun s1 => (s1, s1.sr.zeroExtend 32) := if_pos hs

/-! ### A read that faults -/

/-- A bus on which every read that begins at `pa` ends in a bus error. -/
structure MemSys.FailsAt (m : MemSys) (pa : Long) : Prop where
  error : ∃ e ∈ m.busErrors, e.read = true ∧ e.lo ≤ pa.toNat ∧ pa.toNat ≤ e.hi
  windows : m.windows = []
  due : m.due = []
  struck : m.struck = none

theorem readCycle_fails {pa : Long} (h : m.FailsAt pa) {c : Cycle} (hc : c.tt ≠ 2) {n : Nat} (hn : 0 < n) :
    (m.readCycle c pa n).1.error = true := by
  obtain ⟨⟨e, hmem, hread, hlo, hhi⟩, hw, hd, hs⟩ := h
  have hc : c.tt ≠ 2#2 := hc
  have htea : m.tea true pa.toNat n = true := by
    rw [MemSys.tea, List.any_eq_true]
    exact ⟨e, hmem, by simp only [if_true, hread, Bool.true_and, Bool.and_eq_true, decide_eq_true_eq]; omega⟩
  simp [MemSys.readCycle, MemSys.tick, hd, hs, MemSys.windowed, hw, Cycle.base, hc, htea]

/-- The first transfer of a read fails, and so the read. -/
theorem busReadP_fails {pa : Long} (h : m.FailsAt pa) {a : Access} (ha : a.tt ≠ 2) {n : Nat} (hn : 0 < n) :
    ∃ m', busReadP m a pa n = .err .bus m' := by
  obtain ⟨k, rfl⟩ : ∃ k, n = k + 1 := ⟨n - 1, by omega⟩
  have herror := readCycle_fails h (c := a.cycle) (by rwa [Access.cycle_tt]) (transferLength_pos pa.toNat (k + 1) hn).1
  simp only [busReadP, MemSys.busRead, busReads, if_neg (Nat.succ_ne_zero k), herror, if_true]
  exact ⟨_, rfl⟩

theorem pieceRead_fails (h : Flat s) {pa : Long} (hm : m.FailsAt pa) {a : Access} (ha : a.tt ≠ 2) (cm : BitVec 2) {n : Nat}
    (hn : 0 < n) : ∃ m', pieceRead s.ctl m a pa cm n = .err .bus m' := by
  obtain ⟨m', herr⟩ := busReadP_fails hm ha hn
  refine ⟨m', ?_⟩
  simp only [pieceRead, dataTick_of_due hm.due, h.dcacheOn, Bool.not_false, if_true, herr]

theorem lineRoom_pos (pa : Long) {n : Nat} (hn : 0 < n) : 0 < lineRoom pa n := by
  have hoffset : lineOffset pa < 16 := (pa.extractLsb' 0 4).isLt
  unfold lineRoom
  omega

theorem pageRoom_pos (c : Control) (la : Long) {n : Nat} (hn : 0 < n) : 0 < pageRoom c la n := by
  have hsize : 0 < c.pageSize := by
    unfold Control.pageSize
    split <;> decide
  have hoffset := Nat.mod_lt la.toNat hsize
  unfold pageRoom
  omega

theorem physRead_fails (h : Flat s) {pa : Long} (hm : m.FailsAt pa) {a : Access} (ha : a.tt ≠ 2) (cm : BitVec 2) {n : Nat}
    (hn : 0 < n) : ∃ m', physRead s.ctl m a pa cm n = .err .bus m' := by
  unfold physRead
  extract_lets k
  split
  · exact pieceRead_fails h hm ha cm hn
  · obtain ⟨m', herr⟩ := pieceRead_fails h hm ha cm (lineRoom_pos pa hn)
    exact ⟨m', by rw [herr]; rfl⟩

theorem pageRead_fails (h : Flat s) {la : Long} (hm : m.FailsAt la) {a : Access} (ha : a.tt ≠ 2) (fa : Long) (total : Nat)
    (second : Bool) {n : Nat} (hn : 0 < n) : ∃ f m', pageRead s.ctl m a fa total second la n = .fail f m' := by
  obtain ⟨m', herr⟩ := physRead_fails h hm ha 0 hn
  exact ⟨_, m', by simp only [pageRead, h.translate, herr]; rfl⟩

theorem dataRead_fails (h : Flat s) {la : Long} (hm : m.FailsAt la) {a : Access} (ha : a.tt ≠ 2) {n : Nat} (hn : 0 < n) :
    ∃ f m', dataRead s.ctl m a la n = .fail f m' := by
  unfold dataRead
  extract_lets k
  rw [if_neg ha]
  split
  · exact pageRead_fails h hm ha la n false hn
  · obtain ⟨f, m', hfail⟩ := pageRead_fails h hm ha la n false (pageRoom_pos s.ctl la hn)
    exact ⟨f, m', by rw [hfail]; rfl⟩

/-! ### A write that is made all the same -/

/-- An instruction with one write completes wherever the bus takes the write. -/
theorem complete_writable (h : Flat s) (hc : u.ctl = s.ctl) (hm : u.mem.Writable) (he : u.pc.getLsbD 0 = false) (s0 : State)
    {w : Write} (hw : w.acc.tt ≠ 2) (flow : Bool) :
    ∃ t, complete s0 u [w] flow = .next t ∧
      CompletesAs { u with mem := { u.mem with ram := putBytes u.mem.ram 0 w.addr w.bytes } } u.pc t := by
  obtain ⟨p, hwrite⟩ := h.write_of hc hm w hw
  refine ⟨endInstr s0 (u.stored (putBytes u.mem.ram 0 w.addr w.bytes) p) flow, by simp only [complete, writeAll, hwrite], ?_⟩
  exact (endInstr_completes (s := u.stored (putBytes u.mem.ram 0 w.addr w.bytes) p) s0 flow he).of_near ⟨p, u.mem.draws, rfl⟩

/-- `s` with a bus that fails every read of the four bytes at `x`, and no write. -/
def State.unreadable (s : State) (x : Long) : State :=
  { s with mem := { s.mem with busErrors := [⟨x.toNat, x.toNat + 3, true, false⟩] } }

theorem unreadable_fails (h : Flat s) (x : Long) : (s.unreadable x).mem.FailsAt x := by
  obtain ⟨-, hwindows, hdue, hstruck, -⟩ := quiet_iff.1 h.bus
  exact ⟨⟨_, List.mem_singleton_self _, rfl, Nat.le_refl _, Nat.le_add_right _ _⟩, hwindows, hdue, hstruck⟩

theorem unreadable_writable (h : Flat s) (x : Long) : (s.unreadable x).mem.Writable := by
  obtain ⟨-, hwindows, hdue, hstruck, -⟩ := quiet_iff.1 h.bus
  exact ⟨List.forall_mem_singleton.2 rfl, hwindows, hdue, hstruck⟩

/-- Reading the operand at (An) faults there. -/
theorem readEa_unreadable (h : Flat s) (an : BitVec 3) (z : Size) (pre : Nat) (pc : Long) :
    ∃ f w, readEa (s.unreadable (s.getA an)) z (.ind an) pre pc = .fail f w := by
  obtain ⟨f, m', hfail⟩ := dataRead_fails h (unreadable_fails h (s.getA an)) (a := s.access) (by simp [State.access])
    (n := z.bytes) (by cases z <;> decide)
  have hread : (s.unreadable (s.getA an)).read (s.getA an) z.bytes = .fail f { s with mem := m' } :=
    congrArg (fun r => ((s.unreadable (s.getA an)).lift r).bind fun bs u => Res.ok (ofBytes bs) u) hfail
  exact ⟨f, { s with mem := m' }, congrArg (fun r => r.bind fun v u => Res.ok (Loc.mem (s.getA an), v) u) hread⟩

/-- Storing a result, with its flags, at (An) needs no read of it. -/
theorem storeEa_unreadable (h : Ready s) (x : Long) {an : BitVec 3} {f : State → State × Long} {r : Long} (sr : Word)
    (hexec : exec i (s.unreadable x) = storeEa (s.unreadable x) z (.ind an) 1 f)
    (hf : f (s.unreadable x) = ({ s.unreadable x with sr := sr }, r)) :
    StoresAndReaches i (s.unreadable x) { s.unreadable x with sr := sr } (s.after 1) (s.getA an) z.bytes r := by
  obtain ⟨t, hnext, hdone⟩ := complete_writable (u := { s.unreadable x with sr := sr, pc := s.after 1 }) h.flat rfl
    (unreadable_writable h.flat x) (h.after_even 1) (s.unreadable x)
    (writeOf_tt { s.unreadable x with sr := sr } (s.getA an) z.bytes r) false
  refine ⟨t, ?_, hdone, storesAt_of_ram ((size_bytes_le z).trans (by decide)) hdone.ram⟩
  have hlength : eaLength 1 z (.ind an) = 1 := by cases z <;> rfl
  rw [hexec, storeEa, evalEa, orAbort_ok, hf, hlength, ← hnext]
  rfl

/-! ### The obligation -/

/-- Settles O26: each of them is a store by `storeEa`, which evaluates the address and writes. -/
theorem writeOnlyInstructions : Obligations.WriteOnlyInstructions := by
  unfold Obligations.WriteOnlyInstructions
  constructor
  · intro s ea cc h
    refine ⟨fun p hp => ?_, storeEa_stores h (exec_scc cc ea s) fun a => rfl, storeEa_stores h (exec_moveFromCcr ea s) fun a => rfl,
      fun hs => storeEa_stores h (exec_moveFromSr hs) fun a => rfl⟩
    · simp only [List.mem_cons, List.not_mem_nil, or_false] at hp
      rcases hp with rfl | rfl | rfl <;>
        exact storeEa_stores h (clearEa_eq _ ea s) fun a => rfl
  · intro s an cc h x u
    have hu : u = s.unreadable x := rfl
    clear_value u
    subst hu
    refine ⟨fun z => readEa_unreadable h.flat an z 1 _, fun p hp => ?_,
      storeEa_unreadable h x s.sr (exec_scc cc _ _) rfl, storeEa_unreadable h x s.sr (exec_moveFromCcr _ _) rfl,
      fun hs => storeEa_unreadable h x s.sr (exec_moveFromSr hs) rfl⟩
    · simp only [List.mem_cons, List.not_mem_nil, or_false] at hp
      rcases hp with rfl | rfl | rfl <;>
        exact storeEa_unreadable h x _ (clearEa_eq _ (.ind an) (s.unreadable x)) rfl

end Sys2Proof.Machine
end

section
/-! PROOFS. Multiplication and division (41_integer_arithmetic R650 to R660; 60_exceptions R1115). -/

namespace Sys2Proof.Machine

variable {s : State} {i : Instr} {z : Size} {ea : Ea} {signed : Bool}

/-! ### Operands and results as integers -/

/-- The integer that a value is at a size, to a signed or an unsigned instruction. -/
def intAt (signed : Bool) (z : Size) (v : Long) : Int := if signed then signedAt z v else (unsignedAt z v : Int)

theorem intAt_true (z : Size) (v : Long) : intAt true z v = signedAt z v := if_pos rfl

theorem intAt_false (z : Size) (v : Long) : intAt false z v = unsignedAt z v := if_neg Bool.false_ne_true

theorem intOf_eq_intAt (signed : Bool) (z : Size) (v : Long) : intOf signed z v = intAt signed z v := by
  rw [intOf, intAt, toInt_sext, trunc_toNat]

theorem intAt_zero (signed : Bool) (z : Size) : intAt signed z 0 = 0 := by
  rw [intAt, signedAt, unsignedAt, show (0 : Long).toNat = 0 from rfl, Nat.zero_mod, Int.natCast_zero, Int.zero_bmod, ite_self]

/-- Only the value zero is the integer zero. -/
theorem intAt_ne_zero {v : Long} (h : unsignedAt z v ≠ 0) : intAt signed z v ≠ 0 := by
  have hlt := unsignedAt_lt z v
  rw [intAt, signedAt_eq_signedOf, signedOf]
  split
  · split <;> omega
  · omega

/-- Whether an integer is a long word of the signedness. -/
def fitsAt (signed : Bool) (v : Int) : Bool := if signed then inSigned .l v else decide (v < 2 ^ 32)

theorem fitsAt_true (v : Int) : fitsAt true v = inSigned .l v := if_pos rfl

theorem fitsAt_false (v : Int) : fitsAt false v = decide (v < 2 ^ 32) := if_neg Bool.false_ne_true

/-- An unsigned instruction meets no negative result. -/
theorem fitsLong_eq_fitsAt {v : Int} (hv : signed = false → 0 ≤ v) : fitsLong signed v = fitsAt signed v := by
  cases signed with
  | true => rfl
  | false =>
    have hnonneg : decide (0 ≤ v) = true := decide_eq_true (hv rfl)
    rw [fitsLong, fitsAt_false, if_neg Bool.false_ne_true, hnonneg, Bool.true_and]

theorem intAt_nonneg (hs : signed = false) (v : Long) : 0 ≤ intAt signed z v := by
  rw [hs, intAt_false]
  exact Int.natCast_nonneg _

/-- The data registers after a pair of results, the free value where one register takes both (93 U26). -/
def pairAfter (d : Bank Long) (hi lo : BitVec 3) (free vhi vlo : Long) : Bank Long :=
  if hi = lo then d.set lo free else (d.set hi vhi).set lo vlo

theorem setPair_eq (u : State) (hi lo : BitVec 3) (vhi vlo : Long) : ∃ k, setPair u hi lo vhi vlo =
    { u with d := pairAfter u.d hi lo (u.draw 32).1 vhi vlo, mem := { u.mem with draws := k } } := by
  unfold setPair pairAfter
  split
  · exact ⟨u.mem.draws + 1, rfl⟩
  · exact ⟨u.mem.draws, rfl⟩

/-! ### Multiplication (R650 to R652) -/

section
variable {val : Long → Int}

theorem mulWord_leavesFrom (h : Ready s) {dn : BitVec 3} (hexec : exec i s = mulWord signed dn ea s)
    (hval : ∀ v, intAt signed .w v = val v) :
    LeavesFrom i s .w ea 1 fun v a =>
      let r := BitVec.ofInt 32 (val v * val (s.getD dn))
      { s with a := a, d := s.d.set dn r, sr := logicSr s.sr .l r } :=
  leavesFrom_of_reads h fun l v a hread => leaves_registers h (by
    rw [hexec, mulWord, hread.orAbort_eq]
    simp only [intOf_eq_intAt, hval, setLogic_eq_logicSr]
    rfl)

theorem mulLong32_leavesFrom (h : Ready s) {dl : BitVec 3} (hexec : exec i s = mulLong32 signed dl ea s)
    (hval : ∀ v, intAt signed .l v = val v) {fits : Int → Bool} (hfits : ∀ p, fitsAt signed p = fits p) :
    LeavesFrom i s .l ea 2 fun v a =>
      let p := val v * val (s.getD dl)
      let r := BitVec.ofInt 32 p
      { s with a := a, d := s.d.set dl r, sr := withCcr s.sr (srX s.sr) (negAt .l r) (zeroAt .l r) (!fits p) false } :=
  leavesFrom_of_reads h fun l v a hread => leaves_registers h (by
    have hlong := fitsLong_eq_fitsAt (signed := signed) (v := val v * val (s.getD dl))
      fun hs => Int.mul_nonneg (hval v ▸ intAt_nonneg hs v) (hval (s.getD dl) ▸ intAt_nonneg hs (s.getD dl))
    rw [hexec, mulLong32, hread.orAbort_eq, ← hfits, ← hlong]
    simp only [intOf_eq_intAt, hval, ← negAt_eq_msb, ← zeroAt_eq_isZero]
    rfl)

theorem mulLong64_leavesFrom (h : Ready s) {dh dl : BitVec 3} (hexec : exec i s = mulLong64 signed dh dl ea s)
    (hval : ∀ v, intAt signed .l v = val v) :
    LeavesFrom i s .l ea 2 fun v a =>
      let r := BitVec.ofInt 64 (val v * val (s.getD dl))
      { s with a := a
               d := pairAfter s.d dh dl (s.draw 32).1 (r.extractLsb' 32 32) (r.extractLsb' 0 32)
               sr := withCcr s.sr (srX s.sr) r.msb (decide (r = 0)) false false } := by
  refine leavesFrom_of_reads h fun l v a hread => ?_
  let r := BitVec.ofInt 64 (val v * val (s.getD dl))
  obtain ⟨k, hpair⟩ := setPair_eq (s.withA a) dh dl (r.extractLsb' 32 32) (r.extractLsb' 0 32)
  rw [mulLong64, Reads.orAbort_eq hread] at hexec
  simp only [intOf_eq_intAt, hval] at hexec
  refine leaves_near h hexec ⟨s.mem.stale, k, ?_⟩
  exact congrArg (fun u => State.setNZVC u r.msb (decide (r = 0)) false false) hpair

end

/-- Settles O27: the product of the integers, as the flags and the registers take it. -/
theorem multiplyInstructionsMultiply : Obligations.MultiplyInstructionsMultiply := by
  unfold Obligations.MultiplyInstructionsMultiply
  intro s dn dh dl ea h
  refine ⟨fun p hp => ?_, fun p hp => ?_, fun p hp => ⟨(s.draw 32).1, ?_⟩⟩
  · simp only [List.mem_cons, List.not_mem_nil, or_false] at hp
    rcases hp with rfl | rfl <;> dsimp only
    · exact mulWord_leavesFrom h (val := fun v => (unsignedAt .w v : Int)) rfl (intAt_false .w)
    · exact mulWord_leavesFrom h (val := signedAt .w) rfl (intAt_true .w)
  · simp only [List.mem_cons, List.not_mem_nil, or_false] at hp
    rcases hp with rfl | rfl <;> dsimp only
    · exact mulLong32_leavesFrom h (val := fun v => (unsignedAt .l v : Int)) (fits := fun i => decide (i < 2 ^ 32)) rfl
        (intAt_false .l) fitsAt_false
    · exact mulLong32_leavesFrom h (val := signedAt .l) rfl (intAt_true .l) fitsAt_true
  · simp only [List.mem_cons, List.not_mem_nil, or_false] at hp
    rcases hp with rfl | rfl <;> dsimp only
    · exact mulLong64_leavesFrom h (val := fun v => (unsignedAt .l v : Int)) rfl (intAt_false .l)
    · exact mulLong64_leavesFrom h (val := signedAt .l) rfl (intAt_true .l)

/-! ### Division by zero (R660) -/

theorem zeroDivide_takes (h : Ready s) {a : AddrRegs} {k : Nat} (hexec : exec i s = zeroDivide s (s.withA a) k) :
    ∃ t n z v, exec i s = .next t ∧
      TakesTraced s.pc { s with a := a, sr := withCcr s.sr (srX s.sr) n z v false } 5 2 (s.after k) (toBytes s.pc 4) t := by
  obtain ⟨t, hnext, htakes⟩ := trapNext_takesTraced h hexec ⟨s.mem.stale, s.mem.draws + 1, rfl⟩
  exact ⟨t, _, _, _, hnext, htakes⟩

theorem divWord_zero {dn : BitVec 3} (hexec : exec i s = divWord signed dn ea s) {l : Loc} {a : AddrRegs}
    (hread : Reads s .w ea 1 l 0 a) : exec i s = zeroDivide s (s.withA a) (eaLength 1 .w ea) := by
  rw [hexec, divWord, hread.orAbort_eq]
  exact if_pos ((intOf_eq_intAt signed .w 0).trans (intAt_zero signed .w))

/-! ### Division (R655 to R658) -/

theorem divideOverflow_leaves (h : Ready s) {a : AddrRegs} {k : Nat} (hexec : exec i s = divideOverflow s (s.withA a) k) :
    Leaves i s k { s with a := a, sr := withCcr s.sr (srX s.sr) ((s.draw 2).1.getLsbD 1) ((s.draw 2).1.getLsbD 0) true false } :=
  leaves_near h hexec ⟨s.mem.stale, s.mem.draws + 1, rfl⟩

theorem setQuotient_eq_logicSr (u : State) (z : Size) (q : Long) :
    u.setQuotient z q = { u with sr := logicSr u.sr z q } := setLogic_eq_logicSr u z q

/-- The flags of a logical result depend on the bits of the size only. -/
theorem logicSr_congr (sr : Word) {r r' : Long} (h : unsignedAt z r = unsignedAt z r') : logicSr sr z r = logicSr sr z r' := by
  rw [logicSr, logicSr, negAt, negAt, signedAt_congr h, zeroAt, zeroAt, h]

/-- A quotient of a word, zero-extended, has the low bits of the quotient. -/
theorem unsignedAt_word_ofInt (q : Int) :
    unsignedAt .w ((BitVec.ofInt 16 q).zeroExtend 32) = unsignedAt .w (BitVec.ofInt 32 q) := by
  simp only [unsignedAt, Size.bits, BitVec.toNat_setWidth, BitVec.toNat_ofInt]
  omega

/-- Whether a quotient is a word of the signedness. -/
def wordFits (signed : Bool) (q : Int) : Bool := if signed then inSigned .w q else decide (q < 2 ^ 16)

theorem wordFits_eq (signed : Bool) (q : Int) :
    (if signed then decide (-32768 ≤ q) && decide (q ≤ 32767) else decide (q ≤ 0xFFFF)) = wordFits signed q := by
  cases signed
  · exact decide_eq_decide.2 (by omega)
  · rw [wordFits, if_pos rfl, if_pos rfl, inSigned, show Size.w.bits - 1 = 15 from rfl, ← Bool.decide_and, ← Bool.decide_and,
      decide_eq_decide]
    omega

theorem divWord_leaves (h : Ready s) {dn : BitVec 3} (hexec : exec i s = divWord signed dn ea s) {val : Size → Long → Int}
    (hval : ∀ z v, intAt signed z v = val z v) {fits : Int → Bool} (hfits : ∀ q, wordFits signed q = fits q) {l : Loc} {v : Long}
    {a : AddrRegs} (hread : Reads s .w ea 1 l v a) (hv : val .w v ≠ 0) :
    let q := (val .l (s.getD dn)).tdiv (val .w v)
    let r := (val .l (s.getD dn)).tmod (val .w v)
    Leaves i s (eaLength 1 .w ea)
      (if fits q then
        { s with a := a, d := s.d.set dn (BitVec.ofInt 16 r ++ BitVec.ofInt 16 q), sr := logicSr s.sr .w (BitVec.ofInt 32 q) }
      else { s with a := a, sr := withCcr s.sr (srX s.sr) ((s.draw 2).1.getLsbD 1) ((s.draw 2).1.getLsbD 0) true false }) := by
  intro q r
  have hdn : (s.withA a).getD dn = s.getD dn := rfl
  rw [divWord, hread.orAbort_eq] at hexec
  simp only [intOf_eq_intAt, hval, wordFits_eq, hfits, hdn, if_neg hv, setQuotient_eq_logicSr] at hexec
  split
  case isTrue hq =>
    rw [if_pos hq, logicSr_congr _ (unsignedAt_word_ofInt q)] at hexec
    exact leaves_registers h hexec
  case isFalse hq =>
    rw [if_neg hq] at hexec
    exact divideOverflow_leaves h hexec

/-- A long division: the dividend is `n`, and `d` are the data registers after the remainder and the quotient are put. -/
theorem divLong32_leaves (h : Ready s) {dividend : State → Int} {put : State → Long → Long → State}
    (hexec : exec i s = divLong32 signed ea s dividend put) {l : Loc} {v : Long} {a : AddrRegs} (hread : Reads s .l ea 2 l v a)
    (hv : intAt signed .l v ≠ 0) {n : Int} (hn : dividend (s.withA a) = n) (hpos : signed = false → 0 ≤ n)
    {d : Long → Long → Bank Long}
    (hput : ∀ r q, ∃ k, put (s.withA a) r q = { s with a := a, d := d r q, mem := { s.mem with draws := k } }) :
    let q := n.tdiv (intAt signed .l v)
    let r := n.tmod (intAt signed .l v)
    Leaves i s (eaLength 2 .l ea)
      (if fitsAt signed q then
        { s with a := a, d := d (BitVec.ofInt 32 r) (BitVec.ofInt 32 q), sr := logicSr s.sr .l (BitVec.ofInt 32 q) }
      else { s with a := a, sr := withCcr s.sr (srX s.sr) ((s.draw 2).1.getLsbD 1) ((s.draw 2).1.getLsbD 0) true false }) := by
  intro q r
  have hfits : fitsLong signed q = fitsAt signed q :=
    fitsLong_eq_fitsAt fun hs => Int.tdiv_nonneg (hpos hs) (intAt_nonneg hs v)
  rw [divLong32, hread.orAbort_eq] at hexec
  simp only [intOf_eq_intAt, hn, if_neg hv, setQuotient_eq_logicSr] at hexec
  rw [hfits] at hexec
  split
  case isTrue hq =>
    rw [if_pos hq] at hexec
    obtain ⟨k, hk⟩ := hput (BitVec.ofInt 32 r) (BitVec.ofInt 32 q)
    exact leaves_near h hexec ⟨s.mem.stale, k, by rw [hk]⟩
  case isFalse hq =>
    rw [if_neg hq] at hexec
    exact divideOverflow_leaves h hexec

/-- The dividend of a long division: Dq, or for the form 2, Dr:Dq (R657). -/
def longDividend (s : State) (signed : Bool) (form : Nat) (dr dq : BitVec 3) : Int :=
  let quad : BitVec 64 := s.getD dr ++ s.getD dq
  if form = 2 then (if signed then quad.toInt else quad.toNat) else intAt signed .l (s.getD dq)

theorem longDividend_nonneg (s : State) (hs : signed = false) (form : Nat) (dr dq : BitVec 3) :
    0 ≤ longDividend s signed form dr dq := by
  unfold longDividend
  split
  · rw [hs, if_neg Bool.false_ne_true]
    exact Int.natCast_nonneg _
  · exact intAt_nonneg hs _

/-- The data registers after a long division: the form 0 leaves the remainder out (R656 to R658). -/
def dividedRegisters (s : State) (form : Nat) (dr dq : BitVec 3) (free r q : Long) : Bank Long :=
  if form = 0 then s.d.set dq q
  else if form = 2 ∧ dr = dq then s.d.set dq free
  else (s.d.set dr r).set dq q

/-- `i` is a long division of a form: it takes its dividend, and puts the remainder and the quotient, as the form has it. -/
def IsLongDivision (i : Instr) (signed : Bool) (form : Nat) (dr dq : BitVec 3) (ea : Ea) : Prop :=
  ∃ dividend put, (∀ s, exec i s = divLong32 signed ea s dividend put) ∧
    (∀ s a, dividend (State.withA s a) = longDividend s signed form dr dq) ∧
    ∀ s a r q, ∃ k, put (State.withA s a) r q =
      { s with a := a, d := dividedRegisters s form dr dq (s.draw 32).1 r q, mem := { s.mem with draws := k } }

theorem isLongDivision_quotient (dr : BitVec 3) {dq : BitVec 3} (hexec : ∀ s, exec i s = divQuotient signed dq ea s) :
    IsLongDivision i signed 0 dr dq ea :=
  ⟨_, _, hexec, fun s _ => intOf_eq_intAt signed .l (s.getD dq), fun s _ _ _ => ⟨s.mem.draws, rfl⟩⟩

theorem isLongDivision_remainder {dr dq : BitVec 3} (hexec : ∀ s, exec i s = divRemainder signed dr dq ea s) :
    IsLongDivision i signed 1 dr dq ea :=
  ⟨_, _, hexec, fun s _ => intOf_eq_intAt signed .l (s.getD dq), fun s _ _ _ => ⟨s.mem.draws, rfl⟩⟩

theorem isLongDivision_quad {dr dq : BitVec 3} (hexec : ∀ s, exec i s = divQuad signed dr dq ea s) :
    IsLongDivision i signed 2 dr dq ea := by
  refine ⟨_, _, hexec, fun _ _ => rfl, fun s a r q => ?_⟩
  obtain ⟨k, hpair⟩ := setPair_eq (s.withA a) dr dq r q
  refine ⟨k, hpair.trans ?_⟩
  simp only [dividedRegisters, pairAfter, true_and]
  rfl

/-- The long divisions and their forms. -/
theorem longDivisions (dr dq : BitVec 3) (ea : Ea) :
    IsLongDivision (.divuLEaDq dq ea) false 0 dr dq ea ∧ IsLongDivision (.divsLEaDq dq ea) true 0 dr dq ea ∧
    IsLongDivision (.divulLEaDrDq dr dq ea) false 1 dr dq ea ∧ IsLongDivision (.divslLEaDrDq dr dq ea) true 1 dr dq ea ∧
    IsLongDivision (.divuLEaDrDq dr dq ea) false 2 dr dq ea ∧ IsLongDivision (.divsLEaDrDq dr dq ea) true 2 dr dq ea :=
  ⟨isLongDivision_quotient dr fun _ => rfl, isLongDivision_quotient dr fun _ => rfl, isLongDivision_remainder fun _ => rfl,
    isLongDivision_remainder fun _ => rfl, isLongDivision_quad fun _ => rfl, isLongDivision_quad fun _ => rfl⟩

theorem IsLongDivision.leaves {form : Nat} {dr dq : BitVec 3} (hi : IsLongDivision i signed form dr dq ea) (h : Ready s) :
    ∃ n z free, ∀ l v a, Reads s .l ea 2 l v a → unsignedAt .l v ≠ 0 →
      let q := (longDividend s signed form dr dq).tdiv (intAt signed .l v)
      let r := (longDividend s signed form dr dq).tmod (intAt signed .l v)
      Leaves i s (eaLength 2 .l ea)
        (if fitsAt signed q then
          { s with a := a, d := dividedRegisters s form dr dq free (BitVec.ofInt 32 r) (BitVec.ofInt 32 q)
                   sr := logicSr s.sr .l (BitVec.ofInt 32 q) }
        else { s with a := a, sr := withCcr s.sr (srX s.sr) n z true false }) := by
  obtain ⟨dividend, put, hexec, hdividend, hput⟩ := hi
  exact ⟨_, _, _, fun _ _ a hread hv => divLong32_leaves h (hexec s) hread (intAt_ne_zero hv) (hdividend s a)
    (fun hs => longDividend_nonneg s hs form dr dq) (hput s a)⟩

theorem IsLongDivision.zero {form : Nat} {dr dq : BitVec 3} (hi : IsLongDivision i signed form dr dq ea) {l : Loc} {a : AddrRegs}
    (hread : Reads s .l ea 2 l 0 a) : exec i s = zeroDivide s (s.withA a) (eaLength 2 .l ea) := by
  obtain ⟨dividend, put, hexec, -, -⟩ := hi
  rw [hexec, divLong32, hread.orAbort_eq]
  exact if_pos ((intOf_eq_intAt signed .l 0).trans (intAt_zero signed .l))

/-- Settles O28: the quotient and the remainder of the integers where the quotient fits; else flags only, and a trap for zero. -/
theorem divideInstructionsDivide : Obligations.DivideInstructionsDivide := by
  unfold Obligations.DivideInstructionsDivide
  refine ⟨fun s dn dr dq ea h => ⟨fun p hp => ?_, fun p hp => ?_⟩, fun s dn dr dq ea h p hp l a hread => ?_⟩
  · have hword : ∃ signed, exec p.1 s = divWord signed dn ea s ∧ (∀ z v, intAt signed z v = p.2.1 z v) ∧
        ∀ q, wordFits signed q = p.2.2 q := by
      simp only [List.mem_cons, List.not_mem_nil, or_false] at hp
      rcases hp with rfl | rfl <;> dsimp only
      · exact ⟨false, rfl, intAt_false, fun _ => if_neg Bool.false_ne_true⟩
      · exact ⟨true, rfl, intAt_true, fun _ => if_pos rfl⟩
    obtain ⟨signed, hexec, hval, hfits⟩ := hword
    exact ⟨_, _, fun l v a hread hv => divWord_leaves h hexec hval hfits hread hv⟩
  · obtain ⟨divuL, divsL, divulL, divslL, divuQuad, divsQuad⟩ := longDivisions dr dq ea
    simp only [List.mem_cons, List.not_mem_nil, or_false] at hp
    rcases hp with rfl | rfl | rfl | rfl | rfl | rfl
    · exact divuL.leaves h
    · exact divsL.leaves h
    · exact divulL.leaves h
    · exact divslL.leaves h
    · exact divuQuad.leaves h
    · exact divsQuad.leaves h
  · obtain ⟨divuL, divsL, divulL, divslL, divuQuad, divsQuad⟩ := longDivisions dr dq ea
    have hzero : exec p.1 s = zeroDivide s (s.withA a) (eaLength p.2.2 p.2.1 ea) := by
      simp only [List.mem_cons, List.not_mem_nil, or_false] at hp
      rcases hp with rfl | rfl | rfl | rfl | rfl | rfl | rfl | rfl <;> dsimp only at hread ⊢
      · exact divWord_zero (signed := false) (dn := dn) rfl hread
      · exact divWord_zero (signed := true) (dn := dn) rfl hread
      · exact divuL.zero hread
      · exact divsL.zero hread
      · exact divulL.zero hread
      · exact divslL.zero hread
      · exact divuQuad.zero hread
      · exact divsQuad.zero hread
    exact zeroDivide_takes h hzero

end Sys2Proof.Machine
end

section
/-! PROOFS. The logical instructions AND, OR, EOR and NOT, with their immediate forms (43_logical R800 to R809): an operation
that acts on each bit alone acts at every size. -/

namespace Sys2Proof.Machine

variable {f : Long → Long → Long} {g : Bool → Bool → Bool}

/-! ### Operations on each bit -/

/-- The bits of a size are those of the value; the others are clear. -/
theorem getLsbD_trunc (z : Size) (v : Long) (k : Nat) : (z.trunc v).getLsbD k = (decide (k < z.bits) && v.getLsbD k) := by
  rw [BitVec.getLsbD, trunc_toNat, unsignedAt, Nat.testBit_mod_two_pow, BitVec.getLsbD]

/-- `f` computes each bit of its result, by `g`, from the bits at the same place in its operands. -/
def Bitwise (f : Long → Long → Long) (g : Bool → Bool → Bool) : Prop :=
  ∀ a b k, k < 32 → (f a b).getLsbD k = g (a.getLsbD k) (b.getLsbD k)

theorem bitwise_and : Bitwise (fun a b => a &&& b) and := fun _ _ _ _ => BitVec.getLsbD_and

theorem bitwise_or : Bitwise (fun a b => a ||| b) or := fun _ _ _ _ => BitVec.getLsbD_or

theorem bitwise_xor : Bitwise (fun a b => a ^^^ b) xor := fun _ _ _ _ => BitVec.getLsbD_xor

theorem bitwise_not : Bitwise (fun _ b => ~~~b) fun _ y => !y := fun _ b k hk => by
  rw [BitVec.getLsbD_not, decide_eq_true hk, Bool.true_and]

/-- The low bits of the result depend on the low bits of the operands only. -/
theorem Bitwise.trunc (hf : Bitwise f g) (z : Size) (a b : Long) : z.trunc (f (z.trunc a) (z.trunc b)) = z.trunc (f a b) := by
  refine BitVec.eq_of_getLsbD_eq fun k hk => ?_
  rw [getLsbD_trunc, getLsbD_trunc]
  by_cases hlow : k < z.bits
  · simp only [hf _ _ k hk, getLsbD_trunc, hlow, decide_true, Bool.true_and]
  · simp only [hlow, decide_false, Bool.false_and]

/-! ### The flags (R801) -/

/-- The flags of a logical result are those of its low bits. -/
theorem logicSr_trunc (sr : Word) (z : Size) (v : Long) : logicSr sr z (z.trunc v) = logicSr sr z v :=
  logicSr_congr sr (unsignedAt_trunc z v)

theorem Bitwise.computes (hf : Bitwise f g) (z : Size) :
    Computes z (logicOp f z) (fun _ a b => z.trunc (f a b)) (fun sr a b => logicSr sr z (f a b)) where
  eq u a b := by rw [logicOp, setLogic_eq_logicSr, logicSr_trunc]
  result _ a b := hf.trunc z a b
  status sr a b := by rw [← logicSr_trunc, hf.trunc, logicSr_trunc]

theorem andOp_computes (z : Size) :
    Computes z (andOp z) (fun _ a b => z.trunc (a &&& b)) (fun sr a b => logicSr sr z (a &&& b)) := bitwise_and.computes z

theorem orOp_computes (z : Size) :
    Computes z (orOp z) (fun _ a b => z.trunc (a ||| b)) (fun sr a b => logicSr sr z (a ||| b)) := bitwise_or.computes z

theorem eorOp_computes (z : Size) :
    Computes z (eorOp z) (fun _ a b => z.trunc (a ^^^ b)) (fun sr a b => logicSr sr z (a ^^^ b)) := bitwise_xor.computes z

theorem notOp_computes (z : Size) :
    Computes z (notOp z) (fun _ _ b => z.trunc (~~~b)) (fun sr _ b => logicSr sr z (~~~b)) := bitwise_not.computes z

/-! ### The obligation -/

/-- Settles O29: the four bitwise operations on a register or on an operand read and written back. -/
theorem logicalInstructions : Obligations.LogicalInstructions := by
  unfold Obligations.LogicalInstructions
  intro s dn ea b w l h op
  refine ⟨?_, ?_⟩
  · intro p hp
    simp only [List.mem_cons, List.not_mem_nil, or_false] at hp
    rcases hp with rfl | rfl | rfl | rfl | rfl | rfl
    iterate 3 exact (andOp_computes _).putsInDn h rfl
    iterate 3 exact (orOp_computes _).putsInDn h rfl
  · intro p hp
    simp only [List.mem_cons, List.not_mem_nil, or_false] at hp
    rcases hp with rfl | rfl | rfl | rfl | rfl | rfl | rfl | rfl | rfl | rfl | rfl | rfl | rfl | rfl | rfl | rfl | rfl | rfl |
      rfl | rfl | rfl
    iterate 3 exact (andOp_computes _).putsBack h rfl
    iterate 3 exact (orOp_computes _).putsBack h rfl
    iterate 3 exact (eorOp_computes _).putsBack h rfl
    iterate 3 exact (andOp_computes _).putsBack h rfl
    iterate 3 exact (orOp_computes _).putsBack h rfl
    iterate 3 exact (eorOp_computes _).putsBack h rfl
    iterate 3 exact (notOp_computes _).putsBack h (src := 0) rfl

end Sys2Proof.Machine
end

section
/-! PROOFS. The shift and rotate operations place by place: by r + 1 places is by r places and one more (44_shift_rotate R833 to
R840). What an operation computes is first said for every count, zero included. -/

namespace Sys2Proof.Machine

variable {n d v k r : Nat}

/-! ### One place -/

/-- A number of `n` bits moved left by one place, `b` coming in below. -/
def stepLeft (n v : Nat) (b : Bool) : Nat := 2 * v % 2 ^ n + b.toNat

/-- A number of `n` bits moved right by one place, `b` coming in above. -/
def stepRight (n v : Nat) (b : Bool) : Nat := v / 2 + b.toNat * 2 ^ (n - 1)

/-- The bits that stay in a number of `m + 1` bits moved left are the lower ones. -/
theorem stepLeft_eq (m v : Nat) (b : Bool) : stepLeft (m + 1) v b = 2 * (v % 2 ^ m) + b.toNat := by
  rw [stepLeft, Nat.pow_succ', Nat.mul_mod_mul_left]

theorem stepLeft_div_two (m v : Nat) (b : Bool) : stepLeft (m + 1) v b / 2 = v % 2 ^ m := by
  have hb := b.toNat_le
  rw [stepLeft_eq]
  omega

theorem testBit_zero_stepLeft (m v : Nat) (b : Bool) : (stepLeft (m + 1) v b).testBit 0 = b := by
  rw [stepLeft_eq, Nat.testBit_zero]
  cases b
  · exact decide_eq_false (by rw [Bool.toNat_false]; omega)
  · exact decide_eq_true (by rw [Bool.toNat_true]; omega)

theorem testBit_stepLeft (m v : Nat) (b : Bool) (i : Nat) :
    (stepLeft (m + 1) v b).testBit (i + 1) = (decide (i < m) && v.testBit i) := by
  rw [Nat.testBit_add_one, stepLeft_div_two, Nat.testBit_mod_two_pow]

/-- A number of `n` bits has no others. -/
theorem testBit_beyond {i : Nat} (hv : v < 2 ^ n) (hi : n ≤ i) : v.testBit i = false :=
  Nat.testBit_lt_two_pow (hv.trans_le (Nat.pow_le_pow_right (by decide) hi))

theorem testBit_stepRight {m : Nat} (hv : v < 2 ^ (m + 1)) (b : Bool) (i : Nat) :
    (stepRight (m + 1) v b).testBit i = if i = m then b else v.testBit (i + 1) := by
  have hhalf : v / 2 < 2 ^ m := by
    rw [Nat.pow_succ] at hv
    omega
  rw [stepRight, Nat.add_sub_cancel, Nat.add_comm, Nat.mul_comm, Nat.testBit_two_pow_mul_add _ hhalf, Nat.testBit_div_two]
  rcases Nat.lt_trichotomy i m with hi | hi | hi
  · rw [if_pos hi, if_neg hi.ne]
  · rw [if_neg hi.not_lt, if_pos hi, hi, Nat.sub_self]
    cases b <;> rfl
  · have hb : b.toNat < 2 ^ (i - m) := b.toNat_lt.trans_le (Nat.le_self_pow (by omega) 2)
    rw [if_neg hi.not_gt, if_neg hi.ne', Nat.testBit_lt_two_pow hb, testBit_beyond hv (by omega)]

theorem stepLeft_lt (m v : Nat) (b : Bool) : stepLeft (m + 1) v b < 2 ^ (m + 1) := by
  have hb := b.toNat_le
  have hlow := Nat.mod_lt v (Nat.two_pow_pos m)
  rw [stepLeft_eq, Nat.pow_succ]
  omega

/-- The move of a number with one more bit above is that of the number. -/
theorem stepLeft_mod (m w : Nat) (b : Bool) : stepLeft (m + 2) w b % 2 ^ (m + 1) = stepLeft (m + 1) (w % 2 ^ (m + 1)) b := by
  rw [stepLeft_eq (m + 1), ← Nat.mod_eq_of_lt (stepLeft_lt m (w % 2 ^ (m + 1)) b), stepLeft, Nat.mod_add_mod]

/-- The move of a number with one more bit below is that of the number. -/
theorem stepRight_div_two (m w : Nat) (b : Bool) : stepRight (m + 2) w b / 2 = stepRight (m + 1) (w / 2) b := by
  have hpow : b.toNat * 2 ^ (m + 1) = 2 * (b.toNat * 2 ^ m) := by ring
  rw [stepRight, stepRight, show m + 2 - 1 = m + 1 from rfl, Nat.add_sub_cancel, hpow]
  omega

/-- A number moved left and then right, with the bit that went out at the top, is as before. -/
theorem stepRight_stepLeft {m : Nat} (hv : v < 2 ^ (m + 1)) (b : Bool) :
    stepRight (m + 1) (stepLeft (m + 1) v b) (v.testBit m) = v := by
  have hsplit : v % 2 ^ (m + 1) = v % 2 ^ m + 2 ^ m * (v / 2 ^ m % 2) := Nat.mod_pow_succ
  rw [Nat.mod_eq_of_lt hv, ← Nat.toNat_testBit, Nat.mul_comm] at hsplit
  rw [stepRight, stepLeft_div_two, Nat.add_sub_cancel]
  exact hsplit.symm

theorem Shifted.fields_of_eq {q : Shifted} {x : Option Bool} {v c : Bool} (h : q = ⟨r, x, v, c⟩) :
    q.r = r ∧ q.x = x ∧ q.c = c ∧ q.v = v := by
  rw [h]
  exact ⟨rfl, rfl, rfl, rfl⟩

/-! ### Shifts to the left (R833, R835) -/

theorem shiftLeft_succ_mod (n d r : Nat) : d <<< (r + 1) % 2 ^ n = stepLeft n (d <<< r % 2 ^ n) false := by
  rw [stepLeft, Nat.mul_mod_mod, Nat.shiftLeft_succ]
  rfl

/-- The bit shifted out last stood on top before. -/
theorem testBit_top_shiftLeft (m d r : Nat) :
    (d <<< r % 2 ^ (m + 1)).testBit m = (decide (r + 1 ≤ m + 1) && d.testBit (m + 1 - (r + 1))) := by
  rw [Nat.testBit_mod_two_pow, Nat.testBit_shiftLeft, decide_eq_true (Nat.lt_succ_self m), Bool.true_and,
    Nat.add_sub_add_right]
  congr 1
  exact decide_eq_decide.2 (by omega)

theorem lslOp_r (hd : d < 2 ^ n) (r : Nat) (x : Bool) : (lslOp n d r x).r = d <<< r % 2 ^ n := by
  cases r with
  | zero => exact (Nat.mod_eq_of_lt hd).symm
  | succ r => rfl

theorem aslOp_r (hd : d < 2 ^ n) (r : Nat) (x : Bool) : (aslOp n d r x).r = d <<< r % 2 ^ n := by
  cases r with
  | zero => exact (Nat.mod_eq_of_lt hd).symm
  | succ r => rfl

theorem lslOp_succ (hn : 0 < n) (hd : d < 2 ^ n) (r : Nat) (x : Bool) :
    let p := lslOp n d r x
    let out := p.r.testBit (n - 1)
    lslOp n d (r + 1) x = ⟨stepLeft n p.r false, some out, false, out⟩ := by
  obtain ⟨m, rfl⟩ : ∃ m, n = m + 1 := ⟨n - 1, by omega⟩
  intro p out
  simp only [p, out, lslOp_r hd, ← shiftLeft_succ_mod, Nat.add_sub_cancel, testBit_top_shiftLeft]
  rfl

/-- The bits of an operand of `n` bits that have been in the sign position after `r` places, as a number of `r + 1` bits. -/
def signBits (n d r : Nat) : Nat := d <<< r >>> (n - 1)

theorem signBits_succ_div_two (n d r : Nat) : signBits n d (r + 1) / 2 = signBits n d r := by
  rw [signBits, ← Nat.shiftRight_succ, Nat.shiftLeft_succ, Nat.shiftRight_succ_inside, Nat.mul_div_cancel_left _ (by decide)]
  rfl

theorem signBits_lt {m : Nat} (hd : d < 2 ^ (m + 1)) (r : Nat) : signBits (m + 1) d r < 2 ^ (r + 1) := by
  rw [signBits, Nat.add_sub_cancel, Nat.shiftRight_eq_div_pow, Nat.shiftLeft_eq, Nat.div_lt_iff_lt_mul (Nat.two_pow_pos m)]
  calc d * 2 ^ r < 2 ^ (m + 1) * 2 ^ r := Nat.mul_lt_mul_of_pos_right hd (Nat.two_pow_pos r)
    _ = 2 ^ (r + 1) * 2 ^ m := by ring

/-- The last of them is the sign. -/
theorem testBit_zero_signBits (m d r : Nat) : (signBits (m + 1) d r).testBit 0 = (d <<< r % 2 ^ (m + 1)).testBit m := by
  rw [signBits, Nat.testBit_shiftRight, Nat.testBit_mod_two_pow, decide_eq_true (Nat.lt_succ_self m), Bool.true_and]
  rfl

/-- Whether the sign has changed: some of the bits are set, and not all. -/
def signChanged (n d r : Nat) : Bool := signBits n d r != 0 && signBits n d r != 2 ^ (r + 1) - 1

theorem signBits_of_le {m : Nat} (hr : r ≤ m) (d : Nat) : signBits (m + 1) d r = d >>> (m - r) := by
  obtain ⟨j, rfl⟩ : ∃ j, m = r + j := ⟨m - r, by omega⟩
  rw [signBits, Nat.add_sub_cancel, Nat.shiftRight_add, Nat.shiftLeft_shiftRight, Nat.add_sub_cancel_left]

theorem signBits_of_ge {m : Nat} (hr : m ≤ r) (d : Nat) : signBits (m + 1) d r = d * 2 ^ (r - m) := by
  obtain ⟨j, rfl⟩ : ∃ j, r = j + m := ⟨r - m, by omega⟩
  rw [signBits, Nat.add_sub_cancel, Nat.shiftLeft_add, Nat.shiftLeft_shiftRight, Nat.add_sub_cancel, Nat.shiftLeft_eq]

/-- Once the operand is shifted out, zeros follow it, so the bits are not all set. -/
theorem signChanged_of_gt {m : Nat} (hr : m < r) (d : Nat) : signChanged (m + 1) d r = (d != 0) := by
  obtain ⟨j, rfl⟩ : ∃ j, r = m + 1 + j := ⟨r - (m + 1), by omega⟩
  have hbits : signBits (m + 1) d (m + 1 + j) = 2 * (d * 2 ^ j) := by
    rw [signBits_of_ge hr.le, show m + 1 + j - m = j + 1 by omega, Nat.pow_succ]
    ring
  have hzero : d * 2 ^ j = 0 ↔ d = 0 := by simp
  have hpow : 2 ^ (m + 1 + j + 1) = 2 * 2 ^ (m + 1 + j) := Nat.pow_succ'
  have hpos := Nat.two_pow_pos (m + 1 + j)
  rw [signChanged, hbits, Bool.eq_iff_iff]
  simp only [Bool.and_eq_true, bne_iff_ne, ne_eq]
  omega

theorem signChanged_zero {m : Nat} (hd : d < 2 ^ (m + 1)) : signChanged (m + 1) d 0 = false := by
  have hlt : signBits (m + 1) d 0 < 2 ^ 1 := signBits_lt hd 0
  rw [signChanged, Bool.eq_false_iff]
  simp only [ne_eq, Bool.and_eq_true, bne_iff_ne]
  omega

/-- ASL's V is whether the sign has changed, also where the count passes the size. -/
theorem aslOp_v {m : Nat} (hd : d < 2 ^ (m + 1)) (r : Nat) (x : Bool) :
    (aslOp (m + 1) d r x).v = signChanged (m + 1) d r := by
  cases r with
  | zero => exact (signChanged_zero hd).symm
  | succ r =>
    by_cases hr : m < r + 1
    · rw [signChanged_of_gt hr]
      exact if_pos hr
    · rw [signChanged, signBits_of_le (Nat.le_of_not_lt hr)]
      exact if_neg hr

/-- The sign has changed after one more place if it had before or changes now. -/
theorem signChanged_succ {m : Nat} (hd : d < 2 ^ (m + 1)) (r : Nat) :
    signChanged (m + 1) d (r + 1) = (signChanged (m + 1) d r ||
      (d <<< (r + 1) % 2 ^ (m + 1)).testBit m != (d <<< r % 2 ^ (m + 1)).testBit m) := by
  have hlt := signBits_lt hd r
  have hhalf := signBits_succ_div_two (m + 1) d r
  have hpow : 2 ^ (r + 1 + 1) = 2 * 2 ^ (r + 1) := Nat.pow_succ'
  have hpow' : 2 ^ (r + 1) = 2 * 2 ^ r := Nat.pow_succ'
  rw [← testBit_zero_signBits, ← testBit_zero_signBits, signChanged, signChanged, hpow, Nat.testBit_zero, Nat.testBit_zero,
    Bool.eq_iff_iff]
  simp only [Bool.and_eq_true, Bool.or_eq_true, bne_iff_ne, ne_eq, decide_eq_decide]
  omega

theorem aslOp_succ (hn : 0 < n) (hd : d < 2 ^ n) (r : Nat) (x : Bool) :
    let p := aslOp n d r x
    let out := p.r.testBit (n - 1)
    aslOp n d (r + 1) x =
      ⟨stepLeft n p.r false, some out, p.v || (stepLeft n p.r false).testBit (n - 1) != out, out⟩ := by
  obtain ⟨m, rfl⟩ : ∃ m, n = m + 1 := ⟨n - 1, by omega⟩
  intro p out
  simp only [p, out, aslOp_r hd, ← shiftLeft_succ_mod, aslOp_v hd, Nat.add_sub_cancel]
  rw [← signChanged_succ hd, ← aslOp_v hd (r + 1) x, testBit_top_shiftLeft]
  rfl

/-! ### Shifts to the right (R834, R836) -/

theorem lsrOp_r (n d r : Nat) (x : Bool) : (lsrOp n d r x).r = d >>> r := by
  cases r <;> rfl

theorem lsrOp_succ (hd : d < 2 ^ n) (r : Nat) (x : Bool) :
    let p := lsrOp n d r x
    let out := p.r.testBit 0
    lsrOp n d (r + 1) x = ⟨stepRight n p.r false, some out, false, out⟩ := by
  have hout : (d >>> r).testBit 0 = (decide (r + 1 ≤ n) && d.testBit r) := by
    rw [Nat.testBit_shiftRight, Nat.add_zero]
    by_cases hr : r < n
    · rw [decide_eq_true (Nat.succ_le_of_lt hr), Bool.true_and]
    · rw [testBit_beyond hd (Nat.le_of_not_lt hr), Bool.and_false]
  have hstep : stepRight n (d >>> r) false = d >>> (r + 1) := by
    rw [stepRight, Bool.toNat_false, Nat.zero_mul]
    rfl
  intro p out
  simp only [p, out, lsrOp_r, hout, hstep]
  rfl

/-- The places below the sign that an arithmetic shift has not filled. -/
def unfilled (m r : Nat) : Nat := m + 1 - min r (m + 1)

theorem lt_unfilled {m r i : Nat} : i < unfilled m r ↔ i + r ≤ m := by
  rw [unfilled]
  omega

theorem asrOp_r (m d r : Nat) (x : Bool) :
    (asrOp (m + 1) d r x).r = d >>> r + if d.testBit m then 2 ^ (m + 1) - 2 ^ unfilled m r else 0 := by
  cases r with
  | zero => rw [unfilled, Nat.zero_min, Nat.sub_zero, Nat.sub_self, ite_self]; rfl
  | succ r => rfl

/-- The bits of an arithmetic shift: those of the operand, and then its sign. -/
theorem testBit_asrOp_r {m : Nat} (hd : d < 2 ^ (m + 1)) (r : Nat) (x : Bool) (i : Nat) :
    (asrOp (m + 1) d r x).r.testBit i = (decide (i ≤ m) && d.testBit (min (i + r) m)) := by
  have hle : unfilled m r ≤ m + 1 := Nat.sub_le _ _
  have hkept : d >>> r < 2 ^ unfilled m r := by
    rw [Nat.shiftRight_eq_div_pow, Nat.div_lt_iff_lt_mul (Nat.two_pow_pos r), ← Nat.pow_add]
    exact hd.trans_le (Nat.pow_le_pow_right (by decide) (by rw [unfilled]; omega))
  have hfill : (if d.testBit m then 2 ^ (m + 1) - 2 ^ unfilled m r else 0) =
      2 ^ unfilled m r * if d.testBit m then 2 ^ (m + 1 - unfilled m r) - 1 else 0 := by
    split
    · rw [Nat.mul_sub_one, ← Nat.pow_add, Nat.add_sub_cancel' hle]
    · rfl
  rw [asrOp_r, Nat.add_comm, hfill, Nat.testBit_two_pow_mul_add _ hkept, Nat.testBit_shiftRight]
  by_cases hi : i + r ≤ m
  · rw [if_pos (lt_unfilled.2 hi), decide_eq_true (by omega), Bool.true_and, Nat.min_eq_left hi, Nat.add_comm]
  · have hge : unfilled m r ≤ i := Nat.le_of_not_lt (mt lt_unfilled.1 hi)
    rw [if_neg hge.not_gt, Nat.min_eq_right (Nat.le_of_not_le hi)]
    cases d.testBit m
    · rw [if_neg Bool.false_ne_true, Nat.zero_testBit, Bool.and_false]
    · rw [if_pos rfl, Nat.testBit_two_pow_sub_one, Bool.and_true]
      exact decide_eq_decide.2 (by omega)

theorem asrOp_r_lt {m : Nat} (hd : d < 2 ^ (m + 1)) (r : Nat) (x : Bool) : (asrOp (m + 1) d r x).r < 2 ^ (m + 1) :=
  Nat.lt_pow_two_of_testBit _ fun i hi => by
    rw [testBit_asrOp_r hd, decide_eq_false (by omega), Bool.false_and]

theorem asrOp_succ_r {m : Nat} (hd : d < 2 ^ (m + 1)) (r : Nat) (x : Bool) :
    (asrOp (m + 1) d (r + 1) x).r = stepRight (m + 1) (asrOp (m + 1) d r x).r ((asrOp (m + 1) d r x).r.testBit m) := by
  refine Nat.eq_of_testBit_eq fun i => ?_
  rw [testBit_stepRight (asrOp_r_lt hd r x), testBit_asrOp_r hd, testBit_asrOp_r hd, testBit_asrOp_r hd]
  split
  case isTrue hi =>
    rw [hi, Nat.min_eq_right (by omega), Nat.min_eq_right (by omega)]
  case isFalse hi =>
    rw [show i + 1 + r = i + (r + 1) by omega]
    congr 1
    exact decide_eq_decide.2 (by omega)

/-- ASR's carry is the bit that stood lowest before: beyond the size, the sign. -/
theorem asrOp_succ_c {m : Nat} (hd : d < 2 ^ (m + 1)) (r : Nat) (x : Bool) :
    (asrOp (m + 1) d (r + 1) x).c = (asrOp (m + 1) d r x).r.testBit 0 := by
  rw [testBit_asrOp_r hd, decide_eq_true (Nat.zero_le m), Bool.true_and, Nat.zero_add]
  by_cases hr : r ≤ m
  · rw [Nat.min_eq_left hr]
    exact if_pos (Nat.succ_le_succ hr)
  · rw [Nat.min_eq_right (Nat.le_of_not_le hr)]
    exact if_neg (by omega)

theorem asrOp_succ (hn : 0 < n) (hd : d < 2 ^ n) (r : Nat) (x : Bool) :
    let p := asrOp n d r x
    let out := p.r.testBit 0
    asrOp n d (r + 1) x = ⟨stepRight n p.r (p.r.testBit (n - 1)), some out, false, out⟩ := by
  obtain ⟨m, rfl⟩ : ∃ m, n = m + 1 := ⟨n - 1, by omega⟩
  intro p out
  simp only [p, out, Nat.add_sub_cancel, ← asrOp_succ_r hd, ← asrOp_succ_c hd]
  rfl

/-! ### Rotations (R837, R838) -/

theorem testBit_rotl (hd : d < 2 ^ n) (hk : k ≤ n) (i : Nat) :
    (rotl n d k).testBit i = if i < k then d.testBit (n - k + i) else decide (i < n) && d.testBit (i - k) := by
  rw [rotl, Nat.testBit_or, Nat.testBit_mod_two_pow, Nat.testBit_shiftLeft, Nat.testBit_shiftRight]
  split
  case isTrue hi =>
    rw [decide_eq_false (by omega : ¬ i ≥ k), Bool.false_and, Bool.and_false, Bool.false_or]
  case isFalse hi =>
    rw [decide_eq_true (by omega : i ≥ k), Bool.true_and, testBit_beyond hd (by omega : n ≤ n - k + i), Bool.or_false]

theorem rotl_lt (hd : d < 2 ^ n) (hk : k ≤ n) : rotl n d k < 2 ^ n :=
  Nat.lt_pow_two_of_testBit _ fun i hi => by
    rw [testBit_rotl hd hk]
    split
    · exact testBit_beyond hd (by omega)
    · rw [decide_eq_false (by omega), Bool.false_and]

theorem rotl_zero (hd : d < 2 ^ n) : rotl n d 0 = d := by
  rw [rotl, Nat.shiftLeft_zero, Nat.mod_eq_of_lt hd, Nat.sub_zero, Nat.shiftRight_eq_div_pow, Nat.div_eq_of_lt hd, Nat.or_zero]

theorem rotl_self (n d : Nat) : rotl n d n = d := by
  rw [rotl, Nat.shiftLeft_eq, Nat.mul_mod_left, Nat.sub_self, Nat.zero_or]
  rfl

/-- One place more: the top bit comes in below. -/
theorem rotl_succ {m : Nat} (hd : d < 2 ^ (m + 1)) (hk : k ≤ m) :
    rotl (m + 1) d (k + 1) = stepLeft (m + 1) (rotl (m + 1) d k) ((rotl (m + 1) d k).testBit m) := by
  refine Nat.eq_of_testBit_eq fun i => ?_
  have hle : k ≤ m + 1 := by omega
  rw [testBit_rotl hd (by omega), testBit_rotl hd hle m, if_neg (by omega : ¬ m < k), decide_eq_true (Nat.lt_succ_self m),
    Bool.true_and]
  cases i with
  | zero =>
    rw [if_pos (Nat.succ_pos k), testBit_zero_stepLeft, Nat.add_sub_add_right, Nat.add_zero]
  | succ i =>
    rw [testBit_stepLeft, testBit_rotl hd hle]
    by_cases hi : i < k
    · rw [if_pos hi, if_pos (Nat.succ_lt_succ hi), decide_eq_true (by omega), Bool.true_and,
        show m + 1 - (k + 1) + (i + 1) = m + 1 - k + i by omega]
    · rw [if_neg hi, if_neg (by omega), Nat.add_sub_add_right, ← Bool.and_assoc, ← Bool.decide_and]
      congr 1
      exact decide_eq_decide.2 (by omega)

/-- The same for counts modulo the size. -/
theorem rotl_mod_succ {m : Nat} (hd : d < 2 ^ (m + 1)) (k : Nat) :
    rotl (m + 1) d ((k + 1) % (m + 1)) =
      stepLeft (m + 1) (rotl (m + 1) d (k % (m + 1))) ((rotl (m + 1) d (k % (m + 1))).testBit m) := by
  have hk : k % (m + 1) ≤ m := Nat.le_of_lt_succ (Nat.mod_lt k (Nat.succ_pos m))
  rw [← rotl_succ hd hk, ← Nat.mod_add_mod]
  rcases hk.eq_or_lt with hlast | hbelow
  · rw [hlast, Nat.mod_self, rotl_zero hd, rotl_self]
  · rw [Nat.mod_eq_of_lt (Nat.succ_lt_succ hbelow)]

/-- The rotation to the left that is one to the right by `r` places. -/
def rotr (n d r : Nat) : Nat := rotl n d ((n - r % n) % n)

theorem rotr_lt {m : Nat} (hd : d < 2 ^ (m + 1)) (r : Nat) : rotr (m + 1) d r < 2 ^ (m + 1) :=
  rotl_lt hd (Nat.mod_lt _ (Nat.succ_pos m)).le

theorem rotr_zero (hd : d < 2 ^ n) : rotr n d 0 = d := by
  rw [rotr, Nat.zero_mod, Nat.sub_zero, Nat.mod_self, rotl_zero hd]

/-- The counts to the left of two neighbouring rotations to the right. -/
theorem leftCount_succ (m r : Nat) : (m + 1 - r % (m + 1)) % (m + 1) = (m + 1 - (r + 1) % (m + 1) + 1) % (m + 1) := by
  have hr : r % (m + 1) ≤ m := Nat.le_of_lt_succ (Nat.mod_lt r (Nat.succ_pos m))
  rw [← Nat.mod_add_mod r]
  rcases hr.eq_or_lt with hlast | hbelow
  · rw [hlast, Nat.mod_self, Nat.sub_zero, Nat.add_mod_left, Nat.add_sub_cancel_left]
  · rw [Nat.mod_eq_of_lt (Nat.succ_lt_succ hbelow), show m + 1 - (r % (m + 1) + 1) + 1 = m + 1 - r % (m + 1) by omega]

/-- A place more to the right is undone by a place to the left. -/
theorem rotr_eq_stepLeft {m : Nat} (hd : d < 2 ^ (m + 1)) (r : Nat) :
    rotr (m + 1) d r = stepLeft (m + 1) (rotr (m + 1) d (r + 1)) ((rotr (m + 1) d (r + 1)).testBit m) := by
  rw [rotr, leftCount_succ, rotl_mod_succ hd, rotr]

/-- The bit that has come in above stood lowest before. -/
theorem testBit_rotr_succ {m : Nat} (hd : d < 2 ^ (m + 1)) (r : Nat) :
    (rotr (m + 1) d (r + 1)).testBit m = (rotr (m + 1) d r).testBit 0 := by
  rw [rotr_eq_stepLeft hd r, testBit_zero_stepLeft]

theorem rotr_succ {m : Nat} (hd : d < 2 ^ (m + 1)) (r : Nat) :
    rotr (m + 1) d (r + 1) = stepRight (m + 1) (rotr (m + 1) d r) ((rotr (m + 1) d r).testBit 0) := by
  rw [← testBit_rotr_succ hd, rotr_eq_stepLeft hd r, stepRight_stepLeft (rotr_lt hd (r + 1))]

theorem rolOp_r (hd : d < 2 ^ n) (r : Nat) (x : Bool) : (rolOp n d r x).r = rotl n d (r % n) := by
  cases r with
  | zero => rw [Nat.zero_mod, rotl_zero hd]; rfl
  | succ r => rfl

theorem rorOp_r (hd : d < 2 ^ n) (r : Nat) (x : Bool) : (rorOp n d r x).r = rotr n d r := by
  cases r with
  | zero => exact (rotr_zero hd).symm
  | succ r => rfl

theorem rolOp_succ (hn : 0 < n) (hd : d < 2 ^ n) (r : Nat) (x : Bool) :
    let p := rolOp n d r x
    let out := p.r.testBit (n - 1)
    rolOp n d (r + 1) x = ⟨stepLeft n p.r out, none, false, out⟩ := by
  obtain ⟨m, rfl⟩ : ∃ m, n = m + 1 := ⟨n - 1, by omega⟩
  intro p out
  have hstep : rotl (m + 1) d ((r + 1) % (m + 1)) = stepLeft (m + 1) p.r out := by
    rw [rotl_mod_succ hd, ← rolOp_r hd r x]
    rfl
  have hout : (rotl (m + 1) d ((r + 1) % (m + 1))).testBit 0 = out := by rw [hstep, testBit_zero_stepLeft]
  rw [← hstep, ← hout]
  rfl

theorem rorOp_succ (hn : 0 < n) (hd : d < 2 ^ n) (r : Nat) (x : Bool) :
    let p := rorOp n d r x
    let out := p.r.testBit 0
    rorOp n d (r + 1) x = ⟨stepRight n p.r out, none, false, out⟩ := by
  obtain ⟨m, rfl⟩ : ∃ m, n = m + 1 := ⟨n - 1, by omega⟩
  intro p out
  have hstep : rotr (m + 1) d (r + 1) = stepRight (m + 1) p.r out := by
    rw [rotr_succ hd, ← rorOp_r hd r x]
  have hout : (rotr (m + 1) d (r + 1)).testBit m = out := by rw [testBit_rotr_succ hd, ← rorOp_r hd r x]
  rw [← hstep, ← hout]
  rfl

/-! ### Rotations with X (R839, R840) -/

/-- The operand with X above it, rotated left. -/
def xRotl (n d r : Nat) (x : Bool) : Nat := rotl (n + 1) (d + x.toNat * 2 ^ n) (r % (n + 1))

/-- The operand with X below it, rotated right. -/
def xRotr (n d r : Nat) (x : Bool) : Nat := rotr (n + 1) (2 * d + x.toNat) r

theorem add_bit_above_lt (hd : d < 2 ^ n) (x : Bool) : d + x.toNat * 2 ^ n < 2 ^ (n + 1) := by
  rw [Nat.pow_succ]
  cases x
  · rw [Bool.toNat_false]
    omega
  · rw [Bool.toNat_true]
    omega

theorem add_bit_below_lt (hd : d < 2 ^ n) (x : Bool) : 2 * d + x.toNat < 2 ^ (n + 1) := by
  have hx := x.toNat_le
  rw [Nat.pow_succ]
  omega

theorem roxlOp_parts (hd : d < 2 ^ n) (r : Nat) (x : Bool) :
    (roxlOp n d r x).r = xRotl n d r x % 2 ^ n ∧ (roxlOp n d r x).x.getD x = (xRotl n d r x).testBit n := by
  cases r with
  | zero =>
    have hzero : xRotl n d 0 x = 2 ^ n * x.toNat + d := by
      rw [xRotl, Nat.zero_mod, rotl_zero (add_bit_above_lt hd x), Nat.add_comm, Nat.mul_comm]
    rw [hzero, Nat.mul_add_mod, Nat.mod_eq_of_lt hd, Nat.testBit_two_pow_mul_add _ hd, if_neg (Nat.lt_irrefl n), Nat.sub_self]
    exact ⟨rfl, by cases x <;> rfl⟩
  | succ r => exact ⟨rfl, rfl⟩

theorem roxrOp_parts (hd : d < 2 ^ n) (r : Nat) (x : Bool) :
    (roxrOp n d r x).r = xRotr n d r x / 2 ∧ (roxrOp n d r x).x.getD x = (xRotr n d r x).testBit 0 := by
  cases r with
  | zero =>
    have hx := x.toNat_le
    rw [xRotr, rotr_zero (add_bit_below_lt hd x), show (2 * d + x.toNat) / 2 = d by omega]
    exact ⟨rfl, by cases x <;> simp [roxrOp]⟩
  | succ r => exact ⟨rfl, rfl⟩

theorem roxlOp_succ (hn : 0 < n) (hd : d < 2 ^ n) (r : Nat) (x : Bool) :
    let p := roxlOp n d r x
    let out := p.r.testBit (n - 1)
    roxlOp n d (r + 1) x = ⟨stepLeft n p.r (p.x.getD x), some out, false, out⟩ := by
  obtain ⟨m, rfl⟩ : ∃ m, n = m + 1 := ⟨n - 1, by omega⟩
  intro p out
  obtain ⟨hr, hx⟩ := roxlOp_parts hd r x
  have hword : xRotl (m + 1) d (r + 1) x =
      stepLeft (m + 2) (xRotl (m + 1) d r x) ((xRotl (m + 1) d r x).testBit (m + 1)) :=
    rotl_mod_succ (add_bit_above_lt hd x) r
  have hstep : xRotl (m + 1) d (r + 1) x % 2 ^ (m + 1) = stepLeft (m + 1) p.r (p.x.getD x) := by
    rw [hword, stepLeft_mod, ← hr, ← hx]
  have hout : (xRotl (m + 1) d (r + 1) x).testBit (m + 1) = out := by
    rw [hword, testBit_stepLeft, ← Nat.testBit_mod_two_pow, ← hr]
    rfl
  rw [← hstep, ← hout]
  rfl

theorem roxrOp_succ (hn : 0 < n) (hd : d < 2 ^ n) (r : Nat) (x : Bool) :
    let p := roxrOp n d r x
    let out := p.r.testBit 0
    roxrOp n d (r + 1) x = ⟨stepRight n p.r (p.x.getD x), some out, false, out⟩ := by
  obtain ⟨m, rfl⟩ : ∃ m, n = m + 1 := ⟨n - 1, by omega⟩
  intro p out
  obtain ⟨hr, hx⟩ := roxrOp_parts hd r x
  have hword : xRotr (m + 1) d (r + 1) x = stepRight (m + 2) (xRotr (m + 1) d r x) ((xRotr (m + 1) d r x).testBit 0) :=
    rotr_succ (add_bit_below_lt hd x) r
  have hstep : xRotr (m + 1) d (r + 1) x / 2 = stepRight (m + 1) p.r (p.x.getD x) := by
    rw [hword, stepRight_div_two, ← hr, ← hx]
  have hout : (xRotr (m + 1) d (r + 1) x).testBit 0 = out := by
    have hlt : xRotr (m + 1) d r x < 2 ^ (m + 2) := rotr_lt (add_bit_below_lt hd x) r
    rw [hword, testBit_stepRight hlt, if_neg (Nat.succ_ne_zero m).symm, Nat.testBit_add_one, ← hr]
  rw [← hstep, ← hout]
  rfl

/-! ### The obligation -/

/-- Settles O30: each operation by one place more. -/
theorem shiftsAreRepeatedSingleShifts : Obligations.ShiftsAreRepeatedSingleShifts := by
  unfold Obligations.ShiftsAreRepeatedSingleShifts
  intro n hsize d r x hd half top low left right
  have hn : 0 < n := by
    simp only [List.mem_cons, List.not_mem_nil, or_false] at hsize
    omega
  refine ⟨?_, ?_, ?_, ?_, ?_, ?_, ?_, ?_, ?_, ?_⟩
  · intro f hf
    simp only [List.mem_cons, List.not_mem_nil, or_false] at hf
    rcases hf with rfl | rfl | rfl | rfl | rfl | rfl <;> exact ⟨rfl, rfl, rfl, rfl⟩
  · intro f hf
    simp only [List.mem_cons, List.not_mem_nil, or_false] at hf
    rcases hf with rfl | rfl <;> exact ⟨rfl, rfl, rfl, rfl⟩
  · exact Shifted.fields_of_eq (aslOp_succ hn hd r x)
  · exact Shifted.fields_of_eq (asrOp_succ hn hd r x)
  · exact Shifted.fields_of_eq (lslOp_succ hn hd r x)
  · exact Shifted.fields_of_eq (lsrOp_succ hd r x)
  · exact Shifted.fields_of_eq (rolOp_succ hn hd r x)
  · exact Shifted.fields_of_eq (rorOp_succ hn hd r x)
  · exact Shifted.fields_of_eq (roxlOp_succ hn hd r x)
  · exact Shifted.fields_of_eq (roxrOp_succ hn hd r x)

end Sys2Proof.Machine
end

section
/-! PROOFS. The shift and rotate instructions: what they leave is given by the operation on the operand as a number, whatever
the operation (44_shift_rotate R831, R832, R841). -/

namespace Sys2Proof.Machine

variable {s : State} {z : Size} {f : Nat → Nat → Nat → Bool → Shifted}

/-- An operation by `k` places on an operand of a size, X being that of the status register. -/
def shiftedAt (z : Size) (f : Nat → Nat → Nat → Bool → Shifted) (k : Nat) (sr : Word) (v : Long) : Shifted :=
  f z.bits (unsignedAt z v) k (srX sr)

/-- The status register after a shift or rotate (R832). -/
def shiftSr (z : Size) (f : Nat → Nat → Nat → Bool → Shifted) (k : Nat) (sr : Word) (v : Long) : Word :=
  let t := shiftedAt z f k sr v
  withCcr sr (t.x.getD (srX sr)) (negAt z (BitVec.ofNat 32 t.r)) (zeroAt z (BitVec.ofNat 32 t.r)) t.v t.c

theorem shiftedAt_trunc (z : Size) (f : Nat → Nat → Nat → Bool → Shifted) (k : Nat) (sr : Word) (v : Long) :
    shiftedAt z f k sr (z.trunc v) = shiftedAt z f k sr v := by
  rw [shiftedAt, unsignedAt_trunc, shiftedAt]

theorem applyShift_eq (z : Size) (f : Nat → Nat → Nat → Bool → Shifted) (k : Nat) (u : State) (v : Long) :
    applyShift z f k u v =
      ({ u with sr := shiftSr z f k u.sr v }, BitVec.ofNat 32 (shiftedAt z f k u.sr v).r) := by
  have ht : f z.bits (z.trunc v).toNat k u.flagX = shiftedAt z f k u.sr v := by rw [trunc_toNat]; rfl
  rw [applyShift, ht, ← negAt_eq_msb, ← zeroAt_eq_isZero]
  rfl

/-- A shift as an operation on one operand. -/
theorem applyShift_computes (z : Size) (f : Nat → Nat → Nat → Bool → Shifted) (k : Nat) :
    Computes z (fun u _ v => applyShift z f k u v) (fun sr _ v => BitVec.ofNat 32 (shiftedAt z f k sr v).r)
      (fun sr _ v => shiftSr z f k sr v) where
  eq u _ v := applyShift_eq z f k u v
  result sr _ v := by rw [shiftedAt_trunc]
  status sr _ v := by simp only [shiftSr, shiftedAt_trunc]

/-- A shift of a data register (R831). -/
theorem shiftReg_leaves (h : Ready s) {i : Instr} {cnt dy : BitVec 3} {ir : Bool}
    (hexec : exec i s = shiftReg z f cnt ir dy s) :
    let k := shiftCount s cnt ir
    Leaves i s 1 (s.put s.a (shiftSr z f k s.sr (s.getD dy)) z (.d dy)
      (BitVec.ofNat 32 (shiftedAt z f k s.sr (s.getD dy)).r)) := by
  refine leaves_of_next h ?_ (h.flat.of_eq rfl rfl rfl) rfl
  rw [hexec, shiftReg, applyShift_eq]
  rfl

/-- A shift of a word of memory by one place (R841). -/
theorem shiftMem_putsBack (h : Ready s) {i : Instr} {ea : Ea} (hexec : exec i s = shiftMem f ea s) :
    PutsBack i s .w ea 1 (fun v => BitVec.ofNat 32 (shiftedAt .w f 1 s.sr v).r) (shiftSr .w f 1 s.sr) :=
  (applyShift_computes .w f 1).putsBack h hexec

/-- Settles O31: every form is a shift of a register or of a word of memory by one of the eight operations. -/
theorem shiftInstructionsShift : Obligations.ShiftInstructionsShift := by
  unfold Obligations.ShiftInstructionsShift
  intro s cnt dy ir ea h count res sr
  refine ⟨?_, ?_⟩
  · intro p hp
    have hexec : exec p.1 s = shiftReg p.2.1 p.2.2 cnt ir dy s := by
      simp only [List.mem_cons, List.not_mem_nil, or_false] at hp
      rcases hp with rfl | rfl | rfl | rfl | rfl | rfl | rfl | rfl | rfl | rfl | rfl | rfl | rfl | rfl | rfl | rfl | rfl |
        rfl | rfl | rfl | rfl | rfl | rfl | rfl <;> rfl
    exact shiftReg_leaves h hexec
  · intro p hp
    have hexec : exec p.1 s = shiftMem p.2 ea s := by
      simp only [List.mem_cons, List.not_mem_nil, or_false] at hp
      rcases hp with rfl | rfl | rfl | rfl | rfl | rfl | rfl | rfl <;> rfl
    exact shiftMem_putsBack h hexec

end Sys2Proof.Machine
end

section
/-! PROOFS. The instructions that test and change one bit (45_bit_and_bitfield R860 to R865): `bitOp` as a function of the
status register and the operand. -/

namespace Sys2Proof.Machine

variable {s : State} {i : Instr} {ea : Ea} {pre : Nat}

/-- The status register after bit `n` of the operand `v` has been tested: only Z may change (R861). -/
def bitSr (z : Size) (n : Nat) (sr : Word) (v : Long) : Word :=
  withCcr sr (srX sr) (srN sr) (!v.getLsbD (n % z.bits)) (srV sr) (srC sr)

theorem bitMask_eq (z : Size) (n : Nat) : bitMask z n = BitVec.ofNat 32 (2 ^ (n % z.bits)) :=
  BitVec.eq_of_toNat_eq (by rw [bitMask, BitVec.toNat_twoPow, BitVec.toNat_ofNat])

theorem bits_pos_le (z : Size) : 0 < z.bits ∧ z.bits ≤ 32 := by cases z <;> decide

/-- A value and the mask of one of its bits have no bit in common exactly if that bit is clear. -/
theorem and_bitMask_eq_zero (z : Size) (n : Nat) (v : Long) : (v &&& bitMask z n == 0) = !v.getLsbD (n % z.bits) := by
  obtain ⟨hpos, hle⟩ := bits_pos_le z
  have hn : n % z.bits < 32 := (Nat.mod_lt n hpos).trans_le hle
  rw [bitMask, BitVec.and_twoPow]
  cases v.getLsbD (n % z.bits)
  · rfl
  · rw [if_pos rfl, Bool.not_true, beq_eq_false_iff_ne]
    intro hzero
    have hbit := congrArg (·.getLsbD (n % z.bits)) hzero
    simp [BitVec.getLsbD_twoPow, hn, -BitVec.getLsbD_eq_getElem] at hbit

theorem bitOp_eq (f : Long → Long → Long) (z : Size) (n : Nat) (u : State) (v : Long) :
    bitOp f z n u v = ({ u with sr := bitSr z n u.sr v }, f v (BitVec.ofNat 32 (2 ^ (n % z.bits)))) := by
  rw [bitOp, and_bitMask_eq_zero, bitMask_eq]
  rfl

/-- BTST. -/
theorem bitTest_leavesFrom (h : Ready s) (n : Nat) (hexec : exec i s = bitTest ea pre n s) :
    LeavesFrom i s (bitSize ea) ea pre fun v a => { s with a := a, sr := bitSr (bitSize ea) n s.sr v } := by
  have hflags : ∀ u v, (bitOp (fun d _ => d) (bitSize ea) n u v).1 = { u with sr := bitSr (bitSize ea) n u.sr v } :=
    fun u v => by rw [bitOp_eq]
  obtain ⟨l, v, a, t, hread, hnext, hdone⟩ := testEa_flat h (bitSize ea) ea pre
    (f := fun u v => (bitOp (fun d _ => d) (bitSize ea) n u v).1) fun u v hu => by
      rw [hflags]
      exact hu.of_eq rfl rfl rfl
  rw [hflags] at hdone
  exact ⟨l, v, a, t, hread, hexec.trans hnext, hdone, sameBytes_of_ram hdone.ram⟩

/-- BCHG, BCLR and BSET. -/
theorem bitModify_putsBack (h : Ready s) (f : Long → Long → Long) (n : Nat) (hexec : exec i s = bitModify f ea pre n s) :
    PutsBack i s (bitSize ea) ea pre (fun v => f v (BitVec.ofNat 32 (2 ^ (n % (bitSize ea).bits))))
      (bitSr (bitSize ea) n s.sr) := by
  obtain ⟨l, v, a, t, hread, hnext, hdone⟩ := modifyEa_flat h (bitSize ea) ea pre 0
    (f := fun u _ v => bitOp f (bitSize ea) n u v) fun u _ v =>
      ⟨_, u.mem.draws, congrArg Prod.fst (bitOp_eq f (bitSize ea) n u v)⟩
  rw [bitOp_eq] at hdone
  exact ⟨l, v, a, t, hread, hexec.trans hnext, hdone, (put_storesTo s a _ _ l _).of_ram hdone.ram⟩

/-- Settles O32: each form is a test, or a change, of one bit of the operand. -/
theorem bitInstructionsChangeOneBit : Obligations.BitInstructionsChangeOneBit := by
  unfold Obligations.BitInstructionsChangeOneBit
  intro s dn ea b h z sr bit
  refine ⟨?_, ?_⟩
  · intro p hp
    have hexec : exec p.1 s = bitTest ea p.2.1 p.2.2 s := by
      simp only [List.mem_cons, List.not_mem_nil, or_false] at hp
      rcases hp with rfl | rfl <;> rfl
    exact bitTest_leavesFrom h p.2.2 hexec
  · intro p hp
    have hexec : exec p.1 s = bitModify p.2.2.2 ea p.2.1 p.2.2.1 s := by
      simp only [List.mem_cons, List.not_mem_nil, or_false] at hp
      rcases hp with rfl | rfl | rfl | rfl | rfl | rfl <;> rfl
    exact bitModify_putsBack h p.2.2.2 p.2.2.1 hexec

end Sys2Proof.Machine
end

section
/-! PROOFS. Bit fields of a data register (45_bit_and_bitfield R880 to R891): fields as values of `w` bits, what the eight
instructions compute from a field wherever it is, and the field of a register by rotation. -/

namespace Sys2Proof.Machine

variable {s : State} {i : Instr} {bf : BfSpec} {ea : Ea} {dn : BitVec 3} {f : Long} {w : Nat}

/-! ### Values of `w` bits -/

theorem fieldWidth_pos_le (s : State) (bf : BfSpec) : 1 ≤ fieldWidth s bf ∧ fieldWidth s bf ≤ 32 := by
  unfold fieldWidth
  extract_lets n
  have hn : n < 32 := by
    simp only [n]
    split
    · exact Nat.mod_lt _ (by decide)
    · exact bf.width.isLt
  split <;> omega

theorem getLsbD_lowBits (v : Long) (hw : w ≤ 32) (k : Nat) : (lowBits v w).getLsbD k = (decide (k < w) && v.getLsbD k) := by
  rw [lowBits, BitVec.getLsbD_and, BitVec.getLsbD_ushiftRight, BitVec.getLsbD_allOnes, Bool.and_comm,
    decide_eq_decide.2 (show 32 - w + k < 32 ↔ k < w by omega)]

/-- `f` is a field of `w` bits: it has none above them. -/
def IsField (w : Nat) (f : Long) : Prop := ∀ k, w ≤ k → f.getLsbD k = false

theorem isField_lowBits (v : Long) (hw : w ≤ 32) : IsField w (lowBits v w) := fun k hk => by
  rw [getLsbD_lowBits v hw, decide_eq_false (Nat.not_lt.2 hk), Bool.false_and]

theorem IsField.toNat_lt (hf : IsField w f) : f.toNat < 2 ^ w := Nat.lt_pow_two_of_testBit _ hf

theorem isField_zero : IsField w 0 := fun _ _ => BitVec.getLsbD_zero

theorem isField_ushiftRight (v : Long) (hw : w ≤ 32) : IsField w (v >>> (32 - w)) := fun k hk => by
  rw [BitVec.getLsbD_ushiftRight, BitVec.getLsbD_of_ge v _ (by omega)]

/-- The field of which every bit is set. -/
theorem lowBits_allOnes (w : Nat) : lowBits (BitVec.allOnes 32) w = BitVec.allOnes 32 >>> (32 - w) := BitVec.allOnes_and

theorem lowBits_not (hf : IsField w f) (hw : w ≤ 32) : lowBits (~~~f) w = f ^^^ (BitVec.allOnes 32 >>> (32 - w)) := by
  refine BitVec.eq_of_getLsbD_eq fun k hk => ?_
  rw [← lowBits_allOnes, BitVec.getLsbD_xor, getLsbD_lowBits _ hw, getLsbD_lowBits _ hw, BitVec.getLsbD_not,
    BitVec.getLsbD_allOnes]
  by_cases h : k < w
  · simp [h, hk]
  · simp [h, hf k (Nat.not_lt.1 h)]

/-- The sign extension of a field, as an integer (R885). -/
theorem toInt_signExtended (f : Long) (hpos : 1 ≤ w) (hw : w ≤ 32) :
    ((f <<< (32 - w)).sshiftRight (32 - w)).toInt = (f.toNat : Int).bmod (2 ^ w) := by
  have hsign : (f <<< (32 - w)).msb = (f.extractLsb' 0 w).msb := by
    rw [BitVec.msb_eq_getLsbD_last, BitVec.msb_eq_getLsbD_last, BitVec.getLsbD_shiftLeft, BitVec.getLsbD_extractLsb']
    simp [show ¬ 31 < 32 - w by omega, show w - 1 < w by omega, show 31 - (32 - w) = w - 1 by omega,
      -BitVec.getLsbD_eq_getElem]
  have hshift : (f <<< (32 - w)).sshiftRight (32 - w) = (f.extractLsb' 0 w).signExtend 32 := by
    refine BitVec.eq_of_getLsbD_eq fun k hk => ?_
    rw [BitVec.getLsbD_sshiftRight, BitVec.getLsbD_signExtend, hsign]
    by_cases h : k < w
    · simp [h, hk, show 32 - w + k < 32 by omega, -BitVec.getLsbD_eq_getElem]
    · simp [h, hk, show ¬ 32 - w + k < 32 by omega]
  rw [hshift, BitVec.toInt_signExtend_of_le hw, BitVec.toInt_eq_toNat_bmod, BitVec.extractLsb'_toNat, Nat.shiftRight_zero]
  exact_mod_cast Int.emod_bmod (f.toNat : Int) (2 ^ w)

/-- The bits of a field before the first set one (R890). -/
theorem leadingZeros_spec (f : Long) : ∀ w : Nat, leadingZeros f w ≤ w ∧ (∀ j < leadingZeros f w, f.getLsbD (w - 1 - j) = false) ∧
    (leadingZeros f w < w → f.getLsbD (w - 1 - leadingZeros f w) = true)
  | 0 => ⟨Nat.le_refl 0, fun _ hj => absurd hj (Nat.not_lt_zero _), fun h => absurd h (Nat.lt_irrefl 0)⟩
  | w + 1 => by
    obtain ⟨hle, hzeros, hone⟩ := leadingZeros_spec f w
    unfold leadingZeros
    by_cases htop : f.getLsbD w = true
    · rw [if_pos htop]
      exact ⟨Nat.zero_le _, fun _ hj => absurd hj (Nat.not_lt_zero _), fun _ => htop⟩
    · rw [if_neg htop]
      refine ⟨by omega, fun j hj => ?_, fun hlt => ?_⟩
      · cases j with
        | zero => exact eq_false_of_ne_true htop
        | succ j => exact (congrArg f.getLsbD (by omega)).trans (hzeros j (by omega))
      · exact (congrArg f.getLsbD (by omega)).trans (hone (by omega))

/-! ### What the instructions do with a field -/

/-- The status register after a bit field instruction (R882). -/
def fieldSr (w : Nat) (sr : Word) (g : Long) : Word := withCcr sr (srX sr) (g.getLsbD (w - 1)) (decide (g = 0)) false false

theorem setField_eq (u : State) (g : Long) (w : Nat) : u.setField g w = { u with sr := fieldSr w u.sr g } := rfl

/-- Where BFFFO counts from: the offset, of a register modulo 32 (R890). -/
def fieldBase (ea : Ea) (off : Long) : Long :=
  match ea with
  | .dn _ => off &&& 31
  | _ => off

/-- BFCHG, BFCLR, BFSET and BFINS, with the field that each puts back and the one that sets the flags. -/
def fieldChanges (s : State) (dn : BitVec 3) (bf : BfSpec) (ea : Ea) (f : Long) : List (Instr × Long × Long) :=
  let w := fieldWidth s bf
  let ones : Long := BitVec.allOnes 32 >>> (32 - w)
  [(.bfchg bf ea, f ^^^ ones, f), (.bfclr bf ea, 0, f), (.bfset bf ea, ones, f),
    (.bfins dn bf ea, s.getD dn &&& ones, s.getD dn &&& ones)]

section located
variable {L : Located} (hfield : getField s ea (fieldOffset s bf) (fieldWidth s bf) = .ok L s)
include hfield

/-- An instruction that puts a function of the field in data registers, or nothing. -/
theorem fieldRead_leaves (h : Ready s) {k : State → Long → Nat → State} {d : Bank Long} (hexec : exec i s = fieldRead bf ea k s)
    (hk : k { s with sr := fieldSr (fieldWidth s bf) s.sr L.f } L.f (fieldWidth s bf) =
      { s with d := d, sr := fieldSr (fieldWidth s bf) s.sr L.f }) :
    Leaves i s (2 + Ea.words 1 ea) { s with d := d, sr := fieldSr (fieldWidth s bf) s.sr L.f } := by
  refine leaves_registers h (hexec.trans ?_)
  rw [fieldRead, hfield, orAbort_ok, setField_eq, hk]

/-- BFTST, BFEXTU, BFEXTS and BFFFO. -/
theorem fieldReads_leave (h : Ready s) (dn : BitVec 3) :
    let w := fieldWidth s bf
    let n := 2 + Ea.words 1 ea
    let sr := fieldSr w s.sr L.f
    Leaves (.bftst bf ea) s n { s with sr := sr } ∧
    Leaves (.bfextu dn bf ea) s n { s with d := s.d.set dn L.f, sr := sr } ∧
    (∃ g : Long, g.toInt = (L.f.toNat : Int).bmod (2 ^ w) ∧
      Leaves (.bfexts dn bf ea) s n { s with d := s.d.set dn g, sr := sr }) ∧
    (∃ k : Nat, k ≤ w ∧ (∀ j < k, L.f.getLsbD (w - 1 - j) = false) ∧ (k < w → L.f.getLsbD (w - 1 - k) = true) ∧
      Leaves (.bfffo dn bf ea) s n
        { s with d := s.d.set dn (fieldBase ea (fieldOffset s bf) + BitVec.ofNat 32 k), sr := sr }) := by
  intro w n sr
  obtain ⟨hpos, hw⟩ := fieldWidth_pos_le s bf
  obtain ⟨hle, hzeros, hone⟩ := leadingZeros_spec L.f w
  refine ⟨?_, ?_, ⟨_, toInt_signExtended L.f hpos hw, ?_⟩, ⟨_, hle, hzeros, hone, ?_⟩⟩
  · exact fieldRead_leaves hfield h (k := fun u _ _ => u) rfl rfl
  · exact fieldRead_leaves hfield h (k := fun u f _ => u.setD dn f) rfl rfl
  · exact fieldRead_leaves hfield h (k := fun u f w => u.setD dn ((f <<< (32 - w)).sshiftRight (32 - w))) rfl rfl
  · exact fieldRead_leaves hfield h rfl (k := fun u f w => u.setD dn
      (fieldBase ea (fieldOffset s bf) + BitVec.ofNat 32 (leadingZeros f w))) rfl

theorem fieldModify_eq (new cc : Long → Nat → Long) :
    let p := L.put (new L.f (fieldWidth s bf))
      { s with sr := fieldSr (fieldWidth s bf) s.sr (cc L.f (fieldWidth s bf)) }
    fieldModify bf ea new cc s = nextWith s p.1 (2 + Ea.words 1 ea) p.2 := by
  intro p
  rw [fieldModify, hfield, orAbort_ok, setField_eq]

theorem fieldChanges_exec (hf : IsField (fieldWidth s bf) L.f) :
    ∀ q ∈ fieldChanges s dn bf ea L.f,
      let p := L.put q.2.1 { s with sr := fieldSr (fieldWidth s bf) s.sr q.2.2 }
      IsField (fieldWidth s bf) q.2.1 ∧ exec q.1 s = nextWith s p.1 (2 + Ea.words 1 ea) p.2 := by
  obtain ⟨-, hw⟩ := fieldWidth_pos_le s bf
  intro q hq
  simp only [fieldChanges, List.mem_cons, List.not_mem_nil, or_false] at hq
  rcases hq with rfl | rfl | rfl | rfl
  · rw [← lowBits_not hf hw]
    exact ⟨isField_lowBits _ hw, fieldModify_eq hfield (fun f w => lowBits (~~~f) w) fun f _ => f⟩
  · exact ⟨isField_zero, fieldModify_eq hfield (fun _ _ => 0) fun f _ => f⟩
  · rw [← lowBits_allOnes]
    exact ⟨isField_lowBits _ hw, fieldModify_eq hfield (fun _ w => lowBits (BitVec.allOnes 32) w) fun f _ => f⟩
  · exact ⟨isField_lowBits _ hw,
      fieldModify_eq hfield (fun _ w => lowBits (s.getD dn) w) fun _ w => lowBits (s.getD dn) w⟩

end located

/-! ### The field of a data register (R881) -/

theorem getLsbD_rotateLeft_of_lt (v : Long) {o k : Nat} (ho : o < 32) (hk : k < 32) :
    (v.rotateLeft o).getLsbD k = v.getLsbD ((k + (32 - o)) % 32) := by
  rw [BitVec.getLsbD_rotateLeft, Nat.mod_eq_of_lt ho]
  by_cases h : k < o
  · rw [decide_eq_true h, cond_true, show (k + (32 - o)) % 32 = 32 - o + k by omega]
  · rw [decide_eq_false h, cond_false, decide_eq_true hk, Bool.true_and, show (k + (32 - o)) % 32 = k - o by omega]

theorem getLsbD_rotateRight_of_lt (v : Long) {o k : Nat} (ho : o < 32) (hk : k < 32) :
    (v.rotateRight o).getLsbD k = v.getLsbD ((k + o) % 32) := by
  rw [BitVec.getLsbD_rotateRight, Nat.mod_eq_of_lt ho]
  by_cases h : k < 32 - o
  · rw [decide_eq_true h, cond_true, show (k + o) % 32 = o + k by omega]
  · rw [decide_eq_false h, cond_false, decide_eq_true hk, Bool.true_and, show (k + o) % 32 = k - (32 - o) by omega]

/-- Bit `j` of a field, counted from its most significant one, is bit `31 - (o + j)` of the register, modulo 32. -/
theorem getLsbD_registerField (v : Long) {o j : Nat} (ho : o < 32) (hw : w ≤ 32) (hj : j < w) :
    (v.rotateLeft o >>> (32 - w)).getLsbD (w - 1 - j) = v.getLsbD (31 - (o + j) % 32) := by
  rw [BitVec.getLsbD_ushiftRight, getLsbD_rotateLeft_of_lt v ho (by omega)]
  exact congrArg v.getLsbD (by omega)

/-- A register with a field put in it. -/
def insertField (v : Long) (o w : Nat) (f : Long) : Long :=
  ((v.rotateLeft o &&& (BitVec.allOnes 32 >>> w)) ||| (f <<< (32 - w))).rotateRight o

theorem getField_register (s : State) (r : BitVec 3) (off : Long) (w : Nat) :
    getField s (.dn r) off w = .ok ⟨(s.getD r).rotateLeft (off.toNat % 32) >>> (32 - w), fun f t =>
      (t.setD r (insertField (s.getD r) (off.toNat % 32) w f), [])⟩ s := rfl

/-- A bit of the register, rotated to where the field is at the top: the field, and below it the bits that stay. -/
theorem getLsbD_insertField (v f : Long) {o k : Nat} (ho : o < 32) (hk : k < 32) (hw : w ≤ 32) :
    (insertField v o w f).getLsbD k =
      if (k + o) % 32 < 32 - w then v.getLsbD k else f.getLsbD ((k + o) % 32 - (32 - w)) := by
  have hlt : (k + o) % 32 < 32 := Nat.mod_lt _ (by decide)
  have hback : ((k + o) % 32 + (32 - o)) % 32 = k := by omega
  rw [insertField, getLsbD_rotateRight_of_lt _ ho hk, BitVec.getLsbD_or, BitVec.getLsbD_and, BitVec.getLsbD_ushiftRight,
    BitVec.getLsbD_allOnes, BitVec.getLsbD_shiftLeft, getLsbD_rotateLeft_of_lt v ho hlt, hback]
  by_cases h : (k + o) % 32 < 32 - w
  · simp [h, show w + (k + o) % 32 < 32 by omega]
  · simp [h, hlt, show ¬ w + (k + o) % 32 < 32 by omega, -BitVec.getLsbD_eq_getElem]

theorem insertField_field (v f : Long) {o j : Nat} (ho : o < 32) (hw : w ≤ 32) (hj : j < w) :
    (insertField v o w f).getLsbD (31 - (o + j) % 32) = f.getLsbD (w - 1 - j) := by
  rw [getLsbD_insertField v f ho (by omega) hw, if_neg (by omega)]
  exact congrArg f.getLsbD (by omega)

theorem insertField_frame (v f : Long) {o k : Nat} (ho : o < 32) (hk : k < 32) (hw : w ≤ 32)
    (hout : ∀ j < w, k ≠ 31 - (o + j) % 32) : (insertField v o w f).getLsbD k = v.getLsbD k := by
  have hlow : (k + o) % 32 < 32 - w := by
    by_contra hge
    exact hout (31 - (k + o) % 32) (by omega) (by omega)
  rw [getLsbD_insertField v f ho hk hw, if_pos hlow]

/-- The offset in a register, as BFFFO counts from it. -/
theorem and_31_add_ofNat (off : Long) (k : Nat) : (off &&& 31) + BitVec.ofNat 32 k = BitVec.ofNat 32 (off.toNat % 32 + k) := by
  have hmask : off &&& 31 = BitVec.ofNat 32 (off.toNat % 32) := BitVec.eq_of_toNat_eq (by
    rw [BitVec.toNat_and, show (31 : Long).toNat = 2 ^ 5 - 1 from rfl, Nat.and_two_pow_sub_one_eq_mod, BitVec.toNat_ofNat]
    omega)
  rw [hmask, BitVec.ofNat_add]

/-- Settles O33: what the instructions do with a field, on the field that the rotation by the offset brings to the top. -/
theorem bitFieldsOfADataRegister : Obligations.BitFieldsOfADataRegister := by
  unfold Obligations.BitFieldsOfADataRegister
  intro s dn r bf h off w v f sr ins
  have ho : off < 32 := Nat.mod_lt _ (by decide)
  obtain ⟨hpos, hw⟩ := fieldWidth_pos_le s bf
  have hfield := getField_register s r (fieldOffset s bf) w
  obtain ⟨tst, extu, exts, k, hle, hzeros, hone, ffo⟩ := fieldReads_leave hfield h dn
  rw [fieldBase, and_31_add_ofNat] at ffo
  refine ⟨⟨hpos, hw, fun j hj => getLsbD_registerField v ho hw hj⟩, tst, extu, exts, ⟨k, hle, hzeros, hone, ffo⟩, ?_⟩
  intro p hp
  obtain ⟨-, hexec⟩ := fieldChanges_exec hfield (dn := dn) (isField_ushiftRight _ hw) p hp
  exact ⟨insertField v off w p.2.1, fun j hj => insertField_field v p.2.1 ho hw hj,
    fun k hk hout => insertField_frame v p.2.1 ho hk hw hout, leaves_registers h hexec⟩

end Sys2Proof.Machine
end

section
/-! PROOFS. Bit fields of memory (45_bit_and_bitfield R880 to R891; 20_memory R153): the bytes that hold a field are read in
chunks as one value and written back in chunks as one row of bytes. -/

namespace Sys2Proof.Machine

variable {s t : State} {ea : Ea} {w : Nat}

/-! ### The bits of a row of bytes -/

theorem getElem_getBytes (ram : List Host.Cell) (base : Nat) (a : Long) {n k : Nat} (hk : k < (getBytes ram base a n).length) :
    (getBytes ram base a n)[k] = cellGet ram (base + (a + BitVec.ofNat 32 k).toNat) := by
  have hn : k < n := by rwa [getBytes_length] at hk
  obtain ⟨m, rfl⟩ := Nat.exists_eq_add_of_lt hn
  have hsplit := getBytes_append ram base k (m + 1) a
  rw [← Nat.add_assoc] at hsplit
  simp only [← hsplit]
  rw [List.getElem_append_right (by simp)]
  simp [getBytes]

theorem getElem_bytesAt (s : State) (a : Long) {n k : Nat} (hk : k < (s.bytesAt a n).length) :
    (s.bytesAt a n)[k] = s.byteAt (a + BitVec.ofNat 32 k) :=
  (getElem_getBytes s.mem.ram 0 a hk).trans (by rw [Nat.zero_add, State.byteAt])

@[simp] theorem bytesAt_length (s : State) (a : Long) (n : Nat) : (s.bytesAt a n).length = n := getBytes_length ..

/-- A bit of the space that starts at `a`, counted upwards. -/
theorem fieldBit_natCast (s : State) (a : Long) (k : Nat) :
    s.fieldBit a k = (s.byteAt (a + BitVec.ofNat 32 (k / 8))).getLsbD (7 - k % 8) := by
  rw [State.fieldBit, show (k : Int) / 8 = ((k / 8 : Nat) : Int) by omega, show ((k : Int) % 8).toNat = k % 8 by omega,
    BitVec.ofInt_natCast]

/-- Whole bytes of an offset may be counted in the address. -/
theorem fieldBit_add_mul (s : State) (a : Long) (q k : Int) :
    s.fieldBit a (8 * q + k) = s.fieldBit (a + BitVec.ofInt 32 q) k := by
  rw [State.fieldBit, State.fieldBit, show (8 * q + k) / 8 = q + k / 8 by omega, show (8 * q + k) % 8 = k % 8 by omega,
    BitVec.ofInt_add, BitVec.add_assoc]

/-- A bit of the bytes at `a` as one value. -/
theorem getLsbD_lineOfBytes_bytesAt (s : State) (a : Long) {n k : Nat} (hn : n ≤ 16) (hk : k < 8 * n) :
    (lineOfBytes (s.bytesAt a n)).getLsbD (8 * n - 1 - k) = s.fieldBit a k := by
  have hdiv : (8 * n - 1 - k) / 8 = n - 1 - k / 8 := by omega
  have hmod : (8 * n - 1 - k) % 8 = 7 - k % 8 := by omega
  have hplace : n - 1 - (n - 1 - k / 8) = k / 8 := by omega
  rw [lineOfBytes, getLsbD_foldl_bytes (by omega), hdiv, hmod,
    List.getD_eq_getElem _ _ (by rw [List.length_reverse, bytesAt_length]; omega), List.getElem_reverse, fieldBit_natCast]
  simp only [bytesAt_length, hplace, getElem_bytesAt]

/-- A bit of memory where the bytes of `v` have been stored. -/
theorem fieldBit_of_bytesAt {a : Long} {n k : Nat} {v : BitVec 128} (h : s.bytesAt a n = bytesOfLine v n) (hk : k < 8 * n) :
    s.fieldBit a k = v.getLsbD (8 * n - 1 - k) := by
  have hbyte : s.byteAt (a + BitVec.ofNat 32 (k / 8)) = v.extractLsb' (8 * (n - 1 - k / 8)) 8 := by
    rw [← getElem_bytesAt s a (n := n) (by rw [bytesAt_length]; omega)]
    simp only [h, bytesOfLine_eq, List.getElem_map, List.getElem_reverse, List.getElem_range, List.length_range]
  rw [fieldBit_natCast, hbyte, BitVec.getLsbD_extractLsb', decide_eq_true (by omega), Bool.true_and]
  exact congrArg v.getLsbD (by omega)

/-! ### Chunks -/

theorem fieldChunks_sum {n : Nat} (hpos : 1 ≤ n) (hle : n ≤ 5) : (fieldChunks n).sum = n ∧ ∀ k ∈ fieldChunks n, k ≤ 4 := by
  obtain rfl | rfl | rfl | rfl | rfl : n = 1 ∨ n = 2 ∨ n = 3 ∨ n = 4 ∨ n = 5 := by omega
  all_goals decide

/-- Reading in chunks is reading at once. -/
theorem readChunks_flat (h : Flat s) : ∀ (ns : List Nat) (a : Long) (bs : List Byte), (∀ n ∈ ns, n ≤ 4) →
    readChunks s a ((lineOfBytes bs).setWidth 64) ns = .ok ((lineOfBytes (bs ++ s.bytesAt a ns.sum)).setWidth 64) s
  | [], a, bs, _ => by rw [List.sum_nil, State.bytesAt, getBytes, List.append_nil, readChunks]
  | n :: ns, a, bs, hle => by
    have hlen : (getBytes s.mem.ram 0 a n).length = n := getBytes_length ..
    have hacc : (lineOfBytes bs).setWidth 64 <<< (8 * n) ||| (ofBytes (getBytes s.mem.ram 0 a n)).zeroExtend 64 =
        (lineOfBytes (bs ++ getBytes s.mem.ram 0 a n)).setWidth 64 := by
      rw [lineOfBytes_append, ← zeroExtend_ofBytes (hlen.trans_le (hle n List.mem_cons_self)), hlen]
      refine BitVec.eq_of_getLsbD_eq fun i hi => ?_
      simp [hi, show i - 8 * n < 64 by omega, -BitVec.getLsbD_eq_getElem]
    rw [readChunks, h.read, Res.bind_ok, hacc, readChunks_flat h ns _ _ fun k hk => hle k (List.mem_cons_of_mem n hk),
      List.append_assoc, List.sum_cons]
    simp only [State.bytesAt, getBytes_append]

theorem getLsbD_setWidth_128 (v : BitVec 64) (k : Nat) : (v.setWidth 128).getLsbD k = v.getLsbD k := by
  rw [BitVec.getLsbD_setWidth]
  by_cases h : k < 128
  · rw [decide_eq_true h, Bool.true_and]
  · rw [BitVec.getLsbD_of_ge v k (by omega), Bool.and_false]

/-- The bytes of one chunk of a value, and those below it. -/
theorem toBytes_append_bytesOfLine (v : BitVec 64) (k : Nat) : ∀ {n : Nat}, n ≤ 4 →
    toBytes ((v >>> (8 * k)).extractLsb' 0 32) n ++ bytesOfLine (v.setWidth 128) k = bytesOfLine (v.setWidth 128) (n + k)
  | 0, _ => by rw [Nat.zero_add]; rfl
  | n + 1, hn => by
    have hbyte : ((v >>> (8 * k)).extractLsb' 0 32).extractLsb' (8 * n) 8 = (v.setWidth 128).extractLsb' (8 * (n + k)) 8 := by
      refine BitVec.eq_of_getLsbD_eq fun i hi => ?_
      rw [BitVec.getLsbD_extractLsb', BitVec.getLsbD_extractLsb', BitVec.getLsbD_extractLsb', BitVec.getLsbD_ushiftRight,
        getLsbD_setWidth_128, decide_eq_true (show 8 * n + i < 32 by omega), Bool.true_and,
        show 8 * k + (0 + (8 * n + i)) = 8 * (n + k) + i by omega]
    rw [toBytes, List.cons_append, toBytes_append_bytesOfLine v k (by omega), hbyte, show n + 1 + k = n + k + 1 by omega,
      bytesOfLine]

theorem writeChunks_tt (s : State) (v : BitVec 64) : ∀ (ns : List Nat) (a : Long), ∀ w ∈ writeChunks s a v ns, w.acc.tt ≠ 2
  | [], _, _, hw => absurd hw List.not_mem_nil
  | _ :: ns, _, w, hw => by
    rcases List.mem_cons.1 hw with rfl | hw
    · exact writeOf_tt s _ _ _
    · exact writeChunks_tt s v ns _ w hw

/-- Writing in chunks is writing at once. -/
theorem ramAfter_writeChunks (s : State) (v : BitVec 64) : ∀ (ns : List Nat) (ram : List Host.Cell) (a : Long),
    (∀ n ∈ ns, n ≤ 4) → ramAfter ram (writeChunks s a v ns) = putBytes ram 0 a (bytesOfLine (v.setWidth 128) ns.sum)
  | [], _, _, _ => rfl
  | n :: ns, ram, a, hle => by
    have hrow := putBytes_append 0 (toBytes ((v >>> (8 * ns.sum)).extractLsb' 0 32) n)
      (bytesOfLine (v.setWidth 128) ns.sum) ram a
    rw [toBytes_length, toBytes_append_bytesOfLine v ns.sum (hle n List.mem_cons_self)] at hrow
    rw [List.sum_cons, ← hrow]
    exact ramAfter_writeChunks s v ns _ _ fun k hk => hle k (List.mem_cons_of_mem n hk)

/-! ### Where a field lies (R881) -/

/-- The byte that holds the first bit of a field. -/
def fieldByte (x off : Long) : Long := x + off.sshiftRight 3

/-- How many bytes hold a field. -/
def fieldSpan (off : Long) (w : Nat) : Nat := (off.toNat % 8 + w + 7) / 8

/-- How many bits of those bytes follow the field. -/
def fieldShift (off : Long) (w : Nat) : Nat := 8 * fieldSpan off w - off.toNat % 8 - w

theorem fieldSpan_spec (off : Long) (hpos : 1 ≤ w) (hw : w ≤ 32) :
    1 ≤ fieldSpan off w ∧ fieldSpan off w ≤ 5 ∧ off.toNat % 8 + w + fieldShift off w = 8 * fieldSpan off w := by
  unfold fieldShift fieldSpan
  omega

theorem fieldByte_eq (x off : Long) : fieldByte x off = x + BitVec.ofInt 32 (off.toInt / 8) := by
  rw [fieldByte, BitVec.sshiftRight, Int.shiftRight_eq_div_pow]
  rfl

theorem toInt_emod_eight (off : Long) : off.toInt % 8 = (off.toNat % 8 : Nat) := by
  rw [BitVec.toInt_eq_toNat_cond]
  split <;> omega

/-- The bit of the space at `x` that is bit `k` of the space at the field's first byte. -/
theorem fieldBit_fieldByte (s : State) (x off : Long) (k : Nat) :
    s.fieldBit x (off.toInt - off.toInt % 8 + k) = s.fieldBit (fieldByte x off) k := by
  rw [show off.toInt - off.toInt % 8 = 8 * (off.toInt / 8) by omega, fieldBit_add_mul, fieldByte_eq]

theorem fieldBit_field (s : State) (x off : Long) (j : Nat) :
    s.fieldBit x (off.toInt + j) = s.fieldBit (fieldByte x off) (off.toNat % 8 + j : Nat) := by
  rw [← fieldBit_fieldByte, toInt_emod_eight]
  congr 1
  push_cast
  omega

/-! ### Reading and replacing a field -/

/-- The bytes that hold a field, as one value. -/
def fieldValue (s : State) (x off : Long) (w : Nat) : BitVec 64 :=
  (lineOfBytes (s.bytesAt (fieldByte x off) (fieldSpan off w))).setWidth 64

/-- `w` bits of a value, `sh` above its least significant one, replaced. -/
def replaceBits (m : BitVec 64) (sh w : Nat) (g : Long) : BitVec 64 :=
  (m &&& ~~~((BitVec.allOnes 64 >>> (64 - w)) <<< sh)) ||| (g.zeroExtend 64 <<< sh)

/-- A memory operand's field, and what puts a new one back. -/
def memoryField (s : State) (x off : Long) (w : Nat) : Located :=
  ⟨lowBits ((fieldValue s x off w >>> fieldShift off w).extractLsb' 0 32) w, fun g t =>
    (t, writeChunks t (fieldByte x off) (replaceBits (fieldValue s x off w) (fieldShift off w) w g)
      (fieldChunks (fieldSpan off w)))⟩

theorem getField_memory (h : Flat s) (hc : ControlMode ea) {x : Long} (hx : Evaluates s ea 0 2 (.mem x) s.a) (off : Long)
    (hpos : 1 ≤ w) (hw : w ≤ 32) : getField s ea off w = .ok (memoryField s x off w) s := by
  obtain ⟨hspan, hspan', -⟩ := fieldSpan_spec off hpos hw
  obtain ⟨hsum, hchunk⟩ := fieldChunks_sum hspan hspan'
  have hread : readChunks s (fieldByte x off) 0 (fieldChunks (fieldSpan off w)) = .ok (fieldValue s x off w) s := by
    have hall := readChunks_flat h _ (fieldByte x off) [] hchunk
    rw [hsum] at hall
    exact hall
  have hloc : getField s ea off w = (controlEa s ea (s.after 2)).bind fun base u =>
      (readChunks u (fieldByte base off) 0 (fieldChunks (fieldSpan off w))).bind fun m u =>
        .ok ⟨lowBits ((m >>> fieldShift off w).extractLsb' 0 32) w, fun g t =>
          (t, writeChunks t (fieldByte base off) (replaceBits m (fieldShift off w) w g) (fieldChunks (fieldSpan off w)))⟩ u := by
    cases hc <;> rfl
  rw [hloc, hx.controlEa, Res.bind_ok, hread, Res.bind_ok, memoryField]

theorem getLsbD_fieldValue (s : State) (x off : Long) (hpos : 1 ≤ w) (hw : w ≤ 32) {k : Nat} (hk : k < 8 * fieldSpan off w) :
    (fieldValue s x off w).getLsbD (8 * fieldSpan off w - 1 - k) = s.fieldBit (fieldByte x off) k := by
  obtain ⟨-, hspan, -⟩ := fieldSpan_spec off hpos hw
  rw [fieldValue, BitVec.getLsbD_setWidth, decide_eq_true (by omega), Bool.true_and,
    getLsbD_lineOfBytes_bytesAt s _ (by omega) hk]

/-- Bit `j` of a field of memory, counted from its most significant one. -/
theorem getLsbD_memoryField (s : State) (x off : Long) (hpos : 1 ≤ w) (hw : w ≤ 32) {j : Nat} (hj : j < w) :
    (memoryField s x off w).f.getLsbD (w - 1 - j) = s.fieldBit x (off.toInt + j) := by
  obtain ⟨-, -, hshift⟩ := fieldSpan_spec off hpos hw
  rw [memoryField, getLsbD_lowBits _ hw, decide_eq_true (by omega), Bool.true_and, BitVec.getLsbD_extractLsb',
    decide_eq_true (by omega), Bool.true_and, BitVec.getLsbD_ushiftRight, fieldBit_field,
    ← getLsbD_fieldValue s x off hpos hw (k := off.toNat % 8 + j) (by omega)]
  exact congrArg _ (by omega)

theorem getLsbD_replaceBits (m : BitVec 64) (sh : Nat) {g : Long} (hg : IsField w g) (hw : w ≤ 32) {k : Nat} (hk : k < 64) :
    (replaceBits m sh w g).getLsbD k = if sh ≤ k ∧ k < sh + w then g.getLsbD (k - sh) else m.getLsbD k := by
  rw [replaceBits, BitVec.getLsbD_or, BitVec.getLsbD_and, BitVec.getLsbD_not, BitVec.getLsbD_shiftLeft,
    BitVec.getLsbD_shiftLeft, BitVec.getLsbD_ushiftRight, BitVec.getLsbD_allOnes, BitVec.getLsbD_setWidth]
  by_cases hlow : k < sh
  · simp [hlow, hk, Nat.not_le.2 hlow]
  · by_cases hin : k < sh + w
    · simp [hlow, hin, hk, Nat.not_lt.1 hlow, show 64 - w + (k - sh) < 64 by omega, show k - sh < 64 by omega,
        -BitVec.getLsbD_eq_getElem]
    · simp [hlow, hin, hk, hg (k - sh) (by omega), show ¬ 64 - w + (k - sh) < 64 by omega]

/-! ### Memory after a field has been put back -/

theorem SameBytesBut.mono {a : Long} {n k : Nat} (h : SameBytesBut s t a n) (hnk : n ≤ k) : SameBytesBut s t a k :=
  fun b hb => h b fun hin => hb (Nat.lt_of_lt_of_le hin hnk)

section put
variable {u : State} {x off g : Long} (hpos : 1 ≤ w) (hw : w ≤ 32)
  (hram : t.mem.ram = ramAfter s.mem.ram ((memoryField s x off w).put g u).2)
include hpos hw hram

theorem ram_of_put : t.mem.ram = putBytes s.mem.ram 0 (fieldByte x off)
    (bytesOfLine ((replaceBits (fieldValue s x off w) (fieldShift off w) w g).setWidth 128) (fieldSpan off w)) := by
  obtain ⟨hspan, hspan', -⟩ := fieldSpan_spec off hpos hw
  obtain ⟨hsum, hchunk⟩ := fieldChunks_sum hspan hspan'
  rw [hram, memoryField, ramAfter_writeChunks u _ _ _ _ hchunk, hsum]

theorem sameBytesBut_of_put : SameBytesBut s t (fieldByte x off) (fieldSpan off w) :=
  putBytes_same (bytesOfLine_length ..) (ram_of_put hpos hw hram)

/-- Of the five bytes from the field's first one, the bits of the field are the new ones and all others stay. -/
theorem fieldBit_of_put (hwf : Memory.wf s.mem) (hg : IsField w g) {k : Nat} (hk : k < 40) :
    t.fieldBit (fieldByte x off) k =
      if off.toNat % 8 ≤ k ∧ k < off.toNat % 8 + w then g.getLsbD (w - 1 - (k - off.toNat % 8))
      else s.fieldBit (fieldByte x off) k := by
  obtain ⟨-, hspan, hshift⟩ := fieldSpan_spec off hpos hw
  by_cases hin : k < 8 * fieldSpan off w
  · have hback : t.bytesAt (fieldByte x off) (fieldSpan off w) = bytesOfLine
        ((replaceBits (fieldValue s x off w) (fieldShift off w) w g).setWidth 128) (fieldSpan off w) := by
      have hput := getBytes_putBytes (base := 0) (a := fieldByte x off) hwf.1 (bs := bytesOfLine
        ((replaceBits (fieldValue s x off w) (fieldShift off w) w g).setWidth 128) (fieldSpan off w))
        (by rw [bytesOfLine_length]; omega)
      rw [← ram_of_put hpos hw hram, bytesOfLine_length] at hput
      exact hput
    rw [fieldBit_of_bytesAt hback hin, getLsbD_setWidth_128, getLsbD_replaceBits _ _ hg hw (by omega),
      getLsbD_fieldValue s x off hpos hw hin]
    by_cases hfield : off.toNat % 8 ≤ k ∧ k < off.toNat % 8 + w
    · rw [if_pos hfield, if_pos (by omega)]
      exact congrArg g.getLsbD (by omega)
    · rw [if_neg hfield, if_neg (by omega)]
  · have hout : ¬ inRange (fieldByte x off) (fieldSpan off w) (fieldByte x off + BitVec.ofNat 32 (k / 8)) := by
      rw [inRange, BitVec.add_comm, BitVec.add_sub_cancel, BitVec.toNat_ofNat]
      omega
    rw [if_neg (by omega), fieldBit_natCast, fieldBit_natCast, sameBytesBut_of_put hpos hw hram _ hout]

end put

/-- The end of an instruction that puts a field back. -/
theorem nextWith_memoryField (h : Ready s) (x off g : Long) (w : Nat) (sr : Word) (n : Nat) :
    let p := (memoryField s x off w).put g { s with sr := sr }
    ∃ t, nextWith s p.1 n p.2 = .next t ∧
      CompletesAs { s with sr := sr, mem := { s.mem with ram := t.mem.ram } } (s.after n) t ∧
      t.mem.ram = ramAfter s.mem.ram p.2 := by
  intro p
  obtain ⟨t, hnext, hdone⟩ := nextWith_flat (s := p.1) h (h.flat.of_eq rfl rfl rfl) n (ws := p.2) (writeChunks_tt _ _ _ _)
  obtain ⟨hdone, hram⟩ := hdone.own_ram (u := p.1)
  exact ⟨t, hnext, hdone, hram⟩

/-! ### The obligation -/

/-- BFFFO of memory counts from the signed offset. -/
theorem fieldBase_control (hc : ControlMode ea) (off : Long) : fieldBase ea off = off := by cases hc <;> rfl

/-- Settles O34: what the instructions do with a field, on the field that is read from the bytes in which it lies. -/
theorem bitFieldsOfMemory : Obligations.BitFieldsOfMemory := by
  unfold Obligations.BitFieldsOfMemory
  intro s dn bf ea h hea hwf off w sr ones n
  obtain ⟨hpos, hw⟩ := fieldWidth_pos_le s bf
  have hc := isControl_of_wf hea
  obtain ⟨x, hx⟩ := control_evaluates h.flat hc 2
  have hfield := getField_memory h.flat hc hx (fieldOffset s bf) hpos hw
  have hf : IsField w (memoryField s x (fieldOffset s bf) w).f := isField_lowBits _ hw
  obtain ⟨tst, extu, exts, k, hle, hzeros, hone, ffo⟩ := fieldReads_leave hfield h dn
  rw [fieldBase_control hc] at ffo
  refine ⟨x, _, hx, hf.toNat_lt, fun j hj => getLsbD_memoryField s x _ hpos hw hj, tst, extu, exts,
    ⟨k, hle, hzeros, hone, ffo⟩, ?_⟩
  intro p hp
  obtain ⟨hg, hexec⟩ := fieldChanges_exec hfield (dn := dn) hf p hp
  obtain ⟨t, hnext, hdone, hram⟩ := nextWith_memoryField h x (fieldOffset s bf) p.2.1 w (fieldSr w s.sr p.2.2) n
  have hbit := fun {k : Nat} (hk : k < 40) => fieldBit_of_put hpos hw hram hwf hg hk
  refine ⟨t, hexec.trans hnext, hdone, fun j hj => ?_, fun k hlow hhigh hout => ?_, ?_⟩
  · rw [fieldBit_field, hbit (by omega), if_pos (by omega), Nat.add_sub_cancel_left]
  · have hmod := toInt_emod_eight (fieldOffset s bf)
    obtain ⟨i, hi⟩ := Int.eq_ofNat_of_zero_le (show 0 ≤ k - (off - off % 8) by omega)
    rw [show k = off - off % 8 + (i : Int) by omega, fieldBit_fieldByte, fieldBit_fieldByte, hbit (by omega), if_neg]
    omega
  · rw [← fieldByte_eq]
    obtain ⟨-, hspan, -⟩ := fieldSpan_spec (fieldOffset s bf) hpos hw
    exact (sameBytesBut_of_put hpos hw hram).mono hspan

end Sys2Proof.Machine
end

section
/-! PROOFS. The decimal instructions ABCD, SBCD and NBCD, and PACK and UNPK (46_bcd R900 to R907): what an operation computes is
said once for every state and both operands, its free values included; each form is then that operation on operands in registers
or in memory. -/

namespace Sys2Proof.Machine

variable {s u w : State} {i : Instr} {a b r : Long} {c : Bool} {t : Int} {rx ry : BitVec 3}

/-! ### Decimal values (R900) -/

theorem toNat_bcdOf {m : Nat} (hm : m ≤ 99) : (bcdOf m).toNat = m / 10 * 16 + m % 10 := by
  rw [bcdOf, BitVec.toNat_ofNat]
  omega

theorem isBcd_bcdOf {m : Nat} (hm : m ≤ 99) : isBcd (bcdOf m) = true := by
  rw [isBcd, toNat_bcdOf hm, ← Bool.decide_and, decide_eq_true_eq]
  omega

theorem decOf_bcdOf {m : Nat} (hm : m ≤ 99) : decOf (bcdOf m) = m := by
  rw [decOf, toNat_bcdOf hm]
  omega

theorem decOf_le (h : isBcd a = true) : decOf a ≤ 99 := by
  rw [isBcd, ← Bool.decide_and, decide_eq_true_eq] at h
  rw [decOf]
  omega

/-! ### What a decimal operation computes (R901) -/

/-- A state after some free values have been drawn. -/
def State.withDraws (u : State) (k : Nat) : State := { u with mem := { u.mem with draws := k } }

theorem near_withDraws (u : State) (k : Nat) : Near u (u.withDraws k) := ⟨u.mem.stale, k, rfl⟩

/-- `r` and `c` are the result and the carry of a decimal operation on `a` and `b` whose exact result is `t`; with an operand that
is not decimal only the width of the result is fixed (93 U29). -/
def DecimalOf (t : Int) (a b r : Long) (c : Bool) : Prop :=
  r.toNat < 256 ∧ (isBcd a = true → isBcd b = true →
    isBcd r = true ∧ (decOf r : Int) = t % 100 ∧ c = decide (t < 0 ∨ 99 < t))

theorem decimalOf_bcdOf {m : Nat} (hm : m ≤ 99) (ht : (m : Int) = t % 100) (hc : c = decide (t < 0 ∨ 99 < t)) :
    DecimalOf t a b (bcdOf m) c :=
  ⟨by rw [toNat_bcdOf hm]; omega, fun _ _ => ⟨isBcd_bcdOf hm, by rw [decOf_bcdOf hm, ht], hc⟩⟩

theorem decimalOf_free (h : (isBcd a && isBcd b) = false) (hr : r.toNat < 256) : DecimalOf t a b r c :=
  ⟨hr, fun ha hb => absurd h (by simp [ha, hb])⟩

/-- The status register after a decimal operation: X = C, and Z is only ever cleared. -/
def decimalSr (sr : Word) (r : Long) (c n v : Bool) : Word := withCcr sr c n (zeroAt .b r && srZ sr) v c

/-- `p` is the result of a decimal operation made in `u`, and `u` with the flags of that result; N and V are free (93 U28). -/
def DecimalIn (u : State) (t : Int) (a b : Long) (p : State × Long) : Prop :=
  ∃ r c n v k, p = (State.withDraws { u with sr := decimalSr u.sr r c n v } k, r) ∧ DecimalOf t a b r c

theorem setDecimal_eq (u : State) (r : Long) (c : Bool) : ∃ n v, u.setDecimal r c =
    State.withDraws { u with sr := decimalSr u.sr r c n v } (u.mem.draws + 1) := by
  refine ⟨(u.draw 2).1.getLsbD 1, (u.draw 2).1.getLsbD 0, ?_⟩
  rw [decimalSr, zeroAt_eq_isZero, Bool.and_comm]
  rfl

/-- A result with its carry, and the flags they set. -/
theorem decimalIn_setDecimal (u : State) (h : DecimalOf t a b r c) : DecimalIn u t a b (u.setDecimal r c, r) := by
  obtain ⟨n, v, hset⟩ := setDecimal_eq u r c
  exact ⟨r, c, n, v, u.mem.draws + 1, by rw [hset], h⟩

/-- Bringing an exact result into 0 to 99 takes one step of 100 only, as both operands and X are small. -/
theorem decimal_computes (u : State) (ht : isBcd a = true → isBcd b = true → -100 ≤ t ∧ t ≤ 199) :
    DecimalIn u t a b (decimal u (isBcd a && isBcd b) t) := by
  unfold decimal
  split
  case isTrue hvalid =>
    obtain ⟨ha, hb⟩ := (Bool.and_eq_true _ _).mp hvalid
    obtain ⟨hlow, hhigh⟩ := ht ha hb
    split
    case isTrue hneg => exact decimalIn_setDecimal u (decimalOf_bcdOf (by omega) (by omega) (by simp [hneg]))
    case isFalse hneg =>
      split
      case isTrue hbig => exact decimalIn_setDecimal u (decimalOf_bcdOf (by omega) (by omega) (by simp [hbig]))
      case isFalse hbig => exact decimalIn_setDecimal u (decimalOf_bcdOf (by omega) (by omega) (by simp [hneg, hbig]))
  case isFalse hinvalid =>
    have hbyte : (((u.draw 9).1.extractLsb' 0 8).zeroExtend 32 : Long).toNat < 256 := by
      rw [BitVec.toNat_setWidth]
      exact (Nat.mod_le _ _).trans_lt (BitVec.isLt _)
    obtain ⟨r, c, n, v, k, hset, hr⟩ := decimalIn_setDecimal (t := t) (u.draw 9).2
      (decimalOf_free (c := (u.draw 9).1.getLsbD 8) (Bool.eq_false_iff.2 hinvalid) hbyte)
    exact ⟨r, c, n, v, k, hset, hr⟩

/-! ### Operations as functions of the status register and the operands -/

/-- The exact sum of two decimal operands and X (R903). -/
def decSum (sr : Word) (a b : Long) : Int := decOf b + decOf a + (srX sr).toNat

/-- The exact difference, destination minus source minus X (R902). -/
def decDiff (sr : Word) (a b : Long) : Int := decOf b - decOf a - (srX sr).toNat

/-- A decimal operation whose exact result on the source `a` and the destination `b` is `t`. -/
def ComputesDecimal (f : State → Long → Long → State × Long) (t : Word → Long → Long → Int) : Prop :=
  ∀ u a b, DecimalIn u (t u.sr a b) a b (f u a b)

theorem abcdOp_computes : ComputesDecimal abcdOp decSum := fun u a b => by
  have hsum : (decOf a : Int) + decOf b + u.flagX.toNat = decSum u.sr a b :=
    congrArg (· + (u.flagX.toNat : Int)) (Int.add_comm _ _)
  rw [abcdOp, hsum]
  refine decimal_computes u fun ha hb => ?_
  have hx := Bool.toNat_le (srX u.sr)
  have ha := decOf_le ha
  have hb := decOf_le hb
  unfold decSum
  omega

theorem sbcdOp_computes : ComputesDecimal sbcdOp decDiff := fun u a b => by
  refine decimal_computes (t := decDiff u.sr a b) u fun ha hb => ?_
  have hx := Bool.toNat_le (srX u.sr)
  have ha := decOf_le ha
  have hb := decOf_le hb
  unfold decDiff
  omega

/-! ### The shapes of instructions -/

/-- An instruction that makes one write, changes address registers and flags, and may draw free values. -/
theorem storesAndReaches_near (h : Ready s) {n k : Nat} {a : AddrRegs} {sr : Word} {x v : Long} (hk : k ≤ 16)
    (hn : Near { s with a := a, sr := sr } w) (hexec : exec i s = nextWith s w n [w.writeOf x k v]) :
    StoresAndReaches i s { s with a := a, sr := sr } (s.after n) x k v := by
  obtain ⟨t, hnext, hdone⟩ := nextWith_flat h (hn.flat (h.flat.of_eq rfl rfl rfl)) n
    (List.forall_mem_singleton.2 (writeOf_tt w x k v))
  obtain ⟨p, d, rfl⟩ := hn
  exact ⟨t, hexec.trans hnext, hdone.of_near ⟨p, d, rfl⟩, storesAt_of_ram hk hdone.ram⟩

/-- `op -(Ay),-(Ax)`: the source is addressed and read first (R902), and the operation is made after both reads. -/
theorem extended_predecremented (h : Flat s) (z : Size) (rx ry : BitVec 3) (k : Nat)
    (f : State → Long → Long → State × Long) :
    let y := s.getA ry - stepOf z.bytes ry
    let a := s.a.set s.sr ry y
    let x := a.get s.sr rx - stepOf z.bytes rx
    f (s.withA (a.set s.sr rx x)) (s.valueAt y z.bytes) (s.valueAt x z.bytes) = (w, r) →
    extended s z rx true ry k f = nextWith s w k [w.writeOf x z.bytes r] := by
  intro y a x hf
  have hsrc : readEa s z (.pre ry) 1 s.pc = .ok (.mem y, s.valueAt y z.bytes) (s.withA a) := reads_pre h z ry s.pc
  have hdst : readEa (s.withA a) z (.pre rx) 1 s.pc =
      .ok (.mem x, s.valueAt x z.bytes) (s.withA (a.set s.sr rx x)) := reads_pre (h.withA a) z rx s.pc
  rw [extended, if_pos rfl, hsrc, Res.bind_ok]
  simp only [hdst, Res.bind_ok, orAbort_ok, hf, putLoc]

section decimal
variable {f : State → Long → Long → State × Long} {t : Word → Long → Long → Int}

/-- Between data registers. -/
theorem ComputesDecimal.leaves_registers (hf : ComputesDecimal f t) (h : Ready s)
    (hexec : exec i s = extended s .b rx false ry 1 f) :
    let a := Size.trunc .b (s.getD ry)
    let b := Size.trunc .b (s.getD rx)
    ∃ r c n v, DecimalOf (t s.sr a b) a b r c ∧ Leaves i s 1 (s.put s.a (decimalSr s.sr r c n v) .b (.d rx) r) := by
  intro a b
  obtain ⟨r, c, n, v, k, hop, hr⟩ := hf s a b
  refine ⟨r, c, n, v, hr, leaves_near h ?_ (near_withDraws _ k)⟩
  rw [hexec, extended, if_neg Bool.false_ne_true, hop]
  rfl

/-- `-(Ay),-(Ax)`: the source is addressed and read first (R902). -/
theorem ComputesDecimal.stores_predecremented (hf : ComputesDecimal f t) (h : Ready s)
    (hexec : exec i s = extended s .b rx true ry 1 f) :
    let y := s.getA ry - stepOf 1 ry
    let a := s.a.set s.sr ry y
    let x := a.get s.sr rx - stepOf 1 rx
    ∃ r c n v, DecimalOf (t s.sr (s.valueAt y 1) (s.valueAt x 1)) (s.valueAt y 1) (s.valueAt x 1) r c ∧
      StoresAndReaches i s { s with a := a.set s.sr rx x, sr := decimalSr s.sr r c n v } (s.after 1) x 1 r := by
  intro y a x
  obtain ⟨r, c, n, v, k, hop, hr⟩ := hf (s.withA (a.set s.sr rx x)) (s.valueAt y 1) (s.valueAt x 1)
  exact ⟨r, c, n, v, hr, storesAndReaches_near h (by decide) (near_withDraws _ k)
    (hexec.trans (extended_predecremented h.flat .b rx ry 1 f hop))⟩

/-- NBCD: a decimal operation on an operand that is read and written back, the other operand being 0. Only one operand is read, so
result and carry are given for that one. -/
theorem ComputesDecimal.putsBack (hf : ComputesDecimal f t) (h : Ready s) {ea : Ea}
    (hexec : exec i s = modifyEa s .b ea 1 0 fun u _ d => f u d 0) :
    ∃ (r : Long → Long) (c : Long → Bool) (n v : Bool),
      PutsBack i s .b ea 1 r (fun d => decimalSr s.sr (r d) (c d) n v) ∧
      ∀ l d a, Reads s .b ea 1 l d a → DecimalOf (t s.sr d 0) d 0 (r d) (c d) := by
  obtain ⟨l, d, a, u, hread, hnext, hdone⟩ := modifyEa_flat h .b ea 1 0 (f := fun u _ d => f u d 0) fun u _ d => by
    obtain ⟨r, c, n, v, k, hop, -⟩ := hf u d 0
    exact ⟨_, k, congrArg Prod.fst hop⟩
  obtain ⟨r, c, n, v, k, hop, hr⟩ := hf (s.withA a) d 0
  rw [hop] at hdone
  refine ⟨fun _ => r, fun _ => c, n, v, ⟨l, d, a, u, hread, hexec.trans hnext, hdone,
    (put_storesTo s a _ .b l r).of_ram hdone.ram⟩, fun l' d' a' hread' => ?_⟩
  have hsame : (Res.ok (l, d) (s.withA a) : Res (Loc × Long)) = .ok (l', d') (s.withA a') := hread.symm.trans hread'
  injection hsame with hpair
  injection hpair with _ hd
  exact hd ▸ hr

end decimal

/-! ### PACK and UNPK (R905 to R907) -/

/-- `r` is the packed byte of the word in `u` plus the adjustment; it is free where a byte's low digit is above 9 (93 U29). -/
def PackedOf (adj : Word) (u r : Long) : Prop :=
  u.toNat % 16 ≤ 9 → u.toNat / 256 % 16 ≤ 9 →
    r = ((((u.extractLsb' 0 16 + adj).extractLsb' 8 4) ++ ((u.extractLsb' 0 16 + adj).extractLsb' 0 4) : BitVec 8)).zeroExtend 32

theorem packOp_computes (adj : Word) (u : State) (v : Long) :
    ∃ r k, packOp u v adj = (u.withDraws k, r) ∧ PackedOf adj v r := by
  unfold packOp
  split
  case isTrue => exact ⟨_, u.mem.draws, rfl, fun _ _ => rfl⟩
  case isFalse hfree => exact ⟨_, u.mem.draws + 1, rfl, fun hlow hhigh => absurd ⟨hlow, hhigh⟩ hfree⟩

/-- Bits within a size are the same in the value cut to that size. -/
theorem extractLsb'_trunc {z : Size} (v : Long) {k n : Nat} (h : k + n ≤ z.bits) :
    (z.trunc v).extractLsb' k n = v.extractLsb' k n :=
  BitVec.eq_of_getLsbD_eq fun j hj => by
    rw [BitVec.getLsbD_extractLsb', BitVec.getLsbD_extractLsb', getLsbD_trunc, decide_eq_true (by omega : k + j < z.bits),
      Bool.true_and]

/-- Only the low word of the operand is packed. -/
theorem PackedOf.of_trunc {adj : Word} {v : Long} (h : PackedOf adj (Size.trunc .w v) r) : PackedOf adj v r := by
  have hnat : (Size.trunc .w v).toNat = v.toNat % 65536 := trunc_toNat .w v
  rw [PackedOf, hnat, extractLsb'_trunc v (by decide)] at h
  exact fun hlow hhigh => h (by omega) (by omega)

/-- Only the low byte of the operand is unpacked. -/
theorem unpkOp_trunc (v : Long) (adj : Word) : unpkOp (Size.trunc .b v) adj = unpkOp v adj := by
  rw [unpkOp, extractLsb'_trunc v (by decide), extractLsb'_trunc v (by decide), unpkOp]

theorem exec_pack (rx ry : BitVec 3) (mem : Bool) (adj : Word) (s : State) :
    exec (.pack rx mem ry adj) s = packUnpack .w .b rx mem ry (fun u v => packOp u v adj) s := by rfl

theorem exec_unpk (rx ry : BitVec 3) (mem : Bool) (adj : Word) (s : State) :
    exec (.unpk rx mem ry adj) s = packUnpack .b .w rx mem ry (fun u p => (u, unpkOp p adj)) s := by rfl

section pack
variable {z z' : Size} {f : State → Long → State × Long} {k : Nat}

theorem packUnpack_leaves (h : Ready s) (hexec : exec i s = packUnpack z z' rx false ry f s)
    (hf : f s (z.trunc (s.getD ry)) = (s.withDraws k, r)) :
    Leaves i s 2 (s.put s.a s.sr z' (.d rx) r) := by
  refine leaves_near h ?_ (near_withDraws _ k)
  rw [hexec, packUnpack, if_neg Bool.false_ne_true, hf]
  rfl

/-- `-(Ay),-(Ax)`: the source is addressed and read first. -/
theorem packUnpack_stores (h : Ready s) (hexec : exec i s = packUnpack z z' rx true ry f s) :
    let y := s.getA ry - stepOf z.bytes ry
    let a := s.a.set s.sr ry y
    let x := a.get s.sr rx - stepOf z'.bytes rx
    f (s.withA a) (s.valueAt y z.bytes) = ((s.withA a).withDraws k, r) →
    StoresAndReaches i s { s with a := a.set s.sr rx x } (s.after 2) x z'.bytes r := by
  intro y a x hf
  refine storesAndReaches_near h ((size_bytes_le z').trans (by decide)) (near_withDraws _ k) ?_
  have hsrc : readEa s z (.pre ry) 2 s.pc = .ok (.mem y, s.valueAt y z.bytes) (s.withA a) := reads_pre h.flat z ry s.pc
  rw [hexec, packUnpack, if_pos rfl, hsrc, orAbort_ok]
  simp only [hf]
  rfl

end pack

/-! ### The obligation -/

/-- The low byte, as the statement writes it. -/
theorem trunc_byte_eq_and (v : Long) : Size.trunc .b v = v &&& 0xFF :=
  BitVec.eq_of_toNat_eq (by rw [trunc_toNat, BitVec.toNat_and]; exact (Nat.and_two_pow_sub_one_eq_mod v.toNat 8).symm)

/-- Settles O35: the decimal operations in their three forms, then PACK and UNPK. -/
theorem decimalInstructions : Obligations.DecimalInstructions := by
  unfold Obligations.DecimalInstructions
  refine ⟨fun s rx ry ea h => ⟨fun p hp => ?_, fun p hp => ?_, sbcdOp_computes.putsBack h rfl⟩, fun s rx ry adj h => ?_⟩
  · simp only [List.mem_cons, List.not_mem_nil, or_false] at hp
    simp only [← trunc_byte_eq_and]
    rcases hp with rfl | rfl
    · exact abcdOp_computes.leaves_registers h rfl
    · exact sbcdOp_computes.leaves_registers h rfl
  · simp only [List.mem_cons, List.not_mem_nil, or_false] at hp
    rcases hp with rfl | rfl
    · exact abcdOp_computes.stores_predecremented h rfl
    · exact sbcdOp_computes.stores_predecremented h rfl
  · refine ⟨?_, ?_, ?_, ?_⟩
    · obtain ⟨r, k, hop, hr⟩ := packOp_computes adj s (Size.trunc .w (s.getD ry))
      exact ⟨r, hr.of_trunc, packUnpack_leaves h (exec_pack rx ry false adj s) hop⟩
    · have hleaves := packUnpack_leaves (k := s.mem.draws) h (exec_unpk rx ry false adj s) rfl
      rw [unpkOp_trunc] at hleaves
      exact hleaves
    · intro y a w
      obtain ⟨r, k, hop, hr⟩ := packOp_computes adj (s.withA a) (s.valueAt y 2)
      exact ⟨r, hr, packUnpack_stores (z := .w) (z' := .b) h (exec_pack rx ry true adj s) hop⟩
    · exact packUnpack_stores (z := .b) (z' := .w) (k := s.mem.draws) h (exec_unpk rx ry true adj s) rfl

end Sys2Proof.Machine
end

section
/-! PROOFS. The sixteen conditions, of the flags and of the operands of a comparison (47_program_control R921;
41_integer_arithmetic R602, R630). -/

namespace Sys2Proof.Machine

/-! ### The flags of a comparison -/

section compare
variable (sr : Word) (z : Size) (src dst : Long)

theorem srN_compareSr : srN (compareSr sr z src dst) = negAt z (diffAt z src dst false) := ccr_bit _ _ _ _ _ _ 3
theorem srZ_compareSr : srZ (compareSr sr z src dst) = zeroAt z (diffAt z src dst false) := ccr_bit _ _ _ _ _ _ 2
theorem srV_compareSr : srV (compareSr sr z src dst) = underAt z src dst false := ccr_bit _ _ _ _ _ _ 1
theorem srC_compareSr : srC (compareSr sr z src dst) = borrowAt z src dst false := ccr_bit _ _ _ _ _ _ 0

end compare

/-- A difference is zero if the operands are the same at the size. -/
theorem zeroAt_diffAt (z : Size) (src dst : Long) :
    zeroAt z (diffAt z src dst false) = decide (unsignedAt z dst = unsignedAt z src) := by
  have hr := unsignedAt_diffAt z src dst false
  have hsrc : unsignedAt z src < 2 ^ z.bits := Nat.mod_lt _ (Nat.two_pow_pos _)
  have hdst : unsignedAt z dst < 2 ^ z.bits := Nat.mod_lt _ (Nat.two_pow_pos _)
  rw [zeroAt, decide_eq_decide]
  generalize 2 ^ z.bits = m at hr hsrc hdst
  constructor
  · intro h0
    have hdvd : (m : Int) ∣ (unsignedAt z dst : Int) - unsignedAt z src := by
      refine Int.dvd_of_emod_eq_zero ?_
      simpa [h0] using hr.symm
    have := Int.eq_zero_of_abs_lt_dvd hdvd (by rw [abs_lt]; omega)
    omega
  · intro he
    simpa [he] using hr

/-- The sign of a difference, corrected where the difference is out of range, is the order of the signed operands. -/
theorem diff_sign_iff {h a b r : Nat} (ha : a < 2 * h) (hb : b < 2 * h) (hr : (r : Int) = ((b : Int) - a) % ((2 * h : Nat) : Int)) :
    ¬ (h ≤ r ↔ (signedOf h b - signedOf h a < -(h : Int) ∨ (h : Int) ≤ signedOf h b - signedOf h a)) ↔
      signedOf h b < signedOf h a := by
  have hr : (r : Int) = if b < a then (b : Int) - a + 2 * h else (b : Int) - a := by
    rw [hr]
    split
    case isTrue hlt => rw [← Int.add_emod_right, Int.emod_eq_of_lt (by omega) (by omega)]; push_cast; rfl
    case isFalse hge => exact Int.emod_eq_of_lt (by omega) (by omega)
  unfold signedOf
  split at hr <;> split <;> split <;> omega

theorem negAt_bne_underAt (z : Size) (src dst : Long) :
    (negAt z (diffAt z src dst false) != underAt z src dst false) = decide (signedAt z dst < signedAt z src) := by
  have hr := unsignedAt_diffAt z src dst false
  rw [two_pow_bits, Bool.toNat_false, Nat.cast_zero, Int.sub_zero] at hr
  have hsign := diff_sign_iff (unsignedAt_lt z src) (unsignedAt_lt z dst) hr
  rw [negAt_eq_msb, msb_eq_decide, underAt, not_inSigned, Bool.toNat_false, Nat.cast_zero, Int.sub_zero]
  rw [Bool.eq_iff_iff, bne_iff_ne, Ne, decide_eq_decide, decide_eq_true_eq, signedAt_eq_signedOf, signedAt_eq_signedOf]
  exact hsign

/-- Two values are the same integer at a size exactly if their low bits are the same. -/
theorem signedAt_inj {z : Size} {v w : Long} : signedAt z v = signedAt z w ↔ unsignedAt z v = unsignedAt z w := by
  have hv := unsignedAt_lt z v
  have hw := unsignedAt_lt z w
  rw [signedAt_eq_signedOf, signedAt_eq_signedOf, signedOf, signedOf]
  split <;> split <;> omega

/-- Settles O36: the formulas are the arms of `State.cond`; after a comparison C, Z and N ⊕ V are `<` unsigned, `=` and `<`
signed. -/
theorem conditionsCompareTheOperands : Obligations.ConditionsCompareTheOperands := by
  unfold Obligations.ConditionsCompareTheOperands
  intro s z src dst
  constructor
  · have hge : ∀ n v : Bool, (n == v) = (n && v || !n && !v) := by decide
    have hlt : ∀ n v : Bool, (n != v) = (n && !v || !n && v) := by decide
    have hgt : ∀ n v e : Bool, (n == v && !e) = (n && v && !e || !n && !v && !e) := by decide
    have hle : ∀ n v e : Bool, (e || n != v) = (e || n && !v || !n && v) := by decide
    exact ⟨rfl, rfl, rfl, rfl, rfl, rfl, rfl, rfl, rfl, rfl, rfl, rfl, hge _ _, hlt _ _, hgt _ _ _, hle _ _ _⟩
  · intro u a b i j
    have hn : u.flagN = negAt z (diffAt z src dst false) := srN_compareSr s.sr z src dst
    have he : u.flagZ = decide (a = b) := (srZ_compareSr s.sr z src dst).trans (zeroAt_diffAt z src dst)
    have hv : u.flagV = !inSigned z (i - j) := by
      rw [show u.flagV = _ from srV_compareSr s.sr z src dst, underAt, Bool.toNat_false, Nat.cast_zero, Int.sub_zero]
    have hc : u.flagC = decide (a < b) := srC_compareSr s.sr z src dst
    have hnv : (u.flagN != u.flagV) = decide (i < j) := by
      rw [hn, show u.flagV = _ from srV_compareSr s.sr z src dst]
      exact negAt_bne_underAt z src dst
    have hnv' : (u.flagN == u.flagV) = decide (j ≤ i) := by
      rw [← Bool.not_not (u.flagN == u.flagV), ← bne, hnv, ← decide_not, decide_eq_decide, not_lt]
    have hij : a = b ↔ i = j := signedAt_inj.symm
    refine ⟨rfl, rfl, ?_, ?_, ?_, ?_, ?_, ?_, ?_, ?_, ?_, ?_, ?_, ?_, ?_, ?_⟩
    · show (!u.flagC && !u.flagZ) = true ↔ b < a
      simp only [hc, he, Bool.and_eq_true, Bool.not_eq_true', decide_eq_false_iff_not]
      omega
    · show (u.flagC || u.flagZ) = true ↔ a ≤ b
      simp only [hc, he, Bool.or_eq_true, decide_eq_true_eq]
      omega
    · show (!u.flagC) = true ↔ b ≤ a
      simp only [hc, Bool.not_eq_true', decide_eq_false_iff_not, not_lt]
    · show u.flagC = true ↔ a < b
      rw [hc, decide_eq_true_eq]
    · show (!u.flagZ) = true ↔ a ≠ b
      simp only [he, Bool.not_eq_true', decide_eq_false_iff_not, ne_eq]
    · show u.flagZ = true ↔ a = b
      rw [he, decide_eq_true_eq]
    · show (!u.flagV) = true ↔ inSigned z (i - j) = true
      rw [hv, Bool.not_not]
    · show u.flagV = true ↔ inSigned z (i - j) = false
      rw [hv, Bool.not_eq_true']
    · show (!u.flagN) = true ↔ 0 ≤ signedAt z (diffAt z src dst false)
      rw [hn, negAt, Bool.not_eq_true', decide_eq_false_iff_not, not_lt]
    · show u.flagN = true ↔ signedAt z (diffAt z src dst false) < 0
      rw [hn, negAt, decide_eq_true_eq]
    · show (u.flagN == u.flagV) = true ↔ j ≤ i
      rw [hnv', decide_eq_true_eq]
    · show (u.flagN != u.flagV) = true ↔ i < j
      rw [hnv, decide_eq_true_eq]
    · show (u.flagN == u.flagV && !u.flagZ) = true ↔ j < i
      simp only [hnv', he, hij, Bool.and_eq_true, Bool.not_eq_true', decide_eq_true_eq, decide_eq_false_iff_not]
      omega
    · show (u.flagZ || u.flagN != u.flagV) = true ↔ i ≤ j
      simp only [hnv, he, hij, Bool.or_eq_true, decide_eq_true_eq]
      omega

end Sys2Proof.Machine
end

section
/-! PROOFS. Transfers of control: an even target is reached, an odd one is an address error (47_program_control R922 to R935;
60_exceptions R1110). -/

namespace Sys2Proof.Machine

variable {s u v t : State} {i : Instr} {target : Long}

/-! ### Exceptions taken at the end of an instruction -/

/-- What the end of an instruction changes before an exception is taken, the exception settles or leaves open. -/
theorem Takes.of_ended {vector : BitVec 8} {format : BitVec 4} {spc : Long} {extra : List Byte}
    (hv : ∃ pc tr p k, v = { u with pc := pc, trace := tr, mem := { u.mem with stale := p, draws := k } })
    (h : Takes v vector format spc extra t) : Takes u vector format spc extra t := by
  obtain ⟨pc, tr, p, k, rfl⟩ := hv
  exact h

theorem addressError_takes (h : Flat u) (pc target : Long) :
    Takes u 3 2 pc (toBytes (target &&& 0xFFFFFFFE) 4) (addressError u pc target) := by
  have hbytes : fieldBytes [⟨8, 4, target &&& 0xFFFFFFFE⟩] = toBytes (target &&& 0xFFFFFFFE) 4 := List.append_nil _
  rw [← hbytes]
  exact (takeException_takes h (frameFields_two _) pc 3).1

/-- An instruction that ends at an odd address takes the address error. -/
theorem endInstrEa_odd (h : Flat u) (s0 : State) (flow : Bool) (ea : Option Long) (ho : u.pc.getLsbD 0 = true) :
    Takes u 3 2 s0.pc (toBytes (u.pc &&& 0xFFFFFFFE) 4) (endInstrEa s0 u flow ea) := by
  obtain ⟨k, hsettled⟩ := settleTrace_near s0 u flow
  have hflat : Flat (s0.settleTrace u flow) := by
    rw [hsettled]
    exact h.of_eq rfl rfl rfl
  have hpc : (s0.settleTrace u flow).pc = u.pc := rfl
  have hend : endInstrEa s0 u flow ea = addressError (s0.settleTrace u flow) s0.pc u.pc := by
    rw [endInstrEa, hpc, ho, hflat.push]
    rfl
  rw [hend]
  exact (addressError_takes hflat s0.pc u.pc).of_ended ⟨_, _, u.mem.stale, k, hsettled⟩

/-! ### Jumps -/

/-- `i` takes the address error for the odd address `target`, its other effects having left `u`. -/
def ErrsAt (i : Instr) (s : State) (target : Long) (u : State) : Prop :=
  target.getLsbD 0 = true → ∃ t, exec i s = .next t ∧ Takes u 3 2 s.pc (toBytes (target &&& 0xFFFFFFFE) 4) t

/-- Going to an odd target. -/
theorem jump_odd (h : Flat u) (s0 : State) (ho : target.getLsbD 0 = true) {ws : List Write} (hw : ∀ w ∈ ws, w.acc.tt ≠ 2) :
    ∃ t, jump s0 u target ws = .next t ∧
      Takes { u with mem := { u.mem with ram := ramAfter u.mem.ram ws } } 3 2 s0.pc (toBytes (target &&& 0xFFFFFFFE) 4) t := by
  have hflat : Flat { u with pc := target } := h.of_eq rfl rfl rfl
  obtain ⟨p, hwrites⟩ := hflat.writeAll hw
  refine ⟨_, by rw [jump, complete, hwrites], ?_⟩
  exact (endInstrEa_odd (hflat.stored _ p) s0 true none ho).of_ended ⟨target, u.trace, p, u.mem.draws, rfl⟩

theorem goesTo_of_jump (hexec : exec i s = jump s u target []) (h : Flat u) (hram : u.mem.ram = s.mem.ram)
    (he : target.getLsbD 0 = false) : GoesTo i s target u := by
  obtain ⟨t, hjump, hdone⟩ := jump_flat (s0 := s) h he (ws := []) (fun _ hw => absurd hw List.not_mem_nil)
  exact ⟨t, hexec.trans hjump, hdone, sameBytes_of_ram (hdone.ram.trans hram)⟩

theorem errsAt_of_jump (hexec : exec i s = jump s u target []) (h : Flat u) : ErrsAt i s target u := fun ho => by
  obtain ⟨t, hjump, htakes⟩ := jump_odd h s ho (ws := []) (fun _ hw => absurd hw List.not_mem_nil)
  exact ⟨t, hexec.trans hjump, htakes⟩

/-! ### Calls -/

/-- The state in which `ret` has been pushed. -/
def State.pushed (s : State) (ret : Long) : State :=
  { s with
    a := s.a.set s.sr 7 (s.getA 7 - 4)
    mem := { s.mem with ram := putBytes s.mem.ram 0 (s.getA 7 - 4) (toBytes ret 4) } }

theorem callTo_reaches (h : Ready s) {n : Nat} (hexec : exec i s = callTo s s target n) (he : target.getLsbD 0 = false) :
    StoresAndReaches i s { s with a := s.a.set s.sr 7 (s.getA 7 - 4) } target (s.getA 7 - 4) 4 (s.after n) := by
  obtain ⟨t, hjump, hdone⟩ := jump_flat (s0 := s) (s := s.setA 7 (s.getA 7 - 4)) (h.flat.of_eq rfl rfl rfl) he
    (ws := [s.writeOf (s.getA 7 - 4) 4 (s.after n)]) (List.forall_mem_singleton.2 (writeOf_tt s _ 4 _))
  exact ⟨t, hexec.trans hjump, hdone, storesAt_of_ram (by decide) hdone.ram⟩

theorem callTo_errs (h : Ready s) {n : Nat} (hexec : exec i s = callTo s s target n) :
    ErrsAt i s target (s.pushed (s.after n)) := fun ho => by
  obtain ⟨t, hjump, htakes⟩ := jump_odd (u := s.setA 7 (s.getA 7 - 4)) (h.flat.of_eq rfl rfl rfl) s ho
    (ws := [s.writeOf (s.getA 7 - 4) 4 (s.after n)]) (List.forall_mem_singleton.2 (writeOf_tt s _ 4 _))
  exact ⟨t, hexec.trans hjump, htakes⟩

/-! ### What each instruction does -/

theorem exec_bcc (cc : BitVec 4) (disp : BrDisp) (s : State) : exec (.bcc cc disp) s =
    if s.cond cc then jump s s (branchTarget s (brValue disp)) []
    else notTaken s (branchTarget s (brValue disp)) (brWords disp) := rfl

theorem exec_bra (disp : BrDisp) (s : State) : exec (.bra disp) s = jump s s (branchTarget s (brValue disp)) [] := rfl

theorem exec_bsr (disp : BrDisp) (s : State) :
    exec (.bsr disp) s = callTo s s (branchTarget s (brValue disp)) (brWords disp) := rfl

/-- `s` with the low word of Dn one less. -/
def State.counted (s : State) (dn : BitVec 3) : State :=
  { s with d := s.d.set dn ((s.getD dn).extractLsb' 16 16 ++ ((s.getD dn).extractLsb' 0 16 - 1)) }

theorem setDz_counted (s : State) (dn : BitVec 3) :
    s.setDz .w dn (((s.getD dn).extractLsb' 0 16 - 1).zeroExtend 32) = s.counted dn := by
  have hlow : ∀ c : Word, (c.zeroExtend 32).extractLsb' 0 16 = c := fun c => BitVec.eq_of_toNat_eq (by
    have := c.isLt
    simp only [BitVec.extractLsb'_toNat, BitVec.toNat_setWidth, Nat.shiftRight_zero]
    omega)
  rw [State.setDz, Size.merge, hlow]
  rfl

theorem exec_dbcc_false {cc : BitVec 4} (hc : s.cond cc = false) (dn : BitVec 3) (d : BitVec 16) :
    exec (.dbcc cc dn d) s =
      if (s.getD dn).extractLsb' 0 16 - 1 = 0xFFFF then next s (s.counted dn) 2
      else jump s (s.counted dn) (branchTarget s (d.signExtend 32)) [] := by
  show execDbcc cc dn d s = _
  simp only [execDbcc, hc, Bool.false_eq_true, if_false, setDz_counted]

theorem exec_jmp {ea : Ea} {x : Long} (hx : Evaluates s ea 0 1 (.mem x) s.a) : exec (.jmp ea) s = jump s s x [] := by
  show execJmp ea s = _
  rw [execJmp, hx.controlEa, orAbort_ok]

theorem exec_jsr {ea : Ea} {x : Long} (hx : Evaluates s ea 0 1 (.mem x) s.a) :
    exec (.jsr ea) s = callTo s s x (1 + Ea.words 1 ea) := by
  show execJsr ea s = _
  rw [execJsr, hx.controlEa, orAbort_ok]

/-- An operand read in the flat configuration. -/
theorem Flat.read_value (h : Flat s) (la : Long) (n : Nat) : s.read la n = .ok (s.valueAt la n) s := h.read la n

theorem exec_rts (h : Flat s) :
    exec .rts s = jump s (s.withA (s.a.set s.sr 7 (s.getA 7 + 4))) (s.valueAt (s.getA 7) 4) [] := by
  show execRts s = _
  rw [execRts, h.read_value, orAbort_ok]
  rfl

theorem exec_rtd (h : Flat s) (d : BitVec 16) : exec (.rtd d) s =
    jump s (s.withA (s.a.set s.sr 7 (s.getA 7 + 4 + d.signExtend 32))) (s.valueAt (s.getA 7) 4) [] := by
  show execRtd d s = _
  rw [execRtd, h.read_value, orAbort_ok]
  rfl

/-- `sr` with the condition codes of `v`. -/
theorem ccr_replaced (sr v : Word) :
    sr.extractLsb' 8 8 ++ 0#3 ++ v.extractLsb' 0 5 = (sr &&& 0xFF00) ||| (v &&& 0x001F) := by
  refine BitVec.eq_of_getLsbD_eq fun k hk => ?_
  simp only [BitVec.getLsbD_append, BitVec.getLsbD_extractLsb', BitVec.getLsbD_or, BitVec.getLsbD_and, BitVec.getLsbD_zero]
  interval_cases k <;> simp

theorem setCcr_eq (s : State) (v : Word) : s.setCcr v = { s with sr := (s.sr &&& 0xFF00) ||| (v &&& 0x001F) } := by
  rw [State.setCcr, ccr_replaced]

theorem exec_rtr (h : Flat s) : exec .rtr s =
    jump s { s with
      a := s.a.set s.sr 7 (s.getA 7 + 6)
      sr := (s.sr &&& 0xFF00) ||| ((s.valueAt (s.getA 7) 2).extractLsb' 0 16 &&& 0x001F) }
      (s.valueAt (s.getA 7 + 2) 4) [] := by
  show execRtr s = _
  rw [execRtr, h.read_value, Res.bind_ok, h.read_value, Res.bind_ok, orAbort_ok, setCcr_eq]
  rfl

/-! ### The obligations -/

/-- An instruction may empty the pipeline. -/
theorem Leaves.of_flushed {n : Nat} (h : Leaves i s n v)
    (hv : ∃ p k, v = { u with mem := { u.mem with pipe := [], stale := p, draws := k } }) : Leaves i s n u := by
  obtain ⟨p, k, rfl⟩ := hv
  obtain ⟨t, hexec, ⟨tr, p', k', q, hq, rfl⟩, hsame⟩ := h
  exact ⟨_, hexec, ⟨tr, p', k', q, .inr (or_self_iff.1 hq), rfl⟩, hsame⟩

/-- A branch not taken, its target being even all the same. -/
theorem notTaken_even (he : target.getLsbD 0 = false) (n : Nat) : notTaken s target n = next s s n := by
  rw [notTaken, he, if_neg Bool.false_ne_true]

theorem goesTo_of_leaves {n : Nat} (h : Leaves i s n u) : GoesTo i s (s.after n) u := h

theorem bcc_goesTo (h : Ready s) (cc : BitVec 4) {disp : BrDisp} (he : (branchTarget s (brValue disp)).getLsbD 0 = false) :
    GoesTo (.bcc cc disp) s (if s.cond cc then branchTarget s (brValue disp) else s.after (brWords disp)) s := by
  have hexec := exec_bcc cc disp s
  split <;> rename_i hc
  · rw [if_pos hc] at hexec
    exact goesTo_of_jump hexec h.flat rfl he
  · rw [if_neg hc, notTaken_even he] at hexec
    exact goesTo_of_leaves (leaves_of_next h hexec h.flat rfl)

/-- Settles O37: each of them goes on or jumps, with no write. -/
theorem branchesAndJumps : Obligations.BranchesAndJumps := by
  unfold Obligations.BranchesAndJumps
  intro s cc dn d disp ea h target v n c u
  have hv : v = brValue disp := by cases disp <;> rfl
  have hn : n = brWords disp := by cases disp <;> rfl
  have hcounted : Flat (s.counted dn) := h.flat.of_eq rfl rfl rfl
  refine ⟨fun he => ?_, fun hc => ?_, fun hc hlast => ?_, fun hc hmore he => ?_, fun hw => ?_, ?_⟩
  · rw [hv] at he ⊢
    rw [hn]
    exact ⟨bcc_goesTo h cc he, goesTo_of_jump (exec_bra disp s) h.flat rfl he⟩
  · exact leaves_of_next h (if_pos hc) h.flat rfl
  · exact leaves_of_next h ((exec_dbcc_false hc dn d).trans (if_pos hlast)) hcounted rfl
  · exact goesTo_of_jump ((exec_dbcc_false hc dn d).trans (if_neg hmore)) hcounted rfl he
  · obtain ⟨x, hx⟩ := control_evaluates h.flat (isControl_of_wf hw) 1
    exact ⟨x, hx, goesTo_of_jump (exec_jmp hx) h.flat rfl⟩
  · exact (leaves_of_next (u := { s with mem := s.mem.synchronize }) h rfl (h.flat.of_eq rfl rfl rfl) rfl).of_flushed ⟨_, _, rfl⟩

/-- Settles O38: the return address is pushed before the jump, and popped before the jump back. -/
theorem callsAndReturns : Obligations.CallsAndReturns := by
  unfold Obligations.CallsAndReturns
  intro s disp ea d h sp v n
  have hv : v = brValue disp := by cases disp <;> rfl
  have hn : n = brWords disp := by cases disp <;> rfl
  refine ⟨fun he => ?_, fun hw => ?_, fun he => ⟨?_, ?_⟩, fun he => ?_⟩
  · rw [hv] at he ⊢
    rw [hn]
    exact callTo_reaches h (exec_bsr disp s) he
  · obtain ⟨x, hx⟩ := control_evaluates h.flat (isControl_of_wf hw) 1
    exact ⟨x, hx, callTo_reaches h (exec_jsr hx)⟩
  · exact goesTo_of_jump (exec_rts h.flat) (h.flat.withA _) rfl he
  · exact goesTo_of_jump (exec_rtd h.flat d) (h.flat.withA _) rfl he
  · exact goesTo_of_jump (exec_rtr h.flat) (h.flat.of_eq rfl rfl rfl) rfl he

end Sys2Proof.Machine
end

section
/-! PROOFS. The trap instructions, and the privilege violation of the privileged ones (48_system_control R961, R990 to R996;
60_exceptions R1075, R1080, R1081, R1115, R1120; 90_conflicts C43). -/

namespace Sys2Proof.Machine

variable {s : State} {i : Instr}

/-! ### Exceptions with the instruction's own address -/

/-- An exception with a format $0 frame. -/
theorem trap0_takes (h : Flat s) (vector : BitVec 8) (spc : Long) : Takes s vector 0 spc [] (trap0 s vector spc) :=
  (takeException_takes h frameFields_zero spc vector).1

theorem takes_of_trap0 (h : Flat s) {vector : BitVec 8} {spc : Long} (hexec : exec i s = .next (trap0 s vector spc)) :
    ∃ t, exec i s = .next t ∧ Takes s vector 0 spc [] t := ⟨_, hexec, trap0_takes h vector spc⟩

theorem exec_bkpt (h : Flat s) (k : BitVec 3) : exec (.bkpt k) s = .next (trap0 s 4 s.pc) := by
  show execBkpt k s = _
  rw [execBkpt, acknowledge_quiet h.bus]
  rfl

/-! ### Traps that complete -/

/-- An instruction that takes an exception as its only effect: its trace stays pending. -/
theorem tracedTrap_takes (h : Flat s) (vector : BitVec 8) (spc : Long) :
    ∃ t, tracedTrap s s (fun u => trap0 u vector spc) = .next t ∧ TakesTraced s.pc s vector 0 spc [] t := by
  obtain ⟨k, hsettled⟩ := settleTrace_near s s true
  have hflat : Flat (s.settleTrace s true) := by
    rw [hsettled]
    exact h.of_eq rfl rfl rfl
  have htakes := (trap0_takes hflat vector spc).traced ⟨s.mem.stale, k, hsettled⟩ (traceAfter_traced s.sr s.mem s.pc)
  refine ⟨_, ?_, htakes⟩
  rw [tracedTrap, ownTrap, givesUp_of_none h.push, if_neg Bool.false_ne_true]
  rfl

/-- TRAPcc and TRAPV trap or go on, as the condition says. -/
theorem trapIf_outcomes (h : Ready s) {c : Bool} {n : Nat} (hexec : exec i s = trapIf c n s) :
    (c = false → Leaves i s n s) ∧
      (c = true → ∃ t, exec i s = .next t ∧ TakesTraced s.pc s 7 2 (s.after n) (toBytes s.pc 4) t) := by
  refine ⟨fun hc => leaves_of_next h (hexec.trans ?_) h.flat rfl, fun hc => ?_⟩
  · rw [trapIf, hc, if_neg Bool.false_ne_true]
  · rw [hexec, trapIf, hc, if_pos rfl]
    exact trapNext_takes h.flat (.refl s) rfl rfl 7 n

/-- Settles O9: TRAP and TRAPcc leave their trace pending, ILLEGAL and BKPT do not complete. -/
theorem trapInstructionsTakeTheirException : Obligations.TrapInstructionsTakeTheirException := by
  unfold Obligations.TrapInstructionsTakeTheirException
  refine ⟨fun s n k h => ⟨tracedTrap_takes h (32 + n.zeroExtend 8) (s.pc + 2), takes_of_trap0 h rfl,
    takes_of_trap0 h (exec_bkpt h k)⟩, fun s cc w l h p hp => ?_⟩
  simp only [List.mem_cons, List.not_mem_nil, or_false] at hp
  rcases hp with rfl | rfl | rfl | rfl <;> exact trapIf_outcomes h rfl

/-! ### Privileged instructions -/

/-- An instruction that requires the supervisor state takes the privilege violation in user state, and does nothing else. -/
theorem ifSupervisor_violates (h : Flat s) (hu : s.super = false) {body : Out} (hexec : exec i s = ifSupervisor s body) :
    ∃ t, exec i s = .next t ∧ Takes s 8 0 s.pc [] t := by
  rw [ifSupervisor, hu, if_neg Bool.false_ne_true] at hexec
  exact takes_of_trap0 h hexec

/-- Settles O8: each of them is an `ifSupervisor`. -/
theorem privilegedInstructionsTrapInUserState : Obligations.PrivilegedInstructionsTrapInUserState := by
  unfold Obligations.PrivilegedInstructionsTrapInUserState
  intro s ea imm an rn code m c h hu i hi
  simp only [List.mem_cons, List.not_mem_nil, or_false] at hi
  rcases hi with rfl | rfl | rfl | rfl | rfl | rfl | rfl | rfl | rfl | rfl | rfl | rfl | rfl | rfl | rfl | rfl | rfl | rfl |
    rfl | rfl | rfl | rfl | rfl | rfl | rfl | rfl | rfl | rfl | rfl <;> exact ifSupervisor_violates h hu rfl

end Sys2Proof.Machine
end

section
/-! PROOFS. The condition codes, the status register, the user stack pointer, RESET and STOP; MOVEC (48_system_control R962 to
R976, R980, R982; 10_state R60, R65 to R72). -/

namespace Sys2Proof.Machine

variable {s u : State} {i : Instr}

/-! ### Instructions that move on without a write -/

theorem next_eq (s0 s : State) (n : Nat) : next s0 s n = .next (endInstr s0 { s with pc := s0.after n } false) := rfl

/-- An instruction that only moves on leaves the state it moves on with, whatever the configuration. -/
theorem leaves_of_next_even (he : s.pc.getLsbD 0 = false) {n : Nat} (hexec : exec i s = next s u n)
    (hram : u.mem.ram = s.mem.ram) : Leaves i s n u := by
  have hdone : CompletesAs u (s.after n) (endInstr s { u with pc := s.after n } false) :=
    endInstr_completes (s := { u with pc := s.after n }) s false (even_add s.pc n he)
  exact ⟨_, hexec.trans (next_eq s u n), hdone, sameBytes_of_ram (hdone.ram.trans hram)⟩

/-- In supervisor state a privileged instruction does what it is for. -/
theorem ifSupervisor_runs (hs : s.super = true) (body : Out) : ifSupervisor s body = body := if_pos hs

/-! ### The status register -/

theorem ccr_leaves (h : Ready s) {v : Word} (hexec : exec i s = next s (s.setCcr v) 2) :
    Leaves i s 2 { s with sr := (s.sr &&& 0xFF00) ||| (v &&& 0x001F) } := by
  rw [setCcr_eq] at hexec
  exact leaves_registers h hexec

theorem exec_moveToCcr (ea : Ea) (s : State) :
    exec (.moveToCcr ea) s = testEa s .w ea 1 fun u v => u.setCcr (v.extractLsb' 0 16) := rfl

/-- A load of the SR ends an instruction as a jump to the next one does. -/
theorem loadSr_eq (s0 s : State) (v : Word) (n : Nat) : loadSr s0 s v n = jump s0 { s with sr := v &&& 0xF71F } (s0.after n) [] :=
  rfl

theorem loadSr_leaves (h : Ready s) {a : AddrRegs} {v : Word} {n : Nat} (hexec : exec i s = loadSr s (s.withA a) v n) :
    Leaves i s n { s with a := a, sr := v &&& 0xF71F } :=
  goesTo_of_jump (hexec.trans (loadSr_eq s (s.withA a) v n)) (h.flat.of_eq rfl rfl rfl) rfl (h.after_even n)

theorem exec_moveToSr (hs : s.super = true) {ea : Ea} {l : Loc} {v : Long} {a : AddrRegs} (hread : Reads s .w ea 1 l v a) :
    exec (.moveToSr ea) s = loadSr s (s.withA a) (v.extractLsb' 0 16) (eaLength 1 .w ea) := by
  show execMoveToSr ea s = _
  rw [execMoveToSr, ifSupervisor_runs hs, hread.orAbort_eq]

/-! ### RESET and STOP -/

theorem exec_reset (h : Flat s) (hs : s.super = true) : exec .reset s = next s { s with rsto := s.rsto + 1 } 1 := by
  show execReset s = _
  rw [execReset, ifSupervisor_runs hs, tick_quiet h.bus]

/-- STOP loads the SR; whether it is traced decides whether the processor stops. -/
theorem exec_stop (hs : s.super = true) (imm : BitVec 16) : exec (.stop imm) s =
    jump s { s with sr := imm &&& 0xF71F, run := if traced s.sr s.mem true then .normal else .stopped } (s.after 2) [] := by
  show execStop imm s = _
  rw [execStop, ifSupervisor_runs hs, loadSr_eq]

theorem stop_untraced (h : Ready s) (hs : s.super = true) (imm : BitVec 16) (ht : traced s.sr s.mem true = false) :
    Leaves (.stop imm) s 2 { s with sr := imm &&& 0xF71F, run := .stopped } := by
  have hexec := exec_stop hs imm
  rw [ht] at hexec
  exact goesTo_of_jump hexec (h.flat.of_eq rfl rfl rfl) rfl (h.after_even 2)

theorem stop_traced (h : Ready s) (hs : s.super = true) (imm : BitVec 16) (ht : traced s.sr s.mem true = true) :
    ∃ t, exec (.stop imm) s = .next t ∧ t.sr = imm &&& 0xF71F ∧ t.pc = s.after 2 ∧ t.run = .normal ∧ t.trace = some s.pc := by
  let u : State := { s with sr := imm &&& 0xF71F, run := .normal, pc := s.after 2 }
  have hexec : exec (.stop imm) s = .next (endInstr s u true) := by
    rw [exec_stop hs, ht]
    rfl
  have htrace : (endInstr s u true).trace = some s.pc :=
    (endInstr_trace (s := u) s true (h.after_even 2)).trans (if_pos ht)
  obtain ⟨tr, p, k, q, -, hdone⟩ := endInstr_completes (s := u) s true (h.after_even 2)
  exact ⟨_, hexec, by rw [hdone], by rw [hdone], by rw [hdone], htrace⟩

/-- Settles O39: CCR is written in place, SR by `loadSr`. -/
theorem statusRegisterResetAndStop : Obligations.StatusRegisterResetAndStop := by
  unfold Obligations.StatusRegisterResetAndStop
  constructor
  · intro s imm ea an h ccr
    refine ⟨fun p hp => ?_, testEa_leavesFrom h (exec_moveToCcr ea s) fun a v => setCcr_eq (s.withA a) _,
      fun hs => ⟨fun p hp => ?_, ?_, ?_, ?_⟩⟩
    · simp only [List.mem_cons, List.not_mem_nil, or_false] at hp
      rcases hp with rfl | rfl | rfl <;> exact ccr_leaves h rfl
    · simp only [List.mem_cons, List.not_mem_nil, or_false] at hp
      rcases hp with rfl | rfl | rfl <;> exact loadSr_leaves h (ifSupervisor_runs hs _)
    · exact leavesFrom_of_reads h fun l v a hread => loadSr_leaves h (exec_moveToSr hs hread)
    · exact leaves_registers h (ifSupervisor_runs hs _)
    · exact leaves_registers h (ifSupervisor_runs hs _)
  · intro s imm h hs
    refine ⟨leaves_of_next h (exec_reset h.flat hs) (h.flat.of_eq rfl rfl rfl) rfl, fun hb => stop_untraced h hs imm ?_,
      fun hb => stop_traced h hs imm ?_⟩
    · rw [traced_of_bits hb]
      rfl
    · rcases hb with hb | hb <;> rw [traced_of_bits hb] <;> rfl

/-! ### MOVEC -/

/-- The implemented bits of a control register (10_state R65 to R71). -/
def controlMask : ControlReg → Long
  | .sfc | .dfc => 7
  | .cacr => 0x80008000
  | .tc => 0xC000
  | .itt0 | .itt1 | .dtt0 | .dtt1 => 0xFFFFE364
  | .mmusr => 0xFFFFFFF7
  | .urp | .srp => 0xFFFFFE00
  | _ => 0xFFFFFFFF

theorem low_three_bits (v : Long) : (v.extractLsb' 0 3).zeroExtend 32 = v &&& 7 := BitVec.eq_of_toNat_eq (by
  rw [BitVec.toNat_setWidth, BitVec.extractLsb'_toNat, BitVec.toNat_and, show (7 : Long).toNat = 2 ^ 3 - 1 from rfl,
    Nat.and_two_pow_sub_one_eq_mod, Nat.shiftRight_zero]
  omega)

theorem low_word_masked (v : Long) : (v.extractLsb' 0 16 &&& 0xC000).zeroExtend 32 = v &&& 0xC000 := by
  refine BitVec.eq_of_getLsbD_eq fun k hk => ?_
  interval_cases k <;> simp

/-- A control register holds what is written to it, but for the bits that do not exist. -/
theorem readCr_writeCr_self (s : State) (r : ControlReg) (v : Long) : readCr (writeCr s r v) r = v &&& controlMask r := by
  cases r with
  | sfc | dfc => exact low_three_bits v
  | tc => exact low_word_masked v
  | usp | vbr | msp | isp => exact BitVec.and_allOnes.symm
  | cacr | itt0 | itt1 | dtt0 | dtt1 | mmusr | urp | srp => rfl

theorem readCr_writeCr_of_ne (s : State) {r q : ControlReg} (h : q ≠ r) (v : Long) : readCr (writeCr s r v) q = readCr s q := by
  cases r <;> cases q <;> first | rfl | exact absurd rfl h

theorem writeCr_mem (s : State) (r : ControlReg) (v : Long) : (writeCr s r v).mem = s.mem := by cases r <;> rfl

/-- Of the address registers MOVEC writes stack pointers only. -/
theorem writeCr_frame (s : State) (r : ControlReg) (v : Long) :
    writeCr s r v = { s with ctl := (writeCr s r v).ctl, a := (writeCr s r v).a } ∧
      ∀ n : BitVec 3, n ≠ 7 → (writeCr s r v).getA n = s.getA n := by
  have hstack : ∀ (usp msp isp : Long) (n : BitVec 3), n ≠ 7 →
      ({ s.a with usp := usp, msp := msp, isp := isp }).get s.sr n = s.a.get s.sr n := fun _ _ _ n hn => by
    rcases reg_cases n with rfl | rfl | rfl | rfl | rfl | rfl | rfl | rfl <;> first | rfl | exact absurd rfl hn
  cases r with
  | usp | msp | isp => exact ⟨rfl, hstack _ _ _⟩
  | sfc | dfc | cacr | tc | itt0 | itt1 | dtt0 | dtt1 | vbr | mmusr | urp | srp => exact ⟨rfl, fun _ _ => rfl⟩

theorem exec_movecRcRn (hs : s.super = true) {code : BitVec 12} {r : ControlReg} (hr : controlReg code = some r)
    (rn : BitVec 4) : exec (.movecRcRn rn code) s = next s (s.setR rn (readCr s r)) 2 := by
  show execMovecRcRn rn code s = _
  rw [execMovecRcRn, ifSupervisor_runs hs, hr]

theorem exec_movecRnRc (hs : s.super = true) {code : BitVec 12} {r : ControlReg} (hr : controlReg code = some r)
    (rn : BitVec 4) : exec (.movecRnRc rn code) s =
      next s { writeCr s r (s.getR rn) with mem := (writeCr s r (s.getR rn)).mem.flushPipe } 2 := by
  show execMovecRnRc rn code s = _
  rw [execMovecRnRc, ifSupervisor_runs hs, hr]

/-- A write of a control register, the words prefetched being discarded. -/
theorem movecRnRc_leaves (h : Ready s) (hs : s.super = true) {code : BitVec 12} {r : ControlReg}
    (hr : controlReg code = some r) (rn : BitVec 4) : Leaves (.movecRnRc rn code) s 2 (writeCr s r (s.getR rn)) := by
  have hmem : (writeCr s r (s.getR rn)).mem = s.mem := writeCr_mem s r (s.getR rn)
  refine (leaves_of_next_even h.even (exec_movecRnRc hs hr rn) ?_).of_flushed ⟨_, _, rfl⟩
  rw [hmem]
  rfl

theorem exec_movec_illegal (hs : s.super = true) {code : BitVec 12} (hr : controlReg code = none) (rn : BitVec 4) :
    exec (.movecRcRn rn code) s = .next (illegalInstruction s) ∧ exec (.movecRnRc rn code) s = .next (illegalInstruction s) := by
  constructor
  · show execMovecRcRn rn code s = _
    rw [execMovecRcRn, ifSupervisor_runs hs, hr]
  · show execMovecRnRc rn code s = _
    rw [execMovecRnRc, ifSupervisor_runs hs, hr]

/-- Settles O40: `readCr` and `writeCr` of the register that the code names. -/
theorem movecMovesControlRegisters : Obligations.MovecMovesControlRegisters := by
  unfold Obligations.MovecMovesControlRegisters
  intro s rn code h hs mask
  have hmask : ∀ r, mask r = controlMask r := fun r => by cases r <;> rfl
  refine ⟨fun r hr => ⟨?_, writeCr s r (s.getR rn), movecRnRc_leaves h hs hr rn, ?_⟩, fun hr i hi => ?_⟩
  · exact leaves_of_next_even h.even (exec_movecRcRn hs hr rn) (by rw [setR_mem])
  · rw [hmask]
    exact ⟨readCr_writeCr_self s r _, fun q hq => readCr_writeCr_of_ne s hq _, writeCr_frame s r _⟩
  · obtain ⟨hread, hwrite⟩ := exec_movec_illegal hs hr rn
    simp only [List.mem_cons, List.not_mem_nil, or_false] at hi
    rcases hi with rfl | rfl
    · exact takes_of_trap0 h.flat hread
    · exact takes_of_trap0 h.flat hwrite

end Sys2Proof.Machine
end

section
/-! PROOFS. MOVES: operands at addresses in memory, and the alternate address spaces (48_system_control R978; 20_memory R163). -/

namespace Sys2Proof.Machine

variable {s u : State} {m : MemSys} {i : Instr} {a : Access}

/-! ### Operands that are in memory (R480) -/

/-- A memory alterable mode evaluates to an address, with its register updated or not. -/
theorem memAlt_evaluates (h : Flat s) {n : Nat} {ea : Ea} (hw : ea.wf .memAlt n = true) (k pre : Nat) :
    ∃ x a, Evaluates s ea k pre (.mem x) a := by
  cases ea with
  | dn r | an r | pcDisp d | pcIdx x | imm v =>
    exact absurd (has_of_wf hw) (by simp [EaSet.has, Ea.modeField, Ea.regField, EaSet.memAlt])
  | ind r | post r | pre r | disp r d | absW x | absL x => exact ⟨_, _, rfl⟩
  | idx r x =>
    obtain ⟨y, hy⟩ := indexedEa_flat h (s.getA r) x
    exact ⟨y, _, evaluates_idx hy k pre⟩

/-! ### Accesses of an alternate space on a quiet bus -/

theorem Cycle.then_base (c : Cycle) (b : Bool) : (c.then b).base = c.base := by
  unfold Cycle.then
  split <;> rfl

theorem readCycle_alt (h : m.quiet = true) {c : Cycle} (hc : c.tt = 2) (pa : Long) (n : Nat) :
    m.readCycle c pa n = (⟨false, getBytes m.alt c.base pa n, false, m.tci (c.base + pa.toNat), false⟩, m) := by
  obtain ⟨h1, h2, -, h4, -⟩ := quiet_iff.1 h
  simp [MemSys.readCycle, tick_quiet h, h4, MemSys.windowed, h2, MemSys.tea, h1, MemSys.cells, hc]

theorem writeCycle_alt (h : m.quiet = true) {c : Cycle} (hc : c.tt = 2) (pa : Long) (bs : List Byte) :
    m.writeCycle c pa bs = (⟨false, [], false, false, false⟩, { m with alt := putBytes m.alt c.base pa bs }) := by
  obtain ⟨h1, h2, -, h4, -⟩ := quiet_iff.1 h
  simp [MemSys.writeCycle, tick_quiet h, h4, MemSys.windowed, h2, MemSys.tea, h1, MemSys.put, hc]

theorem busReads_alt (h : m.quiet = true) : ∀ (fuel : Nat) {c : Cycle} (_ : c.tt = 2) (pa : Long) (n : Nat),
    n ≤ fuel → busReads fuel m c pa n = (some (getBytes m.alt c.base pa n), m)
  | 0, _, _, _, n, hn => by
    obtain rfl : n = 0 := by omega
    rfl
  | fuel + 1, c, hc, pa, n, hn => by
    unfold busReads
    split
    case isTrue h0 => rw [h0]; rfl
    case isFalse h0 =>
      obtain ⟨hpos, hle⟩ := transferLength_pos pa.toNat n (by omega)
      have hrest := busReads_alt h fuel (c := c.then false) (by rw [Cycle.then_tt]; exact hc)
        (pa + BitVec.ofNat 32 (transferLength pa.toNat n)) (n - transferLength pa.toNat n) (by omega)
      simp only [readCycle_alt h hc, Bool.false_eq_true, if_false, hrest, Cycle.then_base, Option.map_some, getBytes_append,
        Nat.add_sub_cancel' hle]

theorem busWrites_alt : ∀ (fuel : Nat) {m : MemSys} (_ : m.quiet = true) {c : Cycle} (_ : c.tt = 2) (pa : Long)
    (bs : List Byte), bs.length ≤ fuel → busWrites fuel m c pa bs = (false, { m with alt := putBytes m.alt c.base pa bs })
  | 0, m, _, _, _, _, bs, hn => by
    obtain rfl : bs = [] := List.length_eq_zero_iff.1 (by omega)
    rfl
  | fuel + 1, m, h, c, hc, pa, [], hn => rfl
  | fuel + 1, m, h, c, hc, pa, b :: bs, hn => by
    obtain ⟨hpos, hle⟩ := transferLength_pos pa.toNat (b :: bs).length (Nat.succ_pos _)
    unfold busWrites
    simp only [writeCycle_alt h hc, Bool.false_eq_true, Bool.false_and, if_false]
    generalize transferLength pa.toNat (b :: bs).length = k at hpos hle
    have hrest := busWrites_alt fuel (m := { m with alt := putBytes m.alt c.base pa ((b :: bs).take k) }) h
      (c := c.then false) (by rw [Cycle.then_tt]; exact hc) (pa + BitVec.ofNat 32 k) ((b :: bs).drop k)
      (by rw [List.length_drop]; omega)
    have hrow := putBytes_append c.base ((b :: bs).take k) ((b :: bs).drop k) m.alt pa
    rw [List.length_take_of_le hle, List.take_append_drop] at hrow
    rw [hrest, Cycle.then_base, hrow]

/-- The key of an alternate space's first byte. -/
def altBase (fc : BitVec 3) : Nat := (fc.toNat + 1) * 2 ^ 32

theorem Access.cycle_base (ha : a.tt = 2) : a.cycle.base = altBase a.tm := by
  unfold Access.cycle
  split <;> exact if_pos ha

theorem busReadP_alt (h : m.quiet = true) (ha : a.tt = 2) (pa : Long) (n : Nat) :
    busReadP m a pa n = .ok (getBytes m.alt (altBase a.tm) pa n) m := by
  rw [busReadP, MemSys.busRead, busReads_alt h n (c := a.cycle) (by rw [Access.cycle_tt]; exact ha) pa n (Nat.le_refl n),
    Access.cycle_base ha]

theorem busWriteP_alt (h : m.quiet = true) (ha : a.tt = 2) (pa : Long) (bs : List Byte) :
    busWriteP m a pa bs = .ok () { m with alt := putBytes m.alt (altBase a.tm) pa bs } := by
  rw [busWriteP, MemSys.busWrite, busWrites_alt bs.length h (c := a.cycle) (by rw [Access.cycle_tt]; exact ha) pa bs
    (Nat.le_refl _), Access.cycle_base ha]

theorem pieceRead_alt (h : Flat s) (ha : a.tt = 2) (pa : Long) (cm : BitVec 2) (n : Nat) :
    pieceRead s.ctl s.mem a pa cm n = .ok (getBytes s.mem.alt (altBase a.tm) pa n) s.mem := by
  simp [pieceRead, dataTick_of_due (quiet_iff.1 h.bus).2.2.1, h.dcacheOn, busReadP_alt h.bus ha]

theorem pieceWrite_alt (h : Flat s) (hm : m.quiet = true) (ha : a.tt = 2) (pa : Long) (cm : BitVec 2) (bs : List Byte) :
    pieceWrite s.ctl m a pa cm bs = .ok () { m with alt := putBytes m.alt (altBase a.tm) pa bs } := by
  obtain ⟨-, -, hdue, hstruck, -⟩ := quiet_iff.1 hm
  simp [pieceWrite, pieceWriteMade, dataTick_of_due hdue, hstruck, h.dcacheOn, busWriteP_alt hm ha]

/-- An operand of an alternate space is read there, untranslated. -/
theorem dataRead_alt (h : Flat s) (ha : a.tt = 2) (la : Long) (n : Nat) :
    dataRead s.ctl s.mem a la n = .ok (getBytes s.mem.alt (altBase a.tm) la n) s.mem := by
  have hphys : physRead s.ctl s.mem a la 0 n = .ok (getBytes s.mem.alt (altBase a.tm) la n) s.mem := by
    have hk : lineRoom la n ≤ n := Nat.min_le_left _ _
    unfold physRead
    extract_lets k
    split
    · exact pieceRead_alt h ha la 0 n
    · rw [pieceRead_alt h ha, PRes.bind, betweenHalves_quiet h.bus, pieceRead_alt h ha, PRes.bind, getBytes_append,
        Nat.add_sub_cancel' hk]
  rw [dataRead, if_pos ha, altRead, hphys]

/-- An operand of an alternate space is written there and nowhere else. -/
theorem dataWrite_alt (h : Flat s) (hm : m.quiet = true) (ha : a.tt = 2) (la : Long) (bs : List Byte) :
    dataWrite s.ctl m a la bs = .ok () { m with alt := putBytes m.alt (altBase a.tm) la bs } := by
  have hphys : physWrite s.ctl m a la 0 bs = .ok () { m with alt := putBytes m.alt (altBase a.tm) la bs } := by
    have hk : lineRoom la bs.length ≤ bs.length := Nat.min_le_left _ _
    unfold physWrite
    extract_lets k
    split
    · exact pieceWrite_alt h hm ha la 0 bs
    · have hrow := putBytes_append (altBase a.tm) (bs.take k) (bs.drop k) m.alt la
      rw [List.length_take_of_le hk, List.take_append_drop] at hrow
      have hfirst : ({ m with alt := putBytes m.alt (altBase a.tm) la (bs.take k) } : MemSys).quiet = true := hm
      rw [pieceWrite_alt h hm ha, PRes.bind, betweenHalves_quiet hfirst, pieceWrite_alt h hfirst ha, hrow]
  rw [dataWrite, if_pos ha, altWrite, hphys]

theorem readVia_alt (h : Flat s) (ha : a.tt = 2) (la : Long) (n : Nat) :
    s.readVia a la n = .ok (ofBytes (getBytes s.mem.alt (altBase a.tm) la n)) s := by
  rw [State.readVia, dataRead_alt h ha]
  rfl

/-! ### The space that a function code names (R163) -/

/-- Function codes 1, 2, 5 and 6 name ordinary memory. -/
def ordinaryCode (fc : BitVec 3) : Bool := fc = 1 ∨ fc = 2 ∨ fc = 5 ∨ fc = 6

theorem movesAccess_ordinary {fc : BitVec 3} (h : ordinaryCode fc = true) : (movesAccess fc).tt ≠ 2 := by
  revert h fc
  decide

theorem movesAccess_alternate {fc : BitVec 3} (h : ordinaryCode fc = false) :
    (movesAccess fc).tt = 2 ∧ (movesAccess fc).tm = fc := by
  revert h fc
  decide

/-- The value that MOVES reads. -/
def movesOperand (s : State) (x : Long) (n : Nat) : Long :=
  if ordinaryCode s.ctl.sfc then s.valueAt x n else ofBytes (getBytes s.mem.alt (altBase s.ctl.sfc) x n)

theorem readVia_moves (h : Flat s) (x : Long) (n : Nat) :
    s.readVia (movesAccess s.ctl.sfc) x n = .ok (movesOperand s x n) s := by
  unfold movesOperand
  split
  case isTrue hord => exact h.readVia (movesAccess_ordinary hord) x n
  case isFalse halt =>
    obtain ⟨htt, htm⟩ := movesAccess_alternate (Bool.eq_false_iff.2 halt)
    rw [readVia_alt h htt, htm]

/-! ### MOVES -/

section moves
variable {z : Size} {rn : BitVec 4} {ea : Ea} {x : Long} {regs : AddrRegs}

theorem moves_load_eq (h : Flat s) (hs : s.super = true) (he : Evaluates s ea z.bytes 2 (.mem x) regs) :
    moves z rn false ea s =
      next s ((s.withA regs).setMoves z rn (movesOperand (s.withA regs) x z.bytes)) (2 + Ea.words 1 ea) := by
  rw [moves, ifSupervisor_runs hs, show evalEa s ea z.bytes (s.after 2) = _ from he, orAbort_ok, if_neg Bool.false_ne_true]
  exact congrArg (orAbort s · _) (readVia_moves (h.withA regs) x z.bytes)

theorem moves_store_eq (hs : s.super = true) (he : Evaluates s ea z.bytes 2 (.mem x) regs) :
    moves z rn true ea s =
      nextWith s (movesValue s (s.withA regs) rn).2 (2 + Ea.words 1 ea)
        [⟨x, toBytes (movesValue s (s.withA regs) rn).1 z.bytes, movesAccess s.ctl.dfc⟩] := by
  rw [moves, ifSupervisor_runs hs, show evalEa s ea z.bytes (s.after 2) = _ from he, orAbort_ok, if_pos rfl]
  rfl

/-- The register stored is the old or the new one; a free value may be drawn. -/
theorem movesValue_cases (s u : State) (rn : BitVec 4) :
    ((movesValue s u rn).1 = s.getR rn ∨ (movesValue s u rn).1 = u.getR rn) ∧ Near u (movesValue s u rn).2 := by
  unfold movesValue
  split
  case isTrue => exact ⟨.inr rfl, .refl u⟩
  case isFalse =>
    refine ⟨?_, u.mem.stale, u.mem.draws + 1, rfl⟩
    by_cases hnew : (u.draw 1).1 = 1
    · exact .inr (if_pos hnew)
    · exact .inl (if_neg hnew)

/-- A value loaded into An is sign-extended, one loaded into Dn is put in its low bits. -/
theorem setMoves_eq (u : State) (z : Size) (rn : BitVec 4) (v : Long) :
    u.setMoves z rn v =
      if rn.getLsbD 3 then u.setR rn (z.sext v) else { u with d := dataAfter u z (.d (rn.extractLsb' 0 3)) v } := by
  unfold State.setMoves
  split
  case isTrue haddr => rw [State.setR, if_pos haddr]
  case isFalse => rfl

theorem moves_loads (h : Ready s) (hs : s.super = true) (hexec : exec i s = moves z rn false ea s)
    (he : Evaluates s ea z.bytes 2 (.mem x) regs) :
    Leaves i s (2 + Ea.words 1 ea)
      (if rn.getLsbD 3 then (s.withA regs).setR rn (z.sext (movesOperand (s.withA regs) x z.bytes))
        else { s.withA regs with
          d := dataAfter (s.withA regs) z (.d (rn.extractLsb' 0 3)) (movesOperand (s.withA regs) x z.bytes) }) := by
  refine leaves_of_next_even h.even (hexec.trans ((moves_load_eq h.flat hs he).trans (by rw [setMoves_eq]))) ?_
  split
  · rw [setR_mem]
  · rfl

/-- One write of an alternate space completes an instruction. -/
theorem nextWith_alt (h : Ready s) (hu : Flat u) {w : Write} (hw : w.acc.tt = 2) (n : Nat) :
    ∃ t, nextWith s u n [w] = .next t ∧
      CompletesAs { u with mem := { u.mem with alt := putBytes u.mem.alt (altBase w.acc.tm) w.addr w.bytes } } (s.after n) t := by
  let done : State := { u with
    pc := s.after n, mem := { u.mem with alt := putBytes u.mem.alt (altBase w.acc.tm) w.addr w.bytes } }
  have hwrite : ({ u with pc := s.after n } : State).write w = .ok () done := by
    rw [State.write, show dataWrite ({ u with pc := s.after n } : State).ctl _ w.acc w.addr w.bytes = _ from
      dataWrite_alt hu hu.bus hw w.addr w.bytes]
    rfl
  refine ⟨endInstr s done false, ?_, endInstr_completes (s := done) s false (h.after_even n)⟩
  rw [nextWith, complete, writeAll, hwrite]
  rfl

theorem moves_stores (h : Ready s) (hs : s.super = true) (hexec : exec i s = moves z rn true ea s)
    (he : Evaluates s ea z.bytes 2 (.mem x) regs) :
    ∃ w, (w = s.getR rn ∨ w = (s.withA regs).getR rn) ∧
      (ordinaryCode s.ctl.dfc = true →
        StoresAndReaches i s (s.withA regs) (s.after (2 + Ea.words 1 ea)) x z.bytes w) ∧
      (ordinaryCode s.ctl.dfc = false → Leaves i s (2 + Ea.words 1 ea) { s.withA regs with mem := { s.mem with
        alt := putBytes s.mem.alt (altBase s.ctl.dfc) x (toBytes w z.bytes) } }) := by
  obtain ⟨hvalue, p, k, hnear⟩ := movesValue_cases s (s.withA regs) rn
  have hflat : Flat (movesValue s (s.withA regs) rn).2 := by
    rw [hnear]
    exact h.flat.of_eq rfl rfl rfl
  rw [moves_store_eq hs he] at hexec
  refine ⟨_, hvalue, fun hord => ?_, fun halt => ?_⟩
  · obtain ⟨t, hnext, hdone⟩ := nextWith_flat h hflat (2 + Ea.words 1 ea)
      (ws := [⟨x, toBytes (movesValue s (s.withA regs) rn).1 z.bytes, movesAccess s.ctl.dfc⟩])
      (List.forall_mem_singleton.2 (movesAccess_ordinary hord))
    rw [hnear] at hdone
    have hstored := hdone.of_near (u := { s.withA regs with mem := { s.mem with
      ram := putBytes s.mem.ram 0 x (toBytes (movesValue s (s.withA regs) rn).1 z.bytes) } }) ⟨p, k, rfl⟩
    exact ⟨t, hexec.trans hnext, hstored, storesAt_of_ram ((size_bytes_le z).trans (by decide)) hstored.ram⟩
  · obtain ⟨htt, htm⟩ := movesAccess_alternate halt
    obtain ⟨t, hnext, hdone⟩ := nextWith_alt h hflat
      (w := ⟨x, toBytes (movesValue s (s.withA regs) rn).1 z.bytes, movesAccess s.ctl.dfc⟩) htt (2 + Ea.words 1 ea)
    rw [hnear, htm] at hdone
    have hstored := hdone.of_near (u := { s.withA regs with mem := { s.mem with
      alt := putBytes s.mem.alt (altBase s.ctl.dfc) x (toBytes (movesValue s (s.withA regs) rn).1 z.bytes) } }) ⟨p, k, rfl⟩
    exact ⟨t, hexec.trans hnext, hstored, sameBytes_of_ram hstored.ram⟩

end moves

/-- Settles O41: the address is evaluated as for any operand, and the access is made in the space of the function code. -/
theorem movesUsesTheFunctionCodes : Obligations.MovesUsesTheFunctionCodes := by
  unfold Obligations.MovesUsesTheFunctionCodes
  intro s rn ea h hs hw ordinary p hp z
  obtain ⟨x, a, he⟩ := memAlt_evaluates h.flat hw z.bytes 2
  refine ⟨x, a, he, ?_⟩
  simp only [List.mem_cons, List.not_mem_nil, or_false] at hp
  rcases hp with rfl | rfl | rfl
  · exact ⟨moves_loads h hs rfl he, moves_stores h hs rfl he⟩
  · exact ⟨moves_loads h hs rfl he, moves_stores h hs rfl he⟩
  · exact ⟨moves_loads h hs rfl he, moves_stores h hs rfl he⟩

end Sys2Proof.Machine
end

section
/-! PROOFS. TAS, CAS and CAS2: locked reads, and a write in every case (49_mmu_cache_multiprocessor R1050 to R1053). -/

namespace Sys2Proof.Machine

variable {s u : State} {i : Instr} {z : Size} {x : Long} {a : AddrRegs}

/-! ### Locked accesses -/

theorem lockedWrite_tt (s : State) (x : Long) (n : Nat) (v : Long) : (s.lockedWrite x n v).acc.tt ≠ 2 := by
  simp [State.lockedWrite, State.lockedAccess]

/-- A locked read, with what comes before it, gives the value of the operand. -/
theorem locked_read (h : Flat s) (x : Long) (n : Nat) :
    (s.beginLocked [(x, n)]).bind (fun _ u => u.readLocked x n) = .ok (s.valueAt x n) s := by
  rw [h.beginLocked, Res.bind_ok, h.readLocked]
  rfl

/-- An instruction that ends with one locked write; the privilege of the access is that of `w`. -/
theorem storesAndReaches_of_locked (h : Ready s) {n k : Nat} {v : Long} (hk : k ≤ 16) (hu : Flat u)
    (hram : u.mem.ram = s.mem.ram) {w : State} (hexec : exec i s = nextWith s u n [w.lockedWrite x k v]) :
    StoresAndReaches i s u (s.after n) x k v := by
  obtain ⟨t, hnext, hdone⟩ := nextWith_flat h hu n (List.forall_mem_singleton.2 (lockedWrite_tt w x k v))
  refine ⟨t, hexec.trans hnext, hdone, storesAt_of_ram hk ?_⟩
  rw [hdone.ram, ← hram]
  rfl

/-! ### TAS -/

theorem tas_register (h : Ready s) (n : BitVec 3) :
    Leaves (.tas (.dn n)) s 1 (s.put s.a (logicSr s.sr .b (s.getD n)) .b (.d n) (s.getD n ||| 0x80)) := by
  refine leaves_registers h ?_
  show execTas (.dn n) s = _
  rw [execTas, evalEa, orAbort_ok]
  exact congrArg (next s · 1) (setLogic_eq_logicSr _ .b (s.getD n))

theorem tas_memory (h : Ready s) {ea : Ea} (he : Evaluates s ea 1 1 (.mem x) a) :
    StoresAndReaches (.tas ea) s { s with a := a, sr := logicSr s.sr .b (s.valueAt x 1) } (s.after (1 + Ea.words 1 ea)) x 1
      (s.valueAt x 1 ||| 0x80) := by
  refine storesAndReaches_of_locked h (by decide) (h.flat.of_eq rfl rfl rfl) rfl (w := s) ?_
  show execTas ea s = _
  rw [execTas, show evalEa s ea 1 (s.after 1) = _ from he, orAbort_ok]
  simp only [Loc.addr]
  rw [locked_read (h.flat.withA a), orAbort_ok, setLogic_eq_logicSr]
  rfl

/-! ### CAS -/

/-- The flags of operand minus compare register. -/
theorem setCompare_sub (u : State) (z : Size) (src dst : Long) :
    u.setCompare z (subN z src dst false) = { u with sr := compareSr u.sr z src dst } := compareOp_eq z u src dst

/-- The operands of a comparison are the same if their difference is zero. -/
theorem isZero_subN (z : Size) (src dst : Long) :
    z.isZero (subN z src dst false).r = decide (unsignedAt z dst = unsignedAt z src) := by
  rw [subN_r, ← zeroAt_eq_isZero, zeroAt_diffAt]

theorem compareSwap_stores (h : Ready s) {du dc : BitVec 3} {ea : Ea} (hexec : exec i s = compareSwap z du dc ea s)
    (he : Evaluates s ea z.bytes 2 (.mem x) a) :
    let v := s.valueAt x z.bytes
    let u : State := { s with a := a, sr := compareSr s.sr z (s.getD dc) v }
    if unsignedAt z v = unsignedAt z (s.getD dc) then
      StoresAndReaches i s u (s.after (2 + Ea.words 1 ea)) x z.bytes (s.getD du)
    else StoresAndReaches i s { u with d := dataAfter u z (.d dc) v } (s.after (2 + Ea.words 1 ea)) x z.bytes v := by
  intro v u
  have hbytes : z.bytes ≤ 16 := (size_bytes_le z).trans (by decide)
  have hread : (evalEa s ea z.bytes (s.after 2)).bind (fun l s1 => (s1.beginLocked [(l.addr, z.bytes)]).bind fun _ s2 =>
      (s2.readLocked l.addr z.bytes).bind fun d s3 => .ok (l.addr, d) s3) = .ok (x, v) (s.withA a) := by
    rw [show evalEa s ea z.bytes (s.after 2) = _ from he, Res.bind_ok]
    simp only [Loc.addr]
    rw [(h.flat.withA a).beginLocked, Res.bind_ok, (h.flat.withA a).readLocked, Res.bind_ok]
    rfl
  rw [compareSwap, hread, orAbort_ok] at hexec
  simp only [isZero_subN, setCompare_sub] at hexec
  split
  case isTrue heq =>
    refine storesAndReaches_of_locked h hbytes (u := u) (h.flat.of_eq rfl rfl rfl) rfl (hexec.trans (if_pos ?_))
    exact decide_eq_true heq
  case isFalse hne =>
    refine storesAndReaches_of_locked h hbytes (u := { u with d := dataAfter u z (.d dc) v }) (h.flat.of_eq rfl rfl rfl) rfl
      (hexec.trans (if_neg ?_))
    rw [decide_eq_true_eq]
    exact hne

/-! ### CAS2 -/

section cas2
variable {r1 r2 : BitVec 4} {du1 dc1 du2 dc2 : BitVec 3}

/-- `s` with the flags of the operand `v` minus Dc. -/
def State.compared (s : State) (z : Size) (dc : BitVec 3) (v : Long) : State :=
  { s with sr := compareSr s.sr z (s.getD dc) v }

/-- `s` with both compare registers loaded, the second one first. -/
def State.loaded (s : State) (z : Size) (dc1 dc2 : BitVec 3) (v1 v2 : Long) : State := (s.setDz z dc2 v2).setDz z dc1 v1

theorem compareSwap2_eq (h : Flat s) {z : Size} {r1 r2 : BitVec 4} {v1 v2 : Long} (hv1 : s.valueAt (s.getR r1) z.bytes = v1)
    (hv2 : s.valueAt (s.getR r2) z.bytes = v2) (du1 dc1 du2 dc2 : BitVec 3) :
    compareSwap2 z r1 du1 dc1 r2 du2 dc2 s =
      if unsignedAt z v1 = unsignedAt z (s.getD dc1) then
        if unsignedAt z v2 = unsignedAt z (s.getD dc2) then
          nextWith s (s.compared z dc2 v2) 3 [(s.compared z dc2 v2).lockedWrite (s.getR r1) z.bytes (s.getD du1),
            (s.compared z dc2 v2).lockedWrite (s.getR r2) z.bytes (s.getD du2)]
        else nextWith s ((s.compared z dc2 v2).loaded z dc1 dc2 v1 v2) 3
          [(s.compared z dc2 v2).lockedWrite (s.getR r2) z.bytes v2]
      else nextWith s ((s.compared z dc1 v1).loaded z dc1 dc2 v1 v2) 3
        [(s.compared z dc1 v1).lockedWrite (s.getR r2) z.bytes v2] := by
  have hread : (s.beginLocked [(s.getR r1, z.bytes), (s.getR r2, z.bytes)]).bind (fun _ s2 =>
      (s2.readLocked (s.getR r1) z.bytes).bind fun d1 s3 =>
        (s3.readLocked (s.getR r2) z.bytes).bind fun d2 s4 => .ok (d1, d2) s4) = .ok (v1, v2) s := by
    rw [h.beginLocked, Res.bind_ok, h.readLocked, Res.bind_ok, h.readLocked, Res.bind_ok, ← hv1, ← hv2]
    rfl
  rw [compareSwap2, hread, orAbort_ok]
  simp only [isZero_subN, setCompare_sub, decide_eq_true_eq]
  rfl

theorem loaded_stores (h : Ready s) {dc : BitVec 3} {v v1 v2 : Long} (hexec : exec i s =
    nextWith s ((s.compared z dc v).loaded z dc1 dc2 v1 v2) 3 [(s.compared z dc v).lockedWrite x z.bytes v2]) :
    StoresAndReaches i s ((s.compared z dc v).loaded z dc1 dc2 v1 v2) (s.after 3) x z.bytes v2 :=
  storesAndReaches_of_locked h ((size_bytes_le z).trans (by decide)) (h.flat.of_eq rfl rfl rfl) rfl hexec

/-- Both operands are replaced. -/
theorem swap2_stores (h : Ready s) {dc : BitVec 3} {v x1 x2 v1 v2 : Long} (hexec : exec i s =
    nextWith s (s.compared z dc v) 3 [(s.compared z dc v).lockedWrite x1 z.bytes v1,
      (s.compared z dc v).lockedWrite x2 z.bytes v2]) :
    ∃ t, exec i s = .next t ∧
      CompletesAs { s.compared z dc v with mem := { s.mem with
        ram := putBytes (putBytes s.mem.ram 0 x1 (toBytes v1 z.bytes)) 0 x2 (toBytes v2 z.bytes) } } (s.after 3) t ∧
      ∀ b, ¬ inRange x1 z.bytes b → ¬ inRange x2 z.bytes b → t.byteAt b = s.byteAt b := by
  obtain ⟨t, hnext, hdone⟩ := nextWith_flat h (s := s.compared z dc v) (h.flat.of_eq rfl rfl rfl) 3
    (List.forall_mem_cons.2 ⟨lockedWrite_tt _ x1 z.bytes v1, List.forall_mem_singleton.2 (lockedWrite_tt _ x2 z.bytes v2)⟩)
  refine ⟨t, hexec.trans hnext, hdone, fun b hb1 hb2 => ?_⟩
  have hfirst := putBytes_same (s := s) (t := s.stored (putBytes s.mem.ram 0 x1 (toBytes v1 z.bytes)) []) (n := z.bytes)
    (toBytes_length _ _) rfl b hb1
  exact (putBytes_same (s := s.stored (putBytes s.mem.ram 0 x1 (toBytes v1 z.bytes)) []) (toBytes_length _ _) hdone.ram b
    hb2).trans hfirst

end cas2

/-- Settles O43: the flags of `compareSr` decide which value is written. -/
theorem compareAndSwap : Obligations.CompareAndSwap := by
  unfold Obligations.CompareAndSwap
  intro s n du dc du1 dc1 du2 dc2 r1 r2 ea h
  refine ⟨tas_register h n, fun hw => ?_, fun p hp hw => ?_, fun p hp => ?_⟩
  · obtain ⟨x, a, he⟩ := memAlt_evaluates h.flat hw 1 1
    exact ⟨x, a, he, tas_memory h he⟩
  · obtain ⟨x, a, he⟩ := memAlt_evaluates h.flat hw p.2.bytes 2
    refine ⟨x, a, he, ?_⟩
    simp only [List.mem_cons, List.not_mem_nil, or_false] at hp
    rcases hp with rfl | rfl | rfl <;> exact compareSwap_stores h rfl he
  · have hexec : exec p.1 s = compareSwap2 p.2 r1 du1 dc1 r2 du2 dc2 s := by
      simp only [List.mem_cons, List.not_mem_nil, or_false] at hp
      rcases hp with rfl | rfl <;> rfl
    have hexec := hexec.trans (compareSwap2_eq h.flat rfl rfl du1 dc1 du2 dc2)
    refine ⟨fun h1 h2 => swap2_stores h (hexec.trans ((if_pos h1).trans (if_pos h2))),
      fun h1 h2 => loaded_stores h (hexec.trans ((if_pos h1).trans (if_neg h2))),
      fun h1 => loaded_stores h (hexec.trans (if_neg h1))⟩

end Sys2Proof.Machine
end

section
/-! PROOFS. Maintenance of the address translation caches and of the caches: PFLUSH, CINV and CPUSH
(49_mmu_cache_multiprocessor R1032 to R1045; 21_mmu R260; 22_caches_bus R342, R343). -/

namespace Sys2Proof.Machine

variable {s : State} {i : Instr}

/-! ### Instructions that change the memory system only -/

theorem memOnly_leaves (hs : s.super = true) (he : s.pc.getLsbD 0 = false) {m : MemSys} (hexec : exec i s = memOnly s m)
    (hram : m.ram = s.mem.ram) : Leaves i s 1 { s with mem := m } :=
  leaves_of_next_even he (hexec.trans (ifSupervisor_runs hs _)) hram

/-! ### PFLUSH -/

theorem mem_flushed {α : Type} {l : List α} {q : α → Bool} {p : α → Prop} (h : ∀ x, q x = true ↔ p x) (x : α) :
    x ∈ l.filter (fun x => !q x) ↔ x ∈ l ∧ ¬ p x := by
  rw [List.mem_filter, ← h, Bool.not_eq_true', Bool.not_eq_true]

/-- The entries that PFLUSH selects: those of the page, for the privilege. -/
theorem flushHit_iff (c : Control) (la : Long) (fc2 : Bool) (x : Nat × AtcEntry) :
    (x.1 / 4 == atcSet c la && x.2.matches c la fc2) = true ↔ x.2.fc2 = fc2 ∧
      if c.tc.getLsbD 14 then x.1 / 4 = (la.extractLsb' 13 4).toNat ∧ x.2.la.extractLsb' 1 15 = la.extractLsb' 17 15
      else x.1 / 4 = (la.extractLsb' 12 4).toNat ∧ x.2.la = la.extractLsb' 16 16 := by
  rw [atcSet, AtcEntry.matches, Control.eightK]
  cases c.tc.getLsbD 14 <;> simp only [Bool.false_eq_true, if_true, if_false, Bool.and_eq_true, beq_iff_eq] <;> tauto

/-- Settles O45: both caches are filtered by `flushHit_iff`, by G, or emptied. -/
theorem pflushRemovesEntries : Obligations.PflushRemovesEntries := by
  unfold Obligations.PflushRemovesEntries
  intro s an hs he _ la hit p hp
  have hhit : ∀ x : Nat × AtcEntry, (x.1 / 4 == atcSet s.ctl la && x.2.matches s.ctl la (s.ctl.dfc.getLsbD 2) && !(false && x.2.g))
      = true ↔ hit x := fun x => by
    rw [Bool.false_and, Bool.not_false, Bool.and_true]
    exact flushHit_iff s.ctl la (s.ctl.dfc.getLsbD 2) x
  have hlocal : ∀ x : Nat × AtcEntry, (x.1 / 4 == atcSet s.ctl la && x.2.matches s.ctl la (s.ctl.dfc.getLsbD 2) && !(true && x.2.g))
      = true ↔ hit x ∧ x.2.g = false := fun x => by
    rw [Bool.true_and, Bool.and_eq_true, Bool.not_eq_true']
    exact and_congr_left' (flushHit_iff s.ctl la (s.ctl.dfc.getLsbD 2) x)
  have hglobal : ∀ l : List (Nat × AtcEntry), ∀ x, x ∈ l.filter (·.2.g) ↔ x ∈ l ∧ ¬ x.2.g = false := fun l x => by
    rw [List.mem_filter, Bool.not_eq_false]
  simp only [List.mem_cons, List.not_mem_nil, or_false] at hp
  rcases hp with rfl | rfl | rfl | rfl
  · exact ⟨[], [], memOnly_leaves hs he rfl rfl, fun x => by simp, fun x => by simp⟩
  · exact ⟨_, _, memOnly_leaves hs he rfl rfl, hglobal _, hglobal _⟩
  · exact ⟨_, _, memOnly_leaves hs he rfl rfl, mem_flushed hhit, mem_flushed hhit⟩
  · exact ⟨_, _, memOnly_leaves hs he rfl rfl, mem_flushed hlocal, mem_flushed hlocal⟩

/-! ### CINV -/

/-- The lines that CINV and CPUSH select lie where `p` says. -/
def Scope.SelectsBy (sc : Scope) (p : Long → Bool) : Prop := ∀ (k : Nat) (x : CacheLine), sc.selects k x = p (x.addr k)

theorem CacheLine.addr_aligned (x : CacheLine) (k : Nat) : x.addr k &&& 0xFFFFFFF0 = x.addr k := by
  refine BitVec.eq_of_getLsbD_eq fun j hj => ?_
  rw [BitVec.getLsbD_and]
  have hmask : ∀ j < 32, (0xFFFFFFF0 : Long).getLsbD j = decide (4 ≤ j) := by decide
  rw [hmask j hj, CacheLine.addr, BitVec.getLsbD_append]
  by_cases h4 : j < 4 <;> simp [h4]
  omega

theorem selectsBy_line (pa : Long) : (Scope.line pa).SelectsBy fun x => x &&& 0xFFFFFFF0 == pa &&& 0xFFFFFFF0 := fun k x => by
  show (x.addr k == lineBase pa) = (x.addr k &&& 0xFFFFFFF0 == lineBase pa)
  rw [x.addr_aligned k]

/-- Two addresses have the same bits from `n` on if they agree under the mask of these bits. -/
theorem high_bits_beq {n : Nat} {mask : Long} (hmask : ∀ j < 32, mask.getLsbD j = decide (n ≤ j)) (x y : Long) :
    (x.extractLsb' n (32 - n) == y.extractLsb' n (32 - n)) = (x &&& mask == y &&& mask) := by
  rw [Bool.eq_iff_iff, beq_iff_eq, beq_iff_eq]
  constructor
  · intro h
    refine BitVec.eq_of_getLsbD_eq fun j hj => ?_
    rw [BitVec.getLsbD_and, BitVec.getLsbD_and, hmask j hj]
    by_cases hn : n ≤ j
    · have hbit := congrArg (·.getLsbD (j - n)) h
      simp only [BitVec.getLsbD_extractLsb', Nat.add_sub_cancel' hn] at hbit
      simpa [show j - n < 32 - n by omega, hn] using hbit
    · simp [hn]
  · intro h
    refine BitVec.eq_of_getLsbD_eq fun j hj => ?_
    have hbit := congrArg (·.getLsbD (n + j)) h
    simp only [BitVec.getLsbD_and, hmask (n + j) (by omega)] at hbit
    simpa [BitVec.getLsbD_extractLsb', hj] using hbit

theorem selectsBy_page (s : State) (an : BitVec 3) :
    let page : Long := if s.ctl.tc.getLsbD 14 then 0xFFFFE000 else 0xFFFFF000
    (pageScope s an).SelectsBy fun x => x &&& page == s.getA an &&& page := by
  intro page k x
  have h13 : ∀ j < 32, (0xFFFFE000 : Long).getLsbD j = decide (13 ≤ j) := by decide
  have h12 : ∀ j < 32, (0xFFFFF000 : Long).getLsbD j = decide (12 ≤ j) := by decide
  simp only [page, pageScope, Scope.selects, Scope.covers, Control.eightK]
  split
  · exact high_bits_beq h13 _ _
  · exact high_bits_beq h12 _ _

theorem selectsBy_all : Scope.all.SelectsBy fun _ => true := fun _ _ => rfl

/-- The lines that stay are those not selected. -/
theorem mem_invalidate {sc : Scope} {p : Long → Bool} (h : sc.SelectsBy p) (l : List (Nat × CacheLine)) (x : Nat × CacheLine) :
    x ∈ invalidate sc l ↔ x ∈ l ∧ ¬ p (x.2.addr x.1) = true := by
  have hfilter : x ∈ l.filter (fun x => !sc.selects x.1 x.2) ↔ x ∈ l ∧ ¬ p (x.2.addr x.1) = true := by
    rw [List.mem_filter, h, Bool.not_eq_true', Bool.not_eq_true]
  cases sc with
  | all =>
    have hp : p (x.2.addr x.1) = true := (h x.1 x.2).symm
    simp [invalidate, hp]
  | line pa => exact hfilter
  | page pa e => exact hfilter

/-- CINV changes the two caches, and which stored instruction words may still be fetched as they were. -/
theorem cinv_eq (m : MemSys) (c : BitVec 2) (sc : Scope) : ∃ p, cinv m c sc = { m with
    dcache := if c.getLsbD 0 then invalidate sc m.dcache else m.dcache
    icache := if c.getLsbD 1 then invalidate sc m.icache else m.icache
    stale := p } := by
  unfold cinv
  cases c.getLsbD 1 with
  | true => exact ⟨_, rfl⟩
  | false => exact ⟨m.stale, rfl⟩

theorem mem_cache_selected {sc : Scope} {p : Long → Bool} (h : sc.SelectsBy p) (b : Bool) (l : List (Nat × CacheLine))
    (x : Nat × CacheLine) :
    x ∈ (if b then invalidate sc l else l) ↔ x ∈ l ∧ ¬ (b = true ∧ p (x.2.addr x.1) = true) := by
  cases b
  · simp
  · rw [if_pos rfl, mem_invalidate h]
    simp

theorem cinv_leaves (hs : s.super = true) (he : s.pc.getLsbD 0 = false) {c : BitVec 2} {sc : Scope} {p : Long → Bool}
    (h : sc.SelectsBy p) (hexec : exec i s = memOnly s (cinv s.mem c sc)) :
    ∃ dc ic, Leaves i s 1 { s with mem := { s.mem with dcache := dc, icache := ic } } ∧
      (∀ x, x ∈ dc ↔ x ∈ s.mem.dcache ∧ ¬ (c.getLsbD 0 = true ∧ p (x.2.addr x.1) = true)) ∧
      (∀ x, x ∈ ic ↔ x ∈ s.mem.icache ∧ ¬ (c.getLsbD 1 = true ∧ p (x.2.addr x.1) = true)) := by
  obtain ⟨q, hq⟩ := cinv_eq s.mem c sc
  rw [hq] at hexec
  exact ⟨_, _, (memOnly_leaves hs he hexec rfl).of_near ⟨q, s.mem.draws, rfl⟩, mem_cache_selected h _ _, mem_cache_selected h _ _⟩

end Sys2Proof.Machine
end

section
/-! PROOFS. CPUSH on a quiet bus: the selected lines leave the data cache one by one, and their dirty long words reach memory
(49_mmu_cache_multiprocessor R1043 to R1045; 22_caches_bus R342, R343). -/

namespace Sys2Proof.Machine

variable {s : State} {i : Instr} {m : MemSys} {l : List (Nat × CacheLine)}

/-! ### What pushes leave in memory -/

/-- Physical memory after pushes of lines, made in order. -/
def ramPushes (ram : List Host.Cell) (l : List (Nat × CacheLine)) : List Host.Cell :=
  l.foldl (fun r x => ramPushed r x.1 x.2 false) ram

/-- The long words of a line. -/
def CacheLine.longAt (x : CacheLine) (k : Nat) : Long := x.data.extractLsb' (32 * (3 - k)) 32

/-- A part of a part of a value. -/
theorem extractLsb'_within {w n k j r : Nat} (v : BitVec w) (h : k + r ≤ n) :
    (v.extractLsb' j n).extractLsb' k r = v.extractLsb' (j + k) r :=
  BitVec.eq_of_getLsbD_eq fun i hi => by
    simp only [BitVec.getLsbD_extractLsb', hi, show k + i < n by omega, decide_true, Bool.true_and, Nat.add_assoc]

theorem bytesOfLine_longs (v : BitVec 128) : bytesOfLine v 16 =
    toBytes (v.extractLsb' 96 32) 4 ++ toBytes (v.extractLsb' 64 32) 4 ++ toBytes (v.extractLsb' 32 32) 4 ++
      toBytes (v.extractLsb' 0 32) 4 := by
  simp [bytesOfLine, toBytes, extractLsb'_within]

/-- Long word `k` of a line moved to its front is the line's first. -/
theorem bytesOfLine_shifted (v : BitVec 128) {k : Nat} (hk : k < 4) :
    (bytesOfLine (v <<< (32 * k)) 16).take 4 = toBytes (v.extractLsb' (32 * (3 - k)) 32) 4 := by
  have hlong : (v <<< (32 * k)).extractLsb' 96 32 = v.extractLsb' (32 * (3 - k)) 32 := by
    refine BitVec.eq_of_getLsbD_eq fun j hj => ?_
    simp only [BitVec.getLsbD_extractLsb', BitVec.getLsbD_shiftLeft, hj, show 96 + j < 128 by omega,
      show ¬ 96 + j < 32 * k by omega, decide_true, decide_false, Bool.not_false, Bool.true_and]
    rw [show 96 + j - 32 * k = 32 * (3 - k) + j by omega]
  rw [bytesOfLine_longs, hlong, List.append_assoc, List.append_assoc]
  exact List.take_left' (toBytes_length _ _)

/-- A push writes the one long word that is dirty, or the line. -/
theorem pushOf_cases (n : Nat) (x : CacheLine) :
    (∃ k < 4, x.dirty = BitVec.twoPow 4 k ∧ (pushOf n x false).addr = x.addr n + BitVec.ofNat 32 (4 * k) ∧
      (pushOf n x false).bytes = toBytes (x.longAt k) 4) ∨
    ((pushOf n x false).addr = x.addr n ∧ (pushOf n x false).bytes = bytesOfLine x.data 16) := by
  have hone : ∀ k < 4, ∀ a, (⟨a, false, false, x.data <<< (32 * k)⟩ : PushFault).bytes = toBytes (x.longAt k) 4 :=
    fun k hk a => bytesOfLine_shifted x.data hk
  unfold pushOf
  split
  case isTrue h => exact .inl ⟨0, by decide, h, rfl, hone 0 (by decide) _⟩
  split
  case isTrue h => exact .inl ⟨1, by decide, h, rfl, hone 1 (by decide) _⟩
  split
  case isTrue h => exact .inl ⟨2, by decide, h, rfl, hone 2 (by decide) _⟩
  split
  case isTrue h => exact .inl ⟨3, by decide, h, rfl, hone 3 (by decide) _⟩
  exact .inr ⟨rfl, rfl⟩

/-- Four bytes of a line lie in the line. -/
theorem inRange_of_long {a b : Long} {k : Nat} (hk : k < 4) (h : inRange (a + BitVec.ofNat 32 (4 * k)) 4 b) : inRange a 16 b := by
  unfold inRange at *
  have hsub : b - a = (b - (a + BitVec.ofNat 32 (4 * k))) + BitVec.ofNat 32 (4 * k) := by bv_omega
  rw [hsub, BitVec.toNat_add, BitVec.toNat_ofNat]
  omega

theorem ramPushed_byte (ram : List Host.Cell) (n : Nat) (x : CacheLine) {b : Long}
    (h : x.dirty ≠ 0 → ¬ inRange (x.addr n) 16 b) :
    cellGet (ramPushed ram n x false) b.toNat = cellGet ram b.toNat := by
  unfold ramPushed
  split
  · rfl
  case isFalse hd =>
    have hout : ¬ inRange (pushOf n x false).addr (pushOf n x false).bytes.length b := by
      rcases pushOf_cases n x with ⟨k, hk, -, haddr, hbytes⟩ | ⟨haddr, hbytes⟩
      · rw [haddr, hbytes, toBytes_length]
        exact fun hin => h hd (inRange_of_long hk hin)
      · rw [haddr, hbytes, bytesOfLine_length]
        exact h hd
    simpa using cellGet_putBytes_of_not_inRange (base := 0) (l := ram) hout

/-- Bytes outside the dirty lines stay. -/
theorem ramPushes_byte {b : Long} (ram : List Host.Cell)
    (h : ∀ x ∈ l, x.2.dirty ≠ 0 → ¬ inRange (x.2.addr x.1) 16 b) :
    cellGet (ramPushes ram l) b.toNat = cellGet ram b.toNat := by
  induction l generalizing ram with
  | nil => rfl
  | cons x l ih =>
    rw [ramPushes, List.foldl_cons]
    exact (ih _ fun y hy => h y (List.mem_cons_of_mem x hy)).trans (ramPushed_byte ram x.1 x.2 (h x List.mem_cons_self))

theorem ramPushed_wf {ram : List Host.Cell} (h : cellsWf ram = true) (n : Nat) (x : CacheLine) :
    cellsWf (ramPushed ram n x false) = true := by
  unfold ramPushed
  split
  · exact h
  · exact putBytes_wf h

/-- The dirty long words of a line that is pushed reach memory. -/
theorem ramPushed_long {ram : List Host.Cell} (hw : cellsWf ram = true) (n : Nat) (x : CacheLine) {k : Nat} (hk : k < 4)
    (hd : x.dirty.getLsbD k = true) :
    getBytes (ramPushed ram n x false) 0 (x.addr n + BitVec.ofNat 32 (4 * k)) 4 = toBytes (x.longAt k) 4 := by
  have hne : x.dirty ≠ 0 := fun h0 => by simp [h0] at hd
  rw [ramPushed, if_neg hne]
  rcases pushOf_cases n x with ⟨j, hj, hdirty, haddr, hbytes⟩ | ⟨haddr, hbytes⟩
  · obtain rfl : k = j := by
      rw [hdirty, BitVec.getLsbD_twoPow, Bool.and_eq_true, decide_eq_true_eq, decide_eq_true_eq] at hd
      exact hd.2.symm
    have hback := getBytes_putBytes (base := 0) (bs := toBytes (x.longAt k) 4) (a := x.addr n + BitVec.ofNat 32 (4 * k)) hw
      (by simp)
    rw [toBytes_length] at hback
    rw [haddr, hbytes, hback]
  · have hback := getBytes_putBytes (base := 0) (bs := bytesOfLine x.data 16) (a := x.addr n) hw (by simp)
    rw [bytesOfLine_length] at hback
    rw [haddr, hbytes, ← getBytes_drop_take _ 0 _ (show 4 * k + 4 ≤ 16 by omega), hback, bytesOfLine_longs]
    interval_cases k <;> rfl

theorem CacheLine.addr_mod (x : CacheLine) (k : Nat) : (x.addr k).toNat % 16 = 0 := by
  have hlow : (x.addr k).extractLsb' 0 4 = 0#4 := BitVec.eq_of_getLsbD_eq fun j hj => by
    rw [CacheLine.addr, BitVec.getLsbD_extractLsb', BitVec.getLsbD_append]
    simp [hj]
  have hnat := congrArg BitVec.toNat hlow
  rwa [BitVec.extractLsb'_toNat, Nat.shiftRight_zero] at hnat

/-- Different lines have no byte in common. -/
theorem line_not_inRange {a b c : Long} (ha : a.toNat % 16 = 0) (hb : b.toNat % 16 = 0) (hne : a ≠ b) (h : inRange a 16 c) :
    ¬ inRange b 16 c := by
  unfold inRange at *
  rw [BitVec.toNat_sub] at *
  have hne : a.toNat ≠ b.toNat := fun he => hne (BitVec.eq_of_toNat_eq he)
  have := a.isLt
  have := b.isLt
  have := c.isLt
  omega

/-- Where no two lines are for one address, each dirty long word of each line reaches memory. -/
theorem ramPushes_long {ram : List Host.Cell} (hw : cellsWf ram = true)
    (hdistinct : l.Pairwise fun x y => x.2.addr x.1 ≠ y.2.addr y.1) {x : Nat × CacheLine} (hx : x ∈ l) {k : Nat} (hk : k < 4)
    (hd : x.2.dirty.getLsbD k = true) :
    getBytes (ramPushes ram l) 0 (x.2.addr x.1 + BitVec.ofNat 32 (4 * k)) 4 = toBytes (x.2.longAt k) 4 := by
  induction l generalizing ram with
  | nil => exact absurd hx List.not_mem_nil
  | cons y l ih =>
    obtain ⟨hy, hrest⟩ := List.pairwise_cons.1 hdistinct
    have hpushed := ramPushed_wf hw y.1 y.2
    rcases List.mem_cons.1 hx with rfl | hx
    · rw [← ramPushed_long hw x.1 x.2 hk hd]
      refine getBytes_congr (fun b hb => ?_) (by decide)
      have hline : inRange (x.2.addr x.1) 16 b := inRange_of_long hk hb
      rw [Nat.zero_add, ramPushes, List.foldl_cons]
      exact ramPushes_byte (ramPushed ram x.1 x.2 false) fun z hz _ =>
        line_not_inRange (x.2.addr_mod x.1) (z.2.addr_mod z.1) (hy z hz) hline
    · exact ih hpushed hrest hx

/-! ### The selected lines are pushed -/

theorem tabGet_of_mem {α : Type} {l : List (Nat × α)} (h : (l.map (·.1)).Nodup) {x : Nat × α} (hx : x ∈ l) :
    tabGet l x.1 = some x.2 := by
  induction l with
  | nil => exact absurd hx List.not_mem_nil
  | cons y l ih =>
    obtain ⟨hy, hrest⟩ := List.nodup_cons.1 h
    rcases List.mem_cons.1 hx with rfl | hx
    · exact if_pos rfl
    · have hne : x.1 ≠ y.1 := fun he => hy (List.mem_map.2 ⟨x, hx, he⟩)
      rw [tabGet, if_neg hne, ih hrest hx]

theorem mem_tabDel_iff {α : Type} {l : List (Nat × α)} {k : Nat} {x : Nat × α} : x ∈ tabDel l k ↔ x ∈ l ∧ x.1 ≠ k := by
  rw [tabDel, List.mem_filter, decide_eq_true_eq]

theorem tabDel_nodup {α : Type} {l : List (Nat × α)} (h : (l.map (·.1)).Nodup) (k : Nat) : ((tabDel l k).map (·.1)).Nodup :=
  h.sublist (List.filter_sublist.map _)

/-- The lines of `l` that are selected are pushed in turn and leave the cache. -/
theorem pushSelected_quiet (sc : Scope) : ∀ (l : List (Nat × CacheLine)) {m : MemSys}, m.quiet = true →
    (m.dcache.map (·.1)).Nodup → (l.map (·.1)).Nodup → (∀ x ∈ l, x ∈ m.dcache) →
    ∃ dc p, pushSelected sc (l.map (·.1)) m = .ok () { m with
        ram := ramPushes m.ram (l.filter fun x => sc.selects x.1 x.2), dcache := dc, stale := p } ∧
      ∀ x, x ∈ dc ↔ x ∈ m.dcache ∧ ¬ (x ∈ l ∧ sc.selects x.1 x.2 = true)
  | [], m, _, _, _, _ => ⟨m.dcache, m.stale, rfl, fun x => by simp⟩
  | y :: l, m, hq, hkeys, hl, hsub => by
    obtain ⟨hy, hrest⟩ := List.nodup_cons.1 hl
    have hget : tabGet m.dcache y.1 = some y.2 := tabGet_of_mem hkeys (hsub y List.mem_cons_self)
    rw [List.map_cons, pushSelected, hget]
    by_cases hsel : sc.selects y.1 y.2 = true
    · rw [Option.filter_some, if_pos hsel, List.filter_cons_of_pos (p := fun x : Nat × CacheLine => sc.selects x.1 x.2) hsel]
      obtain ⟨m', hpush, q, rfl⟩ := pushLine_quiet (m := { m with dcache := tabDel m.dcache y.1 }) hq y.1 y.2 false
      have hstays : ∀ x ∈ l, x ∈ tabDel m.dcache y.1 := fun x hx => mem_tabDel_iff.2
        ⟨hsub x (List.mem_cons_of_mem y hx), fun he => hy (List.mem_map.2 ⟨x, hx, he⟩)⟩
      obtain ⟨dc, p, hlater, hdc⟩ := pushSelected_quiet sc l (m := { m with
        ram := ramPushed m.ram y.1 y.2 false, dcache := tabDel m.dcache y.1, stale := q }) hq (tabDel_nodup hkeys y.1) hrest hstays
      refine ⟨dc, p, ?_, fun x => ?_⟩
      · simp only [hpush, PRes.bind]
        exact hlater
      · have hone : x ∈ m.dcache → (x.1 = y.1 ↔ x = y) := fun hx => ⟨fun he => by
          have := tabGet_of_mem hkeys hx
          rw [he, hget] at this
          exact Prod.ext he (Option.some.inj this).symm, fun he => he ▸ rfl⟩
        rw [hdc, mem_tabDel_iff, List.mem_cons]
        by_cases hx : x = y
        · subst hx
          simp [hsel]
        · tauto
    · rw [Option.filter_some, if_neg hsel, List.filter_cons_of_neg (p := fun x : Nat × CacheLine => sc.selects x.1 x.2) hsel]
      obtain ⟨dc, p, hlater, hdc⟩ := pushSelected_quiet sc l hq hkeys hrest fun x hx => hsub x (List.mem_cons_of_mem y hx)
      refine ⟨dc, p, hlater, fun x => ?_⟩
      rw [hdc, List.mem_cons]
      by_cases hx : x = y
      · subst hx
        simp [hsel]
      · tauto

/-! ### CPUSH (R1043 to R1045) -/

/-- Physical memory after CPUSH: the selected lines of the data cache have been pushed, if that is selected. -/
def ramCpushed (m : MemSys) (c : BitVec 2) (sc : Scope) : List Host.Cell :=
  if c.getLsbD 0 then ramPushes m.ram (m.dcache.filter fun x => sc.selects x.1 x.2) else m.ram

theorem pushSelected_cinv (hq : m.quiet = true) (hkeys : (m.dcache.map (·.1)).Nodup) {c : BitVec 2} {sc : Scope} {p : Long → Bool}
    (h : sc.SelectsBy p) :
    ∃ m' dc ic q, (if c.getLsbD 0 then pushSelected sc (m.dcache.map (·.1)) m else .ok () m) = .ok () m' ∧
      cinv m' c sc = { m with ram := ramCpushed m c sc, dcache := dc, icache := ic, stale := q } ∧
      (∀ x, x ∈ dc ↔ x ∈ m.dcache ∧ ¬ (c.getLsbD 0 = true ∧ p (x.2.addr x.1) = true)) ∧
      (∀ x, x ∈ ic ↔ x ∈ m.icache ∧ ¬ (c.getLsbD 1 = true ∧ p (x.2.addr x.1) = true)) := by
  unfold ramCpushed
  cases hc : c.getLsbD 0 with
  | false =>
    obtain ⟨q, hcinv⟩ := cinv_eq m c sc
    exact ⟨m, _, _, q, rfl, hcinv, hc ▸ mem_cache_selected h _ _, mem_cache_selected h _ _⟩
  | true =>
    obtain ⟨dc, q, hpush, hdc⟩ := pushSelected_quiet sc m.dcache hq hkeys hkeys fun _ hx => hx
    obtain ⟨q', hcinv⟩ := cinv_eq { m with
      ram := ramPushes m.ram (m.dcache.filter fun x => sc.selects x.1 x.2), dcache := dc, stale := q } c sc
    refine ⟨_, _, _, q', hpush, hcinv, fun x => ?_, mem_cache_selected h _ _⟩
    rw [mem_cache_selected h, hdc, hc, h]
    tauto

theorem ramCpushed_byte {c : BitVec 2} {sc : Scope} {p : Long → Bool} (h : sc.SelectsBy p) {b : Long}
    (hout : ∀ x ∈ m.dcache, p (x.2.addr x.1) = true → x.2.dirty ≠ 0 → ¬ inRange (x.2.addr x.1) 16 b) :
    cellGet (ramCpushed m c sc) b.toNat = cellGet m.ram b.toNat := by
  unfold ramCpushed
  split
  · refine ramPushes_byte _ fun x hx => ?_
    obtain ⟨hmem, hsel⟩ := List.mem_filter.1 hx
    exact hout x hmem (h x.1 x.2 ▸ hsel)
  · rfl

theorem ofBytes_toBytes_four (v : Long) : ofBytes (toBytes v 4) = v := by
  refine BitVec.eq_of_getLsbD_eq fun j hj => ?_
  simp only [toBytes, ofBytes, List.foldl_cons, List.foldl_nil]
  interval_cases j <;> simp

theorem ramCpushed_long {c : BitVec 2} {sc : Scope} {p : Long → Bool} (h : sc.SelectsBy p) (hw : cellsWf m.ram = true)
    (hkeys : (m.dcache.map (·.1)).Nodup) (hdistinct : ∀ x ∈ m.dcache, ∀ y ∈ m.dcache, x.2.addr x.1 = y.2.addr y.1 → x = y)
    (hc : c.getLsbD 0 = true) {x : Nat × CacheLine} (hx : x ∈ m.dcache) (hp : p (x.2.addr x.1) = true) {k : Nat} (hk : k < 4)
    (hd : x.2.dirty.getLsbD k = true) :
    ofBytes (getBytes (ramCpushed m c sc) 0 (x.2.addr x.1 + BitVec.ofNat 32 (4 * k)) 4) = x.2.longAt k := by
  have hpairs : m.dcache.Pairwise fun x y => x.2.addr x.1 ≠ y.2.addr y.1 :=
    List.Pairwise.imp_of_mem (fun hx hy hne heq => hne (hdistinct _ hx _ hy heq)) hkeys.of_map
  have hmem : x ∈ m.dcache.filter fun x => sc.selects x.1 x.2 := List.mem_filter.2 ⟨hx, (h x.1 x.2).trans hp⟩
  rw [ramCpushed, if_pos hc, ramPushes_long hw (hpairs.sublist List.filter_sublist) hmem hk hd, ofBytes_toBytes_four]

/-- CPUSH of a scope that selects the lines whose address satisfies `p`. -/
theorem cpush_completes (hs : s.super = true) (he : s.pc.getLsbD 0 = false) (hq : s.mem.quiet = true)
    (hkeys : (s.mem.dcache.map (·.1)).Nodup) {c : BitVec 2} {sc : Scope} {p : Long → Bool} (h : sc.SelectsBy p)
    (hexec : exec i s = cpush c sc s) :
    ∃ t, exec i s = .next t ∧ t.mem.ram = ramCpushed s.mem c sc ∧
      CompletesAs { s with mem := { s.mem with ram := t.mem.ram, dcache := t.mem.dcache, icache := t.mem.icache } }
        (s.after 1) t ∧
      (∀ x, x ∈ t.mem.dcache ↔ x ∈ s.mem.dcache ∧ ¬ (c.getLsbD 0 = true ∧ p (x.2.addr x.1) = true)) ∧
      (∀ x, x ∈ t.mem.icache ↔ x ∈ s.mem.icache ∧ ¬ (c.getLsbD 1 = true ∧ p (x.2.addr x.1) = true)) := by
  obtain ⟨m', dc, ic, q, hpush, hcinv, hdc, hic⟩ := pushSelected_cinv hq hkeys h
  obtain ⟨t, hnext, hdone⟩ : ∃ t, exec i s = .next t ∧ CompletesAs { s with mem := cinv m' c sc } (s.after 1) t := by
    rw [hexec, cpush, ifSupervisor_runs hs, hpush]
    exact ⟨_, next_eq _ _ _,
      endInstr_completes (s := { s with mem := cinv m' c sc, pc := s.after 1 }) s false (even_add s.pc 1 he)⟩
  rw [hcinv] at hdone
  obtain ⟨tr, p', k, pipe, hpipe, rfl⟩ := hdone
  exact ⟨_, hnext, rfl, ⟨tr, p', k, pipe, hpipe, rfl⟩, hdc, hic⟩

/-- What CPUSH of a scope that selects the lines whose address satisfies `p` does, to the caches and to memory. -/
theorem cpush_outcome (hs : s.super = true) (he : s.pc.getLsbD 0 = false) (hq : s.mem.quiet = true)
    (hkeys : (s.mem.dcache.map (·.1)).Nodup) {c : BitVec 2} {sc : Scope} {p : Long → Bool} (h : sc.SelectsBy p)
    (hexec : exec i s = cpush c sc s) :
    ∃ t, exec i s = .next t ∧
      CompletesAs { s with mem := { s.mem with ram := t.mem.ram, dcache := t.mem.dcache, icache := t.mem.icache } }
        (s.after 1) t ∧
      (∀ x, x ∈ t.mem.dcache ↔ x ∈ s.mem.dcache ∧ ¬ (c.getLsbD 0 = true ∧ p (x.2.addr x.1) = true)) ∧
      (∀ x, x ∈ t.mem.icache ↔ x ∈ s.mem.icache ∧ ¬ (c.getLsbD 1 = true ∧ p (x.2.addr x.1) = true)) ∧
      (c.getLsbD 0 = false → SameBytes s t) ∧
      (∀ b, (∀ x ∈ s.mem.dcache, p (x.2.addr x.1) = true → x.2.dirty ≠ 0 → ¬ inRange (x.2.addr x.1) 16 b) →
        t.byteAt b = s.byteAt b) ∧
      (Memory.wf s.mem → (∀ x ∈ s.mem.dcache, ∀ y ∈ s.mem.dcache, x.2.addr x.1 = y.2.addr y.1 → x = y) →
        c.getLsbD 0 = true → ∀ x ∈ s.mem.dcache, p (x.2.addr x.1) = true → ∀ k < 4, x.2.dirty.getLsbD k = true →
          t.valueAt (x.2.addr x.1 + BitVec.ofNat 32 (4 * k)) 4 = x.2.data.extractLsb' (32 * (3 - k)) 32) := by
  obtain ⟨t, hnext, hram, hdone, hdc, hic⟩ := cpush_completes hs he hq hkeys h hexec
  refine ⟨t, hnext, hdone, hdc, hic, fun hc => ?_, fun b hout => ?_, fun hw hdistinct hc x hx hp k hk hd => ?_⟩
  · exact sameBytes_of_ram (hram.trans (by rw [ramCpushed, hc]; rfl))
  · rw [State.byteAt, hram]
    exact ramCpushed_byte h hout
  · rw [State.valueAt, State.bytesAt, hram]
    exact ramCpushed_long h hw.1 hkeys hdistinct hc hx hp hk hd

/-- Settles O44, by the lines that each scope selects; CPUSH by induction over the lines it pushes. -/
theorem cacheMaintenance : Obligations.CacheMaintenance := by
  unfold Obligations.CacheMaintenance
  constructor
  · intro s c an hs he _ page p hp
    simp only [List.mem_cons, List.not_mem_nil, or_false] at hp
    obtain rfl | rfl | rfl := hp
    · exact cinv_leaves hs he (selectsBy_line _) rfl
    · exact cinv_leaves hs he (selectsBy_page _ _) rfl
    · exact cinv_leaves hs he selectsBy_all rfl
  · intro s c an hs he _ hq hkeys page p hp
    simp only [List.mem_cons, List.not_mem_nil, or_false] at hp
    obtain rfl | rfl | rfl := hp
    · exact cpush_outcome hs he hq hkeys (selectsBy_line _) rfl
    · exact cpush_outcome hs he hq hkeys (selectsBy_page _ _) rfl
    · exact cpush_outcome hs he hq hkeys selectsBy_all rfl

end Sys2Proof.Machine
end

section
/-! PROOFS. RTE: the frame on the stack says what is restored, continued or reported (48_system_control R981; 60_exceptions R1104,
R1128, R1145). -/

namespace Sys2Proof.Machine

variable {s u : State} {i : Instr} {k : Nat}

/-! ### The frame on the active stack -/

/-- The words of the frame on the active stack that RTE validates. -/
def State.frame (s : State) : FrameHead :=
  ⟨(s.valueAt (s.getA 7) 2).extractLsb' 0 16, s.valueAt (s.getA 7 + 2) 4, (s.valueAt (s.getA 7 + 6) 2).extractLsb' 0 16⟩

/-- Its format. -/
def State.format (s : State) : Nat := ((s.valueAt (s.getA 7 + 6) 2).extractLsb' 12 4).toNat

/-- The continuation bits of a format $7 frame. -/
def State.continuation (s : State) : Nat := ((s.valueAt (s.getA 7 + 12) 2).extractLsb' 12 4).toNat

theorem frame_format (s : State) : (s.frame.fw.extractLsb' 12 4).toNat = s.format :=
  congrArg BitVec.toNat (extractLsb'_within (s.valueAt (s.getA 7 + 6) 2) (by decide : 12 + 4 ≤ 16))

/-- A read of a frame in the flat configuration. -/
theorem Flat.readFrame (h : Flat s) (la : Long) (n : Nat) : s.readVia frameAccess la n = .ok (s.valueAt la n) s :=
  h.readVia (by decide) la n

theorem readHead_flat (h : Flat s) : readHead s = .ok s.frame s := by
  rw [readHead, h.readFrame, Res.bind_ok, h.readFrame, Res.bind_ok, h.readFrame, Res.bind_ok]
  rfl

theorem readContinuation_flat (h : Flat s) : readContinuation s =
    .ok (s.valueAt (s.getA 7 + 8) 4, (s.valueAt (s.getA 7 + 12) 2).extractLsb' 0 16) s := by
  rw [readContinuation, h.readFrame, Res.bind_ok, h.readFrame, Res.bind_ok]

/-! ### RTE of one frame -/

theorem rteFrames_zero (h : Flat u) (s0 : State) (hf : u.format = 0) :
    rteFrames (k + 1) s0 u = .next (endInstr s0 (leaveFrame u u.frame 8) true) := by
  simp only [rteFrames, readHead_flat h, frame_format, hf]

theorem rteFrames_throwaway (h : Flat u) (s0 : State) (hf : u.format = 1) :
    rteFrames (k + 1) s0 u = rteFrames k s0 ((u.setA 7 (u.getA 7 + 8)).setSr u.frame.sr) := by
  simp only [rteFrames, readHead_flat h, frame_format, hf]

theorem rteFrames_six_words (h : Flat u) (s0 : State) (hf : u.format = 2 ∨ u.format = 3) :
    rteFrames (k + 1) s0 u = .next (endInstr s0 (leaveFrame u u.frame 12) true) := by
  rcases hf with hf | hf <;> simp only [rteFrames, readHead_flat h, frame_format, hf]

theorem rteFrames_access (h : Flat u) (s0 : State) (hf : u.format = 7) : rteFrames (k + 1) s0 u = rteAccess s0 u u.frame := by
  simp only [rteFrames, readHead_flat h, frame_format, hf]

theorem rteFrames_unknown (h : Flat u) (s0 : State) (hf : u.format ∉ [0, 1, 2, 3, 7]) :
    rteFrames (k + 1) s0 u = ownTrap s0 u fun v => trap0 { s0 with mem := v.mem } 14 s0.pc := by
  simp only [List.mem_cons, List.not_mem_nil, or_false, not_or] at hf
  obtain ⟨h0, h1, h2, h3, h7⟩ := hf
  simp only [rteFrames, readHead_flat h, frame_format]

theorem ownTrap_flat (h : Flat u) (s0 : State) (take : State → State) : ownTrap s0 u take = .next (take u) := by
  rw [ownTrap, givesUp_of_none h.push, if_neg Bool.false_ne_true]

theorem ssw_continuation (s : State) :
    (((s.valueAt (s.getA 7 + 12) 2).extractLsb' 0 16).extractLsb' 12 4).toNat = s.continuation :=
  congrArg BitVec.toNat (extractLsb'_within (s.valueAt (s.getA 7 + 12) 2) (by decide : 12 + 4 ≤ 16))

theorem rteAccess_plain (h : Flat u) (s0 : State) (hb : u.continuation = 0) :
    rteAccess s0 u u.frame = .next (endInstr s0 (leaveFrame u u.frame 60) true) := by
  simp only [rteAccess, readContinuation_flat h, ssw_continuation, hb, endInstr]

theorem rteAccess_movem (h : Flat u) (s0 : State) (hb : u.continuation = 1) : rteAccess s0 u u.frame =
    .next (endInstrEa s0 (leaveFrame u u.frame 60) true (some (u.valueAt (u.getA 7 + 8) 4))) := by
  simp only [rteAccess, readContinuation_flat h, ssw_continuation, hb]

theorem rteAccess_trace (h : Flat u) (s0 : State) (hb : u.continuation = 2) :
    rteAccess s0 u u.frame = .next (continueAs u u.frame (u.valueAt (u.getA 7 + 8) 4) 9 2) := by
  simp only [rteAccess, readContinuation_flat h, ssw_continuation, hb, ownTrap_flat h]

theorem rteAccess_unimplemented (h : Flat u) (s0 : State) (hb : u.continuation = 4) :
    rteAccess s0 u u.frame = .next (continueAs u u.frame (u.valueAt (u.getA 7 + 8) 4) 11 2) := by
  simp only [rteAccess, readContinuation_flat h, ssw_continuation, hb, ownTrap_flat h]

theorem rteAccess_post (h : Flat u) (s0 : State) (hb : u.continuation = 8) : rteAccess s0 u u.frame =
    .next (continueAs (postVector u).2 u.frame (u.valueAt (u.getA 7 + 8) 4) (postVector u).1 3) := by
  simp only [rteAccess, readContinuation_flat h, ssw_continuation, hb, ownTrap_flat h]

theorem rteAccess_undefined (h : Flat u) (s0 : State) (hb : u.continuation ∉ [0, 1, 2, 4, 8]) :
    rteAccess s0 u u.frame = .refused .rteContinuation := by
  simp only [List.mem_cons, List.not_mem_nil, or_false, not_or] at hb
  obtain ⟨h0, h1, h2, h4, h8⟩ := hb
  simp only [rteAccess, readContinuation_flat h, ssw_continuation]

/-! ### RTE in supervisor state -/

/-- The bound is more than the frames of any case shown. -/
theorem rteBound_eq : ∃ k, rteBound = k + 1 + 1 := ⟨2 ^ 90 - 2, by norm_num [rteBound]⟩

theorem exec_rte (hs : s.super = true) : ∃ k, exec .rte s = rteFrames (k + 1 + 1) s s := by
  obtain ⟨k, hk⟩ := rteBound_eq
  exact ⟨k, (ifSupervisor_runs hs _).trans (by rw [hk])⟩

/-- The state that RTE leaves, before the pc, when it has left a frame of `n` bytes. -/
def State.unstacked (s : State) (n : Long) : State :=
  { s with sr := s.frame.sr &&& 0xF71F, a := s.a.set s.sr 7 (s.getA 7 + n) }

theorem leaveFrame_eq (s : State) (n : Long) : leaveFrame s s.frame n = { s.unstacked n with pc := s.frame.pc } := rfl

/-- An instruction that has left a frame with an even pc. -/
theorem goesTo_of_left {n : Long} (hexec : exec i s = .next (endInstr s (leaveFrame u u.frame n) true))
    (he : u.frame.pc.getLsbD 0 = false) (hram : u.mem.ram = s.mem.ram) : GoesTo i s u.frame.pc (u.unstacked n) := by
  have hdone := endInstr_completes (s := leaveFrame u u.frame n) s true he
  exact ⟨_, hexec, hdone, sameBytes_of_ram (hdone.ram.trans hram)⟩

/-- What an RTE leaves as MOVEM's address is all that it leaves more than another instruction. -/
theorem endInstrEa_even (s0 : State) (flow : Bool) (ea : Option Long) (he : s.pc.getLsbD 0 = false) :
    endInstrEa s0 s flow ea = { endInstr s0 s flow with movemEa := ea } := by
  have hpc : ((s0.settleTrace s flow).pc.getLsbD 0 && (s0.settleTrace s flow).mem.pushFaults.isEmpty) = false := by
    rw [show (s0.settleTrace s flow).pc = s.pc from rfl, he, Bool.false_and]
  simp only [endInstr, endInstrEa, hpc, Bool.false_eq_true, if_false]
  cases flow <;> rfl

/-! ### The frame of a pending exception -/

/-- Memory with the frame of the pending exception in place of the end of the format $7 frame. -/
def State.continuedRam (s : State) (vector : BitVec 8) (format : BitVec 4) : List Host.Cell :=
  putBytes s.mem.ram 0 (s.getA 7 + 48)
    (frameBytes s.frame.sr s.frame.pc format vector (toBytes (s.valueAt (s.getA 7 + 8) 4) 4))

/-- The frame of the pending exception is written, and its handler is entered with the frame's SR and pc. -/
theorem continueAs_enters (h : Flat s) {vector : BitVec 8} {format : BitVec 4} {handler : Long}
    (hh : handler = ofBytes (getBytes (s.continuedRam vector format) 0 (s.ctl.vbr + 4 * vector.zeroExtend 32) 4))
    (he : handler.getLsbD 0 = false) :
    ∃ p q, Refilled (s.continuedRam vector format) handler q ∧
      continueAs s s.frame (s.valueAt (s.getA 7 + 8) 4) vector format = { s with
        sr := exceptionSr (s.frame.sr &&& 0xF71F)
        a := s.a.set s.sr 7 (s.getA 7 + 48)
        pc := handler
        mem := { s.mem with ram := s.continuedRam vector format, pipe := q, stale := p }
        trace := none, movemEa := none, run := .normal } := by
  let fields := frameHead s.frame.sr s.frame.pc format vector ++ [⟨8, 4, s.valueAt (s.getA 7 + 8) 4⟩]
  have hrow : EndToEnd 0 fields := ⟨rfl, rfl, rfl, rfl, trivial⟩
  have hbytes : fieldBytes fields = frameBytes s.frame.sr s.frame.pc format vector (toBytes (s.valueAt (s.getA 7 + 8) 4) 4) := by
    rw [fieldBytes_frame]
    exact congrArg _ (List.append_nil _)
  obtain ⟨p, hwritten⟩ := writeFields_flat (s.getA 7 + 48) fields h
  rw [ramAfter_fieldWrites _ hrow, hbytes, BitVec.add_zero] at hwritten
  let v : State := { (s.stored (s.continuedRam vector format) p).setA 7 (s.getA 7 + 48) with
    sr := exceptionSr (s.frame.sr &&& 0xF71F) }
  have hv : Flat v := h.of_eq rfl rfl rfl rfl
  obtain ⟨p', q, hq, henter⟩ := enterVector_even hv (vector := vector) hh.symm he
  refine ⟨p', q, hq, ?_⟩
  have hcont : continueAs s s.frame (s.valueAt (s.getA 7 + 8) 4) vector format = enterVector v vector := by
    simp only [continueAs, started_of_unserialized h.serial]
    rw [show writeFields s (s.getA 7 + 48) fields = _ from hwritten]
    rfl
  rw [hcont, henter]
  rfl

/-- The vector that CP stands for, and the FPU without it. -/
theorem postVector_eq (s : State) : ∃ v k, postVector s =
      (v, { s with fpu := { s.fpu with postPending := none }, mem := { s.mem with draws := k } }) ∧
    (∀ w, s.fpu.postPending = some w → v = w) ∧ (s.fpu.postPending = none → 48 ≤ v.toNat ∧ v.toNat < 56) := by
  unfold postVector
  cases hp : s.fpu.postPending with
  | some w => exact ⟨w, s.mem.draws, rfl, fun _ hw => Option.some.inj hw, fun hn => absurd hn (Option.some_ne_none w)⟩
  | none =>
    refine ⟨0b00110#5 ++ (s.draw 3).1, s.mem.draws + 1, ?_, fun _ hw => absurd hw.symm (Option.some_ne_none _), fun _ => ?_⟩
    · have hfpu : { s.fpu with postPending := none } = s.fpu := by rw [← hp]
      rw [hfpu]
      rfl
    · have hdraw := (s.draw 3).1.isLt
      rw [BitVec.toNat_append, ← Nat.shiftLeft_add_eq_or_of_lt hdraw]
      simp only [BitVec.toNat_ofNat, Nat.shiftLeft_eq]
      omega

/-- Settles O42, format by format. -/
theorem rteRestoresTheFrame : Obligations.RteRestoresTheFrame := by
  unfold Obligations.RteRestoresTheFrame
  intro s h hs format sr pc sp
  obtain ⟨k, hrte⟩ := exec_rte hs
  refine ⟨fun p hp hf he hbits => ?_, fun hf => ?_, fun hf => ?_, fun hf => ?_⟩
  · simp only [List.mem_cons, List.not_mem_nil, or_false] at hp
    obtain rfl | rfl | rfl | rfl := hp
    · exact goesTo_of_left (hrte.trans (rteFrames_zero h.flat s hf)) he rfl
    · exact goesTo_of_left (hrte.trans (rteFrames_six_words h.flat s (.inl hf))) he rfl
    · exact goesTo_of_left (hrte.trans (rteFrames_six_words h.flat s (.inr hf))) he rfl
    · have hplain : s.continuation = 0 := congrArg BitVec.toNat (hbits rfl)
      exact goesTo_of_left (hrte.trans ((rteFrames_access h.flat s hf).trans (rteAccess_plain h.flat s hplain))) he rfl
  · intro u hzero he
    have hu : Flat u := h.flat.of_eq rfl rfl rfl
    exact goesTo_of_left (u := u) (hrte.trans ((rteFrames_throwaway h.flat s hf).trans (rteFrames_zero hu s hzero))) he rfl
  · intro ea bits continues
    have haccess := hrte.trans (rteFrames_access h.flat s hf)
    refine ⟨fun hb he => ?_, fun hb he => ?_, fun hb he => ?_, fun hb => ?_, fun hb => ?_⟩
    · have hdone := endInstr_completes (s := leaveFrame s s.frame 60) s true he
      have hleft := haccess.trans (rteAccess_movem h.flat s hb)
      rw [endInstrEa_even s true _ he] at hleft
      refine ⟨_, hleft, rfl, sameBytes_of_ram hdone.ram, ?_⟩
      obtain ⟨tr, p, n, q, hq, e⟩ := hdone
      exact ⟨tr, p, n, q, hq, by rw [e]; rfl⟩
    · obtain ⟨p, q, hq, hcont⟩ := continueAs_enters h.flat rfl he
      exact ⟨p, s.mem.draws, q, hq, haccess.trans ((rteAccess_trace h.flat s hb).trans (congrArg Host.Outcome.next hcont))⟩
    · obtain ⟨p, q, hq, hcont⟩ := continueAs_enters h.flat rfl he
      exact ⟨p, s.mem.draws, q, hq, haccess.trans ((rteAccess_unimplemented h.flat s hb).trans (congrArg Host.Outcome.next hcont))⟩
    · obtain ⟨v, n, hpost, hsome, hnone⟩ := postVector_eq s
      refine ⟨v, hsome, hnone, fun he => ?_⟩
      obtain ⟨p, q, hq, hcont⟩ := continueAs_enters (s := { s with
        fpu := { s.fpu with postPending := none }, mem := { s.mem with draws := n } }) (h.flat.of_eq rfl rfl rfl) rfl he
      have hpending := haccess.trans (rteAccess_post h.flat s hb)
      rw [hpost] at hpending
      exact ⟨p, n, q, hq, hpending.trans (congrArg Host.Outcome.next hcont)⟩
    · exact haccess.trans (rteAccess_undefined h.flat s hb)
  · rw [hrte, rteFrames_unknown h.flat s hf, ownTrap_flat h.flat]
    exact ⟨_, rfl, trap0_takes h.flat 14 s.pc⟩

end Sys2Proof.Machine
end

section
/-! PROOFS. Odd addresses: the address error of an instruction that names one as its next, and of a step at one (60_exceptions R1110;
47_program_control R923). -/

namespace Sys2Proof.Machine

variable {s u : State} {i : Instr} {target : Long}

/-! ### A step at an odd pc -/

theorem advance_odd (h : Flat s) (hr : s.run = .normal) (ht : s.trace = none) (hp : s.interruptPending = false)
    (ho : s.pc.getLsbD 0 = true) : advance s = .next (addressError s s.pc s.pc) := by
  have hpc : s.pc[0] = true := ho
  simp [advance, hr, started_of_unserialized h.serial, h.push, ht, hp, hpc]

theorem step_odd (h : Flat s) (hi : s.inputs = []) (hr : s.run = .normal) (ht : s.trace = none)
    (hp : s.interruptPending = false) (ho : s.pc.getLsbD 0 = true) :
    ∃ t, step s = .next t ∧ Takes s 3 2 s.pc (toBytes (s.pc &&& 0xFFFFFFFE) 4) t := by
  have hstruck : (addressError s s.pc s.pc).mem.struck = none := (takeException_takes h (frameFields_two _) s.pc 3).2
  exact ⟨_, step_of_advance hi (advance_odd h hr ht hp ho) hstruck, addressError_takes h s.pc s.pc⟩

/-! ### Conditional branches -/

theorem errsAt_of_addressError (h : Flat u) (hexec : target.getLsbD 0 = true → exec i s = .next (addressError u s.pc target)) :
    ErrsAt i s target u := fun ho => ⟨_, hexec ho, addressError_takes h s.pc target⟩

/-- A branch to an odd target errs taken or not. -/
theorem bcc_errs (h : Flat s) (cc : BitVec 4) (disp : BrDisp) :
    ErrsAt (.bcc cc disp) s (branchTarget s (brValue disp)) s := by
  have hexec := exec_bcc cc disp s
  cases hc : s.cond cc with
  | true =>
    rw [if_pos hc] at hexec
    exact errsAt_of_jump hexec h
  | false =>
    rw [hc, if_neg Bool.false_ne_true] at hexec
    exact errsAt_of_addressError h fun ho => hexec.trans (if_pos ho)

theorem ne_last_of_ne_zero {c : Word} (h : c ≠ 0) : c - 1 ≠ 0xFFFF := by bv_omega

theorem dbcc_errs (h : Flat s) {cc : BitVec 4} (hc : s.cond cc = false) {dn : BitVec 3}
    (hn : (s.getD dn).extractLsb' 0 16 ≠ 0) (d : BitVec 16) :
    ErrsAt (.dbcc cc dn d) s (branchTarget s (d.signExtend 32)) (s.counted dn) :=
  errsAt_of_jump ((exec_dbcc_false hc dn d).trans (if_neg (ne_last_of_ne_zero hn))) (h.of_eq rfl rfl rfl)

/-- RTE of a format $0 frame with an odd pc. -/
theorem rte_errs (h : Flat s) (hs : s.super = true) (hf : s.format = 0) : ErrsAt .rte s s.frame.pc (s.unstacked 8) := fun ho => by
  obtain ⟨k, hrte⟩ := exec_rte hs
  have hleft : Flat (leaveFrame s s.frame 8) := h.of_eq rfl rfl rfl
  exact ⟨_, hrte.trans (rteFrames_zero h s hf), (endInstrEa_odd hleft s true none ho).of_ended
    ⟨s.frame.pc, s.trace, s.mem.stale, s.mem.draws, rfl⟩⟩

/-! ### Floating-point branches -/

/-- A null FPU is made idle by the instruction that finds no exception pending. -/
def State.fpAwake (s : State) : State :=
  { s with fpu := { s.fpu with kind := if s.fpu.kind = .null then .idle else s.fpu.kind } }

theorem ifNotPending_none (h : s.fpu.pending = none) (body : State → Out) : ifNotPending s body = body s.fpAwake := by
  have hawake : (if s.fpu.kind = .null then { s with fpu := { s.fpu with kind := .idle } } else s) = s.fpAwake := by
    unfold State.fpAwake
    by_cases hk : s.fpu.kind = .null
    · rw [if_pos hk, if_pos hk]
    · rw [if_neg hk, if_neg hk]
  rw [ifNotPending, h, ← hawake]

/-- A predicate that signals nothing: its truth is passed on. -/
theorem fpConditional_quiet {pred : BitVec 5} (h : s.fpu.pending = none)
    (hq : pred.getLsbD 4 = false ∨ s.fpu.fpsr.getLsbD 24 = false) (k : Bool → State → State → Out) :
    fpConditional pred s k = k (fpTruth pred s.fpu.fpsr) s.fpAwake s.fpAwake := by
  have hsignal : (pred.getLsbD 4 && fpNan s.fpAwake.fpu.fpsr) = false := by
    rw [Bool.and_eq_false_iff]
    exact hq
  simp only [fpConditional, ifNotPending_none h, hsignal, Bool.false_eq_true, if_false]
  rfl

theorem errsAt_of_jump_awake (hu : Flat u) (hexec : exec i s = jump s.fpAwake u target []) :
    ErrsAt i s target u := fun ho => by
  obtain ⟨t, hjump, htakes⟩ := jump_odd hu s.fpAwake ho (ws := []) (fun _ hw => absurd hw List.not_mem_nil)
  exact ⟨t, hexec.trans hjump, htakes⟩

theorem fpBranch_errs (h : Flat s) {pred : BitVec 5} (hpend : s.fpu.pending = none)
    (hq : pred.getLsbD 4 = false ∨ s.fpu.fpsr.getLsbD 24 = false) {d : Long} {n : Nat} (hexec : exec i s = fpBranch pred d n s) :
    ErrsAt i s (branchTarget s d) s.fpAwake := by
  have hawake : Flat s.fpAwake := h.of_eq rfl rfl rfl
  rw [fpBranch, fpConditional_quiet hpend hq] at hexec
  cases ht : fpTruth pred s.fpu.fpsr with
  | true =>
    rw [ht, if_pos rfl] at hexec
    exact errsAt_of_jump_awake hawake hexec
  | false =>
    rw [ht, if_neg Bool.false_ne_true] at hexec
    exact errsAt_of_addressError hawake fun ho => hexec.trans (if_pos ho)

theorem fdbcc_errs (h : Flat s) {pred : BitVec 5} (hpend : s.fpu.pending = none)
    (hq : pred.getLsbD 4 = false ∨ s.fpu.fpsr.getLsbD 24 = false) (ht : fpTruth pred s.fpu.fpsr = false) {dn : BitVec 3}
    (hn : (s.getD dn).extractLsb' 0 16 ≠ 0) (d : BitVec 16) :
    ErrsAt (.fdbcc pred dn d) s (s.pc + 4 + d.signExtend 32) (s.fpAwake.counted dn) := by
  refine errsAt_of_jump_awake (h.of_eq rfl rfl rfl) ?_
  show execFdbcc pred dn d s = _
  rw [execFdbcc, fpConditional_quiet hpend hq, ht, if_neg Bool.false_ne_true]
  dsimp only
  rw [setDz_counted]
  exact if_neg (ne_last_of_ne_zero hn)

/-- Settles O10: each of them ends at the odd address that it names. -/
theorem oddAddressesAreAddressErrors : Obligations.OddAddressesAreAddressErrors := by
  unfold Obligations.OddAddressesAreAddressErrors
  refine ⟨fun s h hi hr ht hp ho => step_odd h hi hr ht hp ho, ?_⟩
  intro s cc dn pred disp ea d e h errs sp popped called counted n target
  have hn : n = brWords disp := by cases disp <;> rfl
  refine ⟨bcc_errs h.flat cc disp, errsAt_of_jump (exec_bra disp s) h.flat, ?_, fun hw => ?_, ?_, ?_, ?_, fun hs hf => ?_,
    fun hc hmore => dbcc_errs h.flat hc hmore d, fun hpend hq => ⟨?_, ?_, fun ht hmore => ?_⟩⟩
  · rw [hn]
    exact callTo_errs h (exec_bsr disp s)
  · obtain ⟨x, hx⟩ := control_evaluates h.flat (isControl_of_wf hw) 1
    exact ⟨x, hx, errsAt_of_jump (exec_jmp hx) h.flat, callTo_errs h (exec_jsr hx)⟩
  · exact errsAt_of_jump (exec_rts h.flat) (h.flat.withA _)
  · have hpopped : popped (4 + d.signExtend 32) = s.withA (s.a.set s.sr 7 (s.getA 7 + 4 + d.signExtend 32)) := by
      rw [BitVec.add_assoc]
    rw [hpopped]
    exact errsAt_of_jump (exec_rtd h.flat d) (h.flat.withA _)
  · exact errsAt_of_jump (exec_rtr h.flat) (h.flat.of_eq rfl rfl rfl)
  · exact rte_errs h.flat hs (congrArg BitVec.toNat hf)
  · exact fpBranch_errs h.flat hpend hq rfl
  · exact fpBranch_errs h.flat hpend hq rfl
  · exact fdbcc_errs h.flat hpend hq ht hmore d

end Sys2Proof.Machine
end

section
/-! PROOFS. PTEST: what it reports in MMUSR (49_mmu_cache_multiprocessor R1036, R1037; 21_mmu R262, R263; 92 D9). -/

namespace Sys2Proof.Machine

variable {c : Control} {s : State} {m : MemSys} {instr fc2 wr : Bool} {la : Long} {i : Instr}

/-! ### The walk -/

/-- A root entry that is not resident ends the walk. -/
theorem tableWalk_absent (hde : c.cacr.getLsbD 31 = false) (hq : m.quiet = true) {d1 : Long}
    (hd1 : d1 = longAt m.ram ((if fc2 then c.srp else c.urp).extractLsb' 9 23 ++ la.extractLsb' 25 7 ++ 0#2))
    (hr : d1.getLsbD 1 = false) : tableWalk c m instr la fc2 wr = .ok (.invalid false) m := by
  rw [tableWalk, searchRead_descriptor hde hq (descriptor_aligned _), PRes.ok_bind, ← hd1, tableResident, hr]
  rfl

/-- The levels of a search that finds its three descriptors marked: it changes no memory. -/
def markedLevels (ram : List Host.Cell) (a1 d1 a2 d2 a3 d3 : Long) : Levels := ⟨a1, d1, ram, a2, d2, ram, a3, d3, a3, d3⟩

theorem usedRam_used {d : Long} (h : d.getLsbD 3 = true) (ram : List Host.Cell) (a : Long) : usedRam ram a d = ram := if_pos h

/-- Three resident descriptors that need no mark: the page descriptor is found, and memory is as it was. -/
theorem tableWalk_marked (hde : c.cacr.getLsbD 31 = false) (hq : m.quiet = true) (h4k : c.eightK = false) {a1 d1 a2 d2 a3 d3 : Long}
    (ha1 : a1 = (if fc2 then c.srp else c.urp).extractLsb' 9 23 ++ la.extractLsb' 25 7 ++ 0#2) (hd1 : d1 = longAt m.ram a1)
    (ha2 : a2 = d1.extractLsb' 9 23 ++ la.extractLsb' 18 7 ++ 0#2) (hd2 : d2 = longAt m.ram a2)
    (ha3 : a3 = d2.extractLsb' 8 24 ++ la.extractLsb' 12 6 ++ 0#2) (hd3 : d3 = longAt m.ram a3)
    (hr1 : d1.getLsbD 1 = true) (hu1 : d1.getLsbD 3 = true) (hr2 : d2.getLsbD 1 = true) (hu2 : d2.getLsbD 3 = true)
    (hr3 : d3.extractLsb' 0 2 = 1) (hu3 : d3.getLsbD 3 = true) (hm3 : wr = true → d3.getLsbD 4 = true) :
    ∃ p, tableWalk c m instr la fc2 wr =
      .ok (.page d3 (d1.getLsbD 2 || d2.getLsbD 2 || d3.getLsbD 2)) { m with stale := p } := by
  let L := markedLevels m.ram a1 d1 a2 d2 a3 d3
  have hL : L.Of c m.ram la fc2 := {
    a1 := ha1.symm, d1 := hd1.symm, ram1 := usedRam_used hu1 _ _, a2 := ha2.symm, d2 := hd2.symm, ram2 := usedRam_used hu2 _ _
    a3 := by rw [h4k]; exact ha3.symm
    d3 := hd3.symm, ap := if_neg (by rw [show L.d3 = d3 from rfl, hr3]; decide), pd := hd3.symm }
  have hset : L.setsM fc2 wr = false := by
    cases wr with
    | true => rw [Levels.setsM, show L.pd.getLsbD 4 = true from hm3 rfl, Bool.not_true, Bool.and_false]
    | false => rfl
  obtain ⟨m', r, ram, hwalk, ⟨p, hm'⟩, -, hends⟩ := tableWalk_ends (instr := instr) (wr := wr) hde hq hL
  obtain ⟨rfl, hram⟩ := hends ⟨hr1, hr2, hr3⟩
  have hmarked : L.marked fc2 wr = d3 := by
    rw [Levels.marked, hset]
    exact if_pos hu3
  have hkept : ram = m.ram := by
    rw [hram, hset]
    exact usedRam_used hu3 _ _
  rw [hkept] at hm'
  exact ⟨p, by rw [hwalk, hmarked, hm']; rfl⟩

/-! ### PTEST -/

/-- The end of a search changes one of the two ATCs, and may draw a free value. -/
theorem searchEnd_eq (c : Control) (m : MemSys) (instr : Bool) (la : Long) (fc2 : Bool) (r : SearchEnd) :
    ∃ ia da k, searchEnd c m instr la fc2 none r = .ok r { m with iatc := ia, datc := da, draws := k } := by
  unfold searchEnd loadAtc MemSys.setAtc
  cases r.found with
  | true => cases instr <;> exact ⟨_, _, m.draws, rfl⟩
  | false => cases instr <;> exact ⟨_, _, m.draws + 1, rfl⟩

/-- An empty ATC has no entry to invalidate; the search loads one. -/
theorem ptest_searches (ht : ∀ j, ttrMatch c j la (c.dfc.getLsbD 2) = none) (hi : m.iatc = []) (hd : m.datc = []) {r : SearchEnd}
    (hwalk : ∀ instr, ∃ p, tableWalk c m instr la (c.dfc.getLsbD 2) wr = .ok r { m with stale := p }) :
    ∃ ia da p k, ptest c m la wr = .ok (mmusrOf r) { m with iatc := ia, datc := da, stale := p, draws := k } := by
  unfold ptest
  extract_lets fc2 instr flushed
  obtain ⟨p, hwalk⟩ := hwalk instr
  have hatc : m.atc instr = [] := by
    unfold MemSys.atc
    split
    · exact hi
    · exact hd
  have hhits : atcHits c m instr la fc2 = [] := by rw [atcHits, hatc]; rfl
  have hflushed : flushed = m := by simp only [flushed, hhits, List.foldl_nil]
  rw [if_neg (by rw [ht, ht]; decide), hflushed, tableSearch, show tableWalk c m instr la fc2 wr = _ from hwalk]
  obtain ⟨ia, da, k, hend⟩ := searchEnd_eq c { m with stale := p } instr la fc2 r
  exact ⟨ia, da, p, k, congrArg (·.bind fun e m => .ok (mmusrOf e) m) hend⟩

/-- What PTEST reports is written to MMUSR. -/
theorem ptestAn_completes (hs : s.super = true) (he : s.pc.getLsbD 0 = false) {an : BitVec 3}
    (hexec : exec i s = ptestAn wr an s) {v : Long}
    (h : ∃ ia da p k, ptest s.ctl s.mem (s.getA an) wr = .ok v { s.mem with iatc := ia, datc := da, stale := p, draws := k }) :
    ∃ t, exec i s = .next t ∧ CompletesAs { s with
        ctl := { s.ctl with mmusr := v }
        mem := { s.mem with iatc := t.mem.iatc, datc := t.mem.datc, iatcCtr := t.mem.iatcCtr, datcCtr := t.mem.datcCtr } }
      (s.after 1) t ∧ SameBytes s t := by
  obtain ⟨ia, da, p, k, hptest⟩ := h
  rw [ptestAn, ifSupervisor_runs hs, hptest] at hexec
  obtain ⟨t, hnext, hdone, hsame⟩ := leaves_of_next_even he hexec rfl
  obtain ⟨tr, p', k', q, hq, rfl⟩ := hdone
  exact ⟨_, hnext, ⟨tr, p', k', q, hq, rfl⟩, hsame⟩

theorem ptestAn_transparent (hs : s.super = true) (he : s.pc.getLsbD 0 = false) {an : BitVec 3}
    (hexec : exec i s = ptestAn wr an s) (ht : ∃ j, (ttrMatch s.ctl j (s.getA an) (s.ctl.dfc.getLsbD 2)).isSome = true) :
    Leaves i s 1 { s with ctl := { s.ctl with mmusr := 3 } } := by
  have hmatch : ((ttrMatch s.ctl true (s.getA an) (s.ctl.dfc.getLsbD 2)).isSome ||
      (ttrMatch s.ctl false (s.getA an) (s.ctl.dfc.getLsbD 2)).isSome) = true := by
    obtain ⟨j, hj⟩ := ht
    cases j with
    | true => rw [hj, Bool.true_or]
    | false => rw [hj, Bool.or_true]
  have hptest : ptest s.ctl s.mem (s.getA an) wr = .ok 3 s.mem := if_pos hmatch
  rw [ptestAn, ifSupervisor_runs hs, hptest] at hexec
  exact leaves_of_next_even he hexec rfl

/-- A bit that a mask selects. -/
theorem getLsbD_of_and {v mask w : Long} (h : v &&& mask = w) {k : Nat} (hm : mask.getLsbD k = true) :
    v.getLsbD k = w.getLsbD k := by
  rw [← h, BitVec.getLsbD_and, hm, Bool.and_true]

theorem pdt_of_and {v : Long} (h : v &&& 0xB = 9) : v.extractLsb' 0 2 = 1 := by
  refine BitVec.eq_of_getLsbD_eq fun k hk => ?_
  rw [BitVec.getLsbD_extractLsb', Nat.zero_add]
  interval_cases k
  · simpa using getLsbD_of_and (k := 0) h rfl
  · simpa using getLsbD_of_and (k := 1) h rfl

/-- The two reports of a search from an empty ATC. -/
theorem ptestAn_reports (h : Ready s) (hs : s.super = true) (hi : s.mem.iatc = []) (hd : s.mem.datc = []) {an : BitVec 3}
    (hexec : exec i s = ptestAn wr an s) {r : SearchEnd} (hwalk : ∀ instr, ∃ p,
      tableWalk s.ctl s.mem instr (s.getA an) (s.ctl.dfc.getLsbD 2) wr = .ok r { s.mem with stale := p }) :
    ∃ t, exec i s = .next t ∧ CompletesAs { s with
        ctl := { s.ctl with mmusr := mmusrOf r }
        mem := { s.mem with iatc := t.mem.iatc, datc := t.mem.datc, iatcCtr := t.mem.iatcCtr, datcCtr := t.mem.datcCtr } }
      (s.after 1) t ∧ SameBytes s t :=
  ptestAn_completes hs h.even hexec (ptest_searches (fun j => h.flat.ttrMatch j _ _) hi hd hwalk)

/-- Settles O47, by the walk of the tables. -/
theorem ptestReportsInMmusr : Obligations.PtestReportsInMmusr := by
  unfold Obligations.PtestReportsInMmusr
  constructor
  · intro s an d1 d2 d3 h hs hi hd la fc2 hd1 hd2 hd3 p hp
    obtain ⟨wr, hexec, hwr⟩ : ∃ wr, exec p.1 s = ptestAn wr an s ∧ p.2 = wr := by
      simp only [List.mem_cons, List.not_mem_nil, or_false] at hp
      obtain rfl | rfl := hp
      · exact ⟨false, rfl, rfl⟩
      · exact ⟨true, rfl, rfl⟩
    intro reports
    refine ⟨fun hr => ?_, fun h4k hm1 hm2 hm3 hm => ?_⟩
    · exact ptestAn_reports h hs hi hd hexec fun instr =>
        ⟨s.mem.stale, tableWalk_absent h.flat.de h.flat.bus hd1 hr⟩
    · exact ptestAn_reports h hs hi hd hexec fun instr =>
        tableWalk_marked h.flat.de h.flat.bus h4k rfl hd1 rfl hd2 rfl hd3 (getLsbD_of_and hm1 rfl) (getLsbD_of_and hm1 rfl)
          (getLsbD_of_and hm2 rfl) (getLsbD_of_and hm2 rfl) (pdt_of_and hm3) (getLsbD_of_and hm3 rfl) (hwr ▸ hm)
  · intro s an hs he _ ht p hp
    simp only [List.mem_cons, List.not_mem_nil, or_false] at hp
    obtain rfl | rfl := hp
    · exact ptestAn_transparent (wr := false) hs he rfl ht
    · exact ptestAn_transparent (wr := true) hs he rfl ht

end Sys2Proof.Machine
end

section
/-! PROOFS. A pending floating-point exception (42_floating_point R701; 61_fp_exceptions R1201, R1202). -/

namespace Sys2Proof.Machine

variable {s : State} {i : Instr} {v : BitVec 8}

/-- Entering a handler does not touch the FPU, whether its address is even or odd. -/
theorem enterVector_fpu (h : Flat s) (vector : BitVec 8) : (enterVector s vector).fpu = s.fpu := by
  rw [enterVector_flat h]
  split
  · rfl
  · rfl

theorem takeException_fpu (h : Flat s) {format : BitVec 4} {extra : List Field} (hf : FrameFields format extra) (spc : Long)
    (vector : BitVec 8) : (takeException s vector format spc extra).fpu = s.fpu := by
  obtain ⟨p, htaken⟩ := takeException_frame h hf spc vector
  have hstored : Flat (State.stored { s with
      sr := exceptionSr s.sr, a := s.a.set (exceptionSr s.sr) 7 (exceptionSp s (fieldBytes extra)) }
    (exceptionRam s vector format spc (fieldBytes extra)) p) := h.of_eq rfl rfl rfl rfl
  rw [htaken, enterVector_fpu hstored]
  rfl

/-- `s` with the exception of vector `v` pending. -/
def State.pendingFp (s : State) (v : BitVec 8) : State := { s with fpu := { s.fpu with pending := some v } }

theorem pendingFp_eq (hp : s.fpu.pending = some v) : s.pendingFp v = s := by rw [State.pendingFp, ← hp]

/-- An instruction of the FPU that checks for a pending exception takes it before it does anything. -/
theorem pending_taken (h : Flat s) (hp : s.fpu.pending = some v)
    (hexec : exec i (s.pendingFp v) = .next (trap0 (s.pendingFp v) v (s.pendingFp v).pc)) :
    ∃ t, exec i s = .next t ∧ Takes s v 0 s.pc [] t ∧ t.fpu = s.fpu := by
  rw [pendingFp_eq hp] at hexec
  exact ⟨_, hexec, trap0_takes h v s.pc, takeException_fpu h frameFields_zero s.pc v⟩

/-- Settles O52: each of these instructions begins with the check. -/
theorem pendingFloatExceptionIsTaken : Obligations.PendingFloatExceptionIsTaken := by
  unfold Obligations.PendingFloatExceptionIsTaken
  intro s src m n ea pred off d e mode l v h hp
  simp only [List.forall_mem_cons, List.not_mem_nil, false_implies, implies_true, and_true]
  and_intros <;> exact pending_taken h hp rfl

end Sys2Proof.Machine
end

section
/-! PROOFS. A step over the words of an instruction: they are fetched one by one, each from the pipeline or else from memory, and
the instruction that they decode to runs (60_exceptions R1072; 10_state R89; 70_reset_and_hazards R1302). -/

namespace Sys2Proof.Machine

variable {s : State} {ws : List Word} {i : Instr}

/-- The words at the pc are the instruction `i`, and no shorter run of them is one. -/
structure InstructionWords (s : State) (ws : List Word) (i : Instr) : Prop where
  fresh : s.mem.stale = []
  nonempty : 0 < ws.length
  short : ws.length ≤ maxWords
  word : ∀ k (h : k < ws.length), s.wordAt (s.after k) = some ws[k]
  more : ∀ k, 0 < k → k < ws.length → decode (ws.take k) = .more
  ok : decode ws = .ok i []

/-- The next word is fetched as if none had been taken from the pipeline. -/
theorem fetchWord_taken (h : Ready s) (hfresh : s.mem.stale = []) {k : Nat} (hk : k ≤ maxWords) {w : Word}
    (hw : s.wordAt (s.after k) = some w) :
    fetchWord s.ctl (s.taken k).mem s.super (s.after k) = .ok w (s.taken (k + 1)).mem := by
  have hbus : (s.taken k).mem.quiet = true := (h.flat.taken k).bus
  have hstale : (s.taken k).mem.stale = [] := by rw [taken_eq]; exact hfresh
  rw [taken_succ]
  exact h.flat.fetchWord hbus hstale s.super (h.after_even k) ((wordAt_taken (le_refl k) hk).trans hw)

theorem InstructionWords.fetchWord (hw : InstructionWords s ws i) (h : Ready s) {k : Nat} (hk : k < ws.length) :
    fetchWord s.ctl (s.taken k).mem s.super (s.after k) = .ok ws[k] (s.taken (k + 1)).mem :=
  fetchWord_taken h hw.fresh ((Nat.le_of_lt hk).trans hw.short) (hw.word k hk)

theorem InstructionWords.fetchMore (hw : InstructionWords s ws i) (h : Ready s) (fuel : Nat) :
    ∀ k, 0 < k → k ≤ ws.length → ws.length < k + fuel →
      fetchMore fuel (s.taken k) (ws.take k) = .instr i (s.taken ws.length) := by
  induction fuel with
  | zero => intros; omega
  | succ fuel ih =>
    intro k hpos hk hfuel
    rw [Machine.fetchMore]
    rcases Nat.eq_or_lt_of_le hk with rfl | hlt
    · rw [List.take_length, hw.ok]
    · have hfetch : Machine.fetchWord (s.taken k).ctl (s.taken k).mem (s.taken k).super ((s.taken k).after k) =
          .ok ws[k] (s.taken (k + 1)).mem := hw.fetchWord h hlt
      have hnext : ({ s.taken k with mem := (s.taken (k + 1)).mem } : State) = s.taken (k + 1) := rfl
      have hrest := ih (k + 1) (Nat.succ_pos k) hlt (by omega)
      rw [← List.take_append_getElem hlt] at hrest
      rw [hw.more k hpos hlt, List.length_take_of_le hk]
      simp only [hfetch, hnext, hrest]

/-- A first word that the state allows is followed by the rest of the instruction. -/
theorem InstructionWords.fetchInstr (hw : InstructionWords s ws i) (h : Ready s)
    (hallowed : s.super = true ∨ ∀ w, ws.head? = some w → privilegedWord w = false) :
    fetchInstr s = .instr i (s.taken ws.length) := by
  have hpos := hw.nonempty
  have hpc : s.after 0 = s.pc := BitVec.add_zero s.pc
  have hfirst : Machine.fetchWord s.ctl s.mem s.super s.pc = .ok ws[0] (s.taken 1).mem := hpc ▸ hw.fetchWord h hpos
  have hplain : (!s.super && privilegedWord ws[0]) = false := by
    rcases hallowed with hsuper | hword
    · rw [hsuper]; rfl
    · rw [hword ws[0] (by rw [List.head?_eq_getElem?, List.getElem?_eq_getElem hpos]), Bool.and_false]
  have hmore := hw.fetchMore h (maxWords + 1) 1 Nat.one_pos hpos (by have := hw.short; omega)
  have hone : ws.take 1 = [ws[0]] := (List.take_append_getElem hpos).symm
  have hsuper : ({ s with mem := (s.taken 1).mem } : State).super = s.super := rfl
  rw [hone] at hmore
  rw [Machine.fetchInstr, hfirst]
  simp only [hsuper, hplain, Bool.false_eq_true, if_false]
  exact hmore

/-- At a boundary with nothing else due the processor runs an instruction, whatever was read before it. -/
theorem advance_started (h : Ready s.started) (hr : s.run = .normal) (ht : s.trace = none) (hp : s.interruptPending = false) :
    advance s = runInstruction s.started := by
  have hrun : s.run ≠ .halted := by rw [hr]; decide
  rw [← advance_runInstruction h hr ht hp, advance, advance, if_neg hrun, if_neg (show s.started.run ≠ .halted from hrun)]
  rfl

/-- Settles O3, by the fetch of the words one after the other. -/
theorem stepRunsTheDecodedInstruction : Obligations.StepRunsTheDecodedInstruction := by
  unfold Obligations.StepRunsTheDecodedInstruction
  intro s i ws h hi hr ht hp hstale hne hlen hw hmore hok hpriv
  have hwords : InstructionWords s.started ws i := ⟨hstale, List.length_pos_iff.2 hne, hlen, hw, hmore, hok⟩
  have hrun : runInstruction s.started = exec i (s.started.taken ws.length) := by
    rw [runInstruction, hwords.fetchInstr h hpriv]
  refine ⟨?_, fun t hstruck => by rw [endReset, hstruck]⟩
  simp only [step, hi, advance_started h hr ht hp, hrun]
  cases exec i (s.started.taken ws.length) <;> rfl

end Sys2Proof.Machine
end

section
/-! PROOFS. The reset event: the registers it sets, and the vector it reads from addresses 0 and 4 (70_reset_and_hazards R1301, R1303,
R1304). -/

namespace Sys2Proof.Machine

variable {s : State}

/-! ### Memory, whatever was read before -/

/-- A serialized read before it does not matter to a read. -/
theorem readVia_of_started (h : Flat s.started) {a : Access} (ha : a.tt ≠ 2) (la : Long) (n : Nat) :
    s.readVia a la n = .ok (s.valueAt la n) s := by
  have hbus : s.mem.quiet = true := h.bus
  have hread : dataRead s.ctl s.mem a la n = .ok (getBytes s.mem.ram 0 la n) s.mem := h.dataRead hbus ha la n
  rw [State.readVia, hread]
  rfl

/-- The pipeline after `k` long words from the one at `b` up have been prefetched. -/
def prefetched (ram : List Host.Cell) : Nat → List PipeWord → Long → List PipeWord
  | 0, p, _ => p
  | k + 1, p, b => prefetched ram k ((p.filter (·.la ≠ b)).filter (·.la ≠ b + 2#32) ++
      [⟨b, .word b (getBytes ram 0 b 2)⟩, ⟨b + 2#32, .word (b + 2#32) (getBytes ram 0 (b + 2#32) 2)⟩]) (b + 4)

theorem Flat.prefetchRow (h : Flat s) {m : MemSys} (hb : m.quiet = true) (hf : m.pushFaults = []) (su : Bool) (k : Nat) :
    ∀ (p : List PipeWord) {la b : Long}, la &&& 0xFFFFFFFC#32 = b →
      prefetchRow s.ctl su k { m with pipe := p } la = { m with pipe := prefetched m.ram k p b } := by
  induction k with
  | zero => exact fun _ _ _ _ => rfl
  | succ k ih =>
    intro p la b hl
    have hnext : (la + 4) &&& 0xFFFFFFFC#32 = b + 4 := hl ▸ longBase_add la 1
    rw [h.prefetchRow_succ hb hf su k p hl, ih _ hnext]
    rfl

/-- The refill does not depend on what was read before either. -/
theorem fillPipe_of_started (h : Flat s.started) : s.fillPipe = { s with mem := { s.mem with
    pipe := handlerPipe s.mem.ram s.pc, stale := s.mem.stale.filter (·.stage ≠ .synchronized) } } := by
  have hrow : ∀ m : MemSys, m.quiet = true → m.pushFaults = [] → Machine.prefetchRow s.ctl s.super 4 m.refill s.pc =
      { m.refill with pipe := prefetched m.ram 4 [] (s.pc &&& 0xFFFFFFFC#32) } :=
    fun m hb hf => h.prefetchRow (m := m.refill) hb hf s.super 4 [] rfl
  have hbus : s.mem.quiet = true := h.bus
  have hpush : s.mem.pushFaults = [] := h.push
  have hfilled : prefetched s.mem.ram 4 [] (s.pc &&& 0xFFFFFFFC#32) = handlerPipe s.mem.ram s.pc := by
    have hstarted := congrArg (·.mem.pipe) h.fillPipe
    rwa [State.fillPipe, show s.started.ctl = s.ctl from rfl, show s.started.super = s.super from rfl,
      show s.started.pc = s.pc from rfl, hrow _ h.bus h.push] at hstarted
  rw [State.fillPipe, hrow _ hbus hpush, hfilled]
  rfl

/-! ### The reset exception -/

theorem disableTtr_disabled (r : Long) : (disableTtr r).getLsbD 15 = false := by
  rw [disableTtr, BitVec.getLsbD_and, show (0xFFFF7FFF : Long).getLsbD 15 = false from rfl, Bool.and_false]

/-- What reset does before it reads its vector leaves translation and the caches off. -/
theorem resetRegisters_flat (hq : s.mem.quiet = true) (modes : BitVec 5) : Flat (resetRegisters s modes).started where
  itt0 := disableTtr_disabled _
  itt1 := disableTtr_disabled _
  dtt0 := disableTtr_disabled _
  dtt1 := disableTtr_disabled _
  tc := show (0x4000 : Long).getLsbD 15 = false by decide
  de := BitVec.getLsbD_zero
  ie := BitVec.getLsbD_zero
  bus := by
    obtain ⟨herrors, hwindows, hdue, -, -⟩ := quiet_iff.1 hq
    exact quiet_iff.2 ⟨herrors, hwindows, hdue, rfl, rfl⟩
  push := rfl
  serial := rfl

/-- ISP and pc are loaded and the pipeline is filled. -/
theorem resetOnce_eq (hq : s.mem.quiet = true) (he : (s.valueAt 4 4).getLsbD 0 = false) (modes : BitVec 5) :
    ∃ p, resetOnce s modes = { resetRegisters s modes with
      a := { s.a with isp := s.valueAt 0 4 }
      pc := s.valueAt 4 4
      mem := { (resetRegisters s modes).mem with pipe := handlerPipe s.mem.ram (s.valueAt 4 4), stale := p } } := by
  have hflat := resetRegisters_flat hq modes
  let r : State := resetRegisters s modes
  let u : State := { r with a := { r.a with isp := s.valueAt 0 4 } }
  have hu : Flat u.started := hflat.of_eq rfl rfl rfl rfl
  have hisp : (resetRegisters s modes).readVia resetAccess 0 4 = .ok (s.valueAt 0 4) (resetRegisters s modes) :=
    readVia_of_started hflat (by decide) 0 4
  have hpc : u.readVia resetAccess 4 4 = .ok (s.valueAt 4 4) u := readVia_of_started hu (by decide) 4 4
  have hfill := fillPipe_of_started (s := { u with pc := s.valueAt 4 4 }) (hu.of_eq rfl rfl rfl rfl)
  refine ⟨s.mem.stale.filter (·.stage ≠ .synchronized), ?_⟩
  simp only [resetOnce, hisp]
  rw [show State.readVia u resetAccess 4 4 = _ from hpc]
  simp only [he, Bool.false_eq_true, if_false]
  exact hfill

/-- Settles O14: with nothing else due, the event is one reset exception. -/
theorem resetEventLoadsStackAndProgramCounter : Obligations.ResetEventLoadsStackAndProgramCounter := by
  unfold Obligations.ResetEventLoadsStackAndProgramCounter
  intro s modes es hi hq he
  let u : State := { s with inputs := es }
  have hdue : u.mem.due = [] := (quiet_iff.1 hq).2.2.1
  obtain ⟨p, hreset⟩ := resetOnce_eq (s := u) hq he modes
  have hstep : step s = .next (resetOnce u modes) := by
    simp only [step, hi, applyEvent]
    rw [show applyReset _ modes = _ from applyReset_of_due hdue modes]
  rw [hreset] at hstep
  refine ⟨_, hstep, rfl, rfl, rfl, rfl, ?_, rfl, rfl, rfl, rfl, rfl, rfl, rfl, rfl, handlerPipe_refilled _ _, fun _ => rfl⟩
  simp only [List.forall_mem_cons, List.not_mem_nil, false_implies, implies_true, and_true]
  exact ⟨disableTtr_disabled _, disableTtr_disabled _, disableTtr_disabled _, disableTtr_disabled _⟩

end Sys2Proof.Machine
end

section
/-! PROOFS. Access errors, whatever the memory system does: a read that faults aborts its instruction, a write that faults completes
MOVE (60_exceptions R1096, R1097, R1099, R1102, R1141; 20_memory R191; 22_caches_bus R342). -/

namespace Sys2Proof.Machine

variable {s u v : State} {i : Instr} {f : AccessFault}

/-! ### What the entry of an exception keeps -/

/-- `t` has the data and address registers, the SR, the FPU and the control registers of `s`. -/
structure SameRegisters (s t : State) : Prop where
  d : t.d = s.d
  a : t.a = s.a
  sr : t.sr = s.sr
  fpu : t.fpu = s.fpu
  ctl : t.ctl = s.ctl

theorem SameRegisters.trans (h : SameRegisters s u) (h' : SameRegisters u v) : SameRegisters s v :=
  ⟨h'.d.trans h.d, h'.a.trans h.a, h'.sr.trans h.sr, h'.fpu.trans h.fpu, h'.ctl.trans h.ctl⟩

/-- An access changes memory only, whether it is made or faults. -/
theorem lift_registers {α : Type} (s : State) (r : MRes α) : (s.lift r).All (SameRegisters s) := by
  cases r with
  | ok a m => exact ⟨rfl, rfl, rfl, rfl, rfl⟩
  | fail f m => exact ⟨rfl, rfl, rfl, rfl, rfl⟩

theorem readVia_registers (s : State) (a : Access) (la : Long) (n : Nat) : (s.readVia a la n).All (SameRegisters s) :=
  (lift_registers s _).bind fun _ _ h => h

theorem writeFields_registers (base : Long) : ∀ (fs : List Field) (s : State), (writeFields s base fs).All (SameRegisters s)
  | [], _ => ⟨rfl, rfl, rfl, rfl, rfl⟩
  | f :: fs, s => by
    unfold writeFields
    split
    · exact ⟨rfl, rfl, rfl, rfl, rfl⟩
    · refine (lift_registers s _).bind fun _ u hu => ?_
      have hrest := writeFields_registers base fs u
      cases hw : writeFields u base fs with
      | ok a t => rw [hw] at hrest; exact hu.trans hrest
      | fail f t => rw [hw] at hrest; exact hu.trans hrest

theorem enterVector_registers (s : State) (vector : BitVec 8) : SameRegisters s (enterVector s vector) := by
  have hread := readVia_registers s frameAccess (s.ctl.vbr + 4 * vector.zeroExtend 32) 4
  unfold enterVector
  split <;> rename_i hr <;> rw [hr] at hread
  · exact ⟨hread.d, hread.a, hread.sr, hread.fpu, hread.ctl⟩
  · split
    · exact ⟨hread.d, hread.a, hread.sr, hread.fpu, hread.ctl⟩
    · exact ⟨hread.d, hread.a, hread.sr, hread.fpu, hread.ctl⟩

/-- Taking an exception changes, of these registers, the SR and the stack pointer that takes the frame. -/
theorem takeException_registers (s : State) (vector : BitVec 8) (format : BitVec 4) (spc : Long) (extra : List Field) :
    ∃ sp, SameRegisters { s with sr := exceptionSr s.sr, a := s.a.set (exceptionSr s.sr) 7 sp }
      (takeException s vector format spc extra) := by
  let u : State := { s.started with sr := exceptionSr s.sr }
  let b : State := u.setA 7 (u.getA 7 - BitVec.ofNat 32 (frameSize format))
  have hpush : (pushFrame u s.sr spc format vector extra).All (SameRegisters b) := writeFields_registers _ _ b
  have hsame (t : State) (h : SameRegisters b t) : SameRegisters { s with
      sr := exceptionSr s.sr, a := s.a.set (exceptionSr s.sr) 7 (u.getA 7 - BitVec.ofNat 32 (frameSize format)) } t :=
    ⟨h.d, h.a, h.sr, h.fpu, h.ctl⟩
  refine ⟨u.getA 7 - BitVec.ofNat 32 (frameSize format), ?_⟩
  unfold takeException
  change SameRegisters _ (match pushFrame u s.sr spc format vector extra with
    | .fail _ s => s.halt
    | .ok _ s => enterVector s vector)
  cases hp : pushFrame u s.sr spc format vector extra with
  | ok a t =>
    rw [hp] at hpush
    exact (hsame t hpush).trans (enterVector_registers t vector)
  | fail f t =>
    rw [hp] at hpush
    exact (hsame t hpush).trans ⟨rfl, rfl, rfl, rfl, rfl⟩

/-! ### The supervisor's stack pointer -/

theorem exceptionSr_super (sr : Word) : supervisor (exceptionSr sr) = true := enterSupervisor_super sr

theorem exceptionSr_ccr (sr : Word) : exceptionSr sr &&& 0x1F = sr &&& 0x1F :=
  and_eq_of_bits fun _ hk => enterSupervisor_bit sr (range_of_bit (p := (· < 13)) hk (by decide))

/-- The user stack pointer is not the supervisor's. -/
theorem usp_set_supervisor (a : AddrRegs) {sr : Word} (hs : supervisor sr = true) (sp : Long) : (a.set sr 7 sp).usp = a.usp := by
  have hseven : (7 : BitVec 3).toNat = 7 := rfl
  simp only [AddrRegs.set, hseven, hs, Bool.not_true, Bool.false_eq_true, if_false]
  split <;> rfl

/-- A0 to A6 do not depend on the SR. -/
theorem get_of_ne_seven (a : AddrRegs) (sr sr' : Word) {n : BitVec 3} (h : n ≠ 7) : a.get sr n = a.get sr' n := by
  rcases reg_cases n with hn | hn | hn | hn | hn | hn | hn | hn
  case inr.inr.inr.inr.inr.inr.inr => exact absurd hn h
  all_goals subst hn; rfl

/-! ### A read that faults -/

/-- What an access error keeps. -/
theorem accessError_keeps (s : State) (m : MemSys) (f : AccessFault) (info : FaultInfo) (spc : Long) :
    let t := accessError { s with mem := m } f info spc
    t.d = s.d ∧ t.a.usp = s.a.usp ∧ (∀ n : BitVec 3, n ≠ 7 → t.a.get t.sr n = s.a.get s.sr n) ∧
      t.sr &&& 0x1F = s.sr &&& 0x1F ∧ t.super = true ∧ t.fpu = s.fpu ∧ t.ctl = s.ctl := by
  intro t
  obtain ⟨sp, hd, ha, hsr, hfpu, hctl⟩ := takeException_registers { s with mem := (m.drawLongs 14).2 } 2 7 spc
    (faultFields f info (m.drawLongs 14).1)
  have hs := exceptionSr_super s.sr
  refine ⟨hd, (congrArg AddrRegs.usp ha).trans (usp_set_supervisor s.a hs sp), fun n hn => ?_, ?_, ?_, hfpu, hctl⟩
  · calc t.a.get t.sr n = (s.a.set (exceptionSr s.sr) 7 sp).get (exceptionSr s.sr) n := congrArg₂ (·.get · n) ha hsr
      _ = s.a.get (exceptionSr s.sr) n := AddrRegs.get_set_of_ne _ _ _ hn
      _ = s.a.get s.sr n := get_of_ne_seven _ _ _ hn
  · exact (congrArg (· &&& 0x1F) hsr).trans (exceptionSr_ccr s.sr)
  · exact (congrArg supervisor hsr).trans hs

/-- A read that faults aborts: the instruction waits for a push, or takes the access error from the state before it. -/
theorem read_faults {α : Type} {r : Res α} {k : α → State → Out} (hexec : exec i s = orAbort s r k) (hr : r = .fail f u) :
    (u.mem.pushFaults ≠ [] ∧ u.mem.serialized = false → exec i s = .next { s with mem := u.mem }) ∧
    (¬ (u.mem.pushFaults ≠ [] ∧ u.mem.serialized = false) →
      exec i s = .next (accessError { s with mem := u.mem } f FaultInfo.none s.pc)) := by
  have hwaits : u.mem.givesUp = true ↔ u.mem.pushFaults ≠ [] ∧ u.mem.serialized = false := by
    rw [MemSys.givesUp, Bool.and_eq_true, Bool.not_eq_true', Bool.not_eq_true', List.isEmpty_eq_false_iff]
  rw [hexec, hr, orAbort, abort, ← hwaits]
  exact ⟨fun h => if_pos h, fun h => if_neg h⟩

/-! ### A write that faults -/

/-- The fault of a write that is not a push has the transfer type of the write. -/
theorem pageWrite_tt {c : Control} {m m' : MemSys} {a : Access} {fa : Long} {total : Nat} {second : Bool} {la : Long} {bs : List Byte}
    (h : pageWrite c m a fa total second la bs = .fail f m') (hp : f.push = none) : f.tt = a.tt := by
  unfold pageWrite at h
  split at h
  · cases h
    rfl
  · cases h
    cases hp
  · split at h
    · cases h
    · rename_i e _ _
      cases h
      cases e with
      | bus => rfl
      | push p => cases hp

theorem dataWrite_tt {c : Control} {m m' : MemSys} {a : Access} {la : Long} {bs : List Byte} (ha : a.tt ≠ 2)
    (h : dataWrite c m a la bs = .fail f m') (hp : f.push = none) : f.tt = a.tt := by
  unfold dataWrite at h
  rw [if_neg ha] at h
  extract_lets k at h
  split at h
  · exact pageWrite_tt h hp
  · cases hfirst : pageWrite c m a la bs.length false la (bs.take k) with
    | ok x m1 =>
      rw [hfirst] at h
      exact pageWrite_tt h hp
    | fail f' m1 =>
      rw [hfirst] at h
      cases h
      exact pageWrite_tt hfirst hp

/-- A write that faults leaves all but memory as it was. -/
theorem write_fails {w : Write} (hw : w.acc.tt = 0) (h : s.write w = .fail f u) (hp : f.push = none) :
    u = { s with mem := u.mem } ∧ f.tt = 0 := by
  rw [State.write] at h
  cases hr : dataWrite s.ctl s.mem w.acc w.addr w.bytes with
  | ok x m =>
    rw [hr] at h
    cases h
  | fail f' m =>
    rw [hr] at h
    cases h
    exact ⟨rfl, (dataWrite_tt (by rw [hw]; decide) hr hp).trans hw⟩

/-- The access error of a write that faulted, or that of a push that waits; `tr` is the trace left pending. -/
def faultTaken (u : State) (tr : Option Long) (f : AccessFault) (info : FaultInfo) (pc : Long) : Out :=
  match u.mem.pushFaults with
  | [] => .next (accessError { u with trace := tr } f info pc)
  | q :: r => .next (accessError { u with trace := tr, mem := { u.mem with pushFaults := r } } q.fault info pc)

/-- An instruction with one write that faults is complete. -/
theorem complete_faults (s0 : State) {w : Write} (hw : w.acc.tt = 0) (h : s.write w = .fail f u) (hp : f.push = none)
    {flow : Bool} {tr : Option Long} (ht : s0.settleTrace u flow = { u with trace := tr }) :
    complete s0 s [w] flow = faultTaken u tr f ⟨if tr.isSome then 2 else 0, s0.pc, false, [w]⟩ s.pc := by
  obtain ⟨hu, htt⟩ := write_fails hw h hp
  have hpc : u.pc = s.pc := by rw [hu]
  have hcompletes : f.completes [] u.mem = true := by rw [AccessFault.completes, hp]; rfl
  have hfits : [w].length ≤ 2 ∧ f.tt ≠ 1 := ⟨Nat.le_succ 1, by rw [htt]; decide⟩
  simp only [complete, writeAll, h, hcompletes, if_true, ht, writeFault, faultTaken, hpc]
  cases hq : u.mem.pushFaults with
  | nil => rfl
  | cons q r =>
    simp only [if_pos hfits, MemSys.pushReported, hq, List.tail_cons]

/-- MOVE to memory, its operands being as given. -/
theorem moveEa_eq {z : Size} {src dst : Ea} {u' : State} {l : Loc} {x val : Long}
    (hread : readEa s z src 1 s.pc = .ok (l, val) u) (heval : evalEa u dst z.bytes s.pc = .ok (.mem x) u') :
    let m : State := { u' with
      sr := logicSr u'.sr z val, pc := s.after (1 + Ea.words z.immWords src + Ea.words z.immWords dst) }
    moveEa z src dst s = complete s m [m.writeOf x z.bytes val] false := by
  intro m
  rw [moveEa, hread, Res.bind_ok, heval, Res.bind_ok, orAbort_ok, setLogic_eq_logicSr]
  rfl

/-- Without T0 the trace is settled, and no free value is drawn for it. -/
theorem settleTrace_of_bits {s0 : State} {c : Word} (h : s0.sr &&& 0xC000 = c) (hc : c.getLsbD 14 = false) :
    s0.settleTrace u false = { u with trace := if traced c u.mem false then some s0.pc else none } := by
  have hbit : s0.sr.getLsbD 14 = false := (traceBits h).2.trans hc
  have hfree : s0.sr.extractLsb' 14 2 ≠ 3 := fun h3 => by
    have hset : (s0.sr.extractLsb' 14 2).getLsbD 0 = true := by rw [h3]; rfl
    rw [BitVec.getLsbD_extractLsb', Nat.add_zero, hbit, Bool.and_false] at hset
    exact Bool.false_ne_true hset
  rw [State.settleTrace, if_neg hfree, traced_of_bits h]

/-- A write of MOVE that faults. -/
theorem moveEa_faults {z : Size} {src dst : Ea} {u u' w : State} {l : Loc} {x val : Long}
    (hexec : exec i s = moveEa z src dst s) (hread : readEa s z src 1 s.pc = .ok (l, val) u)
    (heval : evalEa u dst z.bytes s.pc = .ok (.mem x) u') :
    let m : State := { u' with
      sr := logicSr u'.sr z val, pc := s.after (1 + Ea.words z.immWords src + Ea.words z.immWords dst) }
    m.write (m.writeOf x z.bytes val) = .fail f w → f.push = none →
    (s.sr &&& 0xC000 = 0 → exec i s = faultTaken w none f ⟨0, s.pc, false, [m.writeOf x z.bytes val]⟩ m.pc) ∧
    (s.sr &&& 0xC000 = 0x8000 →
      exec i s = faultTaken w (some s.pc) f ⟨2, s.pc, false, [m.writeOf x z.bytes val]⟩ m.pc) := by
  intro m hwrite hp
  have hmove : exec i s = complete s m [m.writeOf x z.bytes val] false := hexec.trans (moveEa_eq hread heval)
  have htt : (m.writeOf x z.bytes val).acc.tt = 0 := rfl
  exact ⟨fun h => hmove.trans (complete_faults s htt hwrite hp (settleTrace_of_bits h rfl)),
    fun h => hmove.trans (complete_faults s htt hwrite hp (settleTrace_of_bits h rfl))⟩

end Sys2Proof.Machine
end

section
/-! PROOFS. The format $7 frame of an access error, field by field (60_exceptions R1097 to R1100, R1103). -/

namespace Sys2Proof.Machine

variable {s : State} {f : AccessFault} {i : FaultInfo} {free : List Long} {w : Write} {k : Nat}

/-! ### Bytes of values -/

theorem toBytes_getElem (v : Long) : ∀ {n j : Nat} (h : j < (toBytes v n).length),
    (toBytes v n)[j] = v.extractLsb' (8 * (n - 1 - j)) 8
  | n + 1, 0, _ => rfl
  | n + 1, j + 1, h => by
    have hj : j < (toBytes v n).length := by simpa [toBytes] using h
    have hcount : n - 1 - j = n + 1 - 1 - (j + 1) := by omega
    rw [← hcount, ← toBytes_getElem v hj]
    rfl

/-- The low `n` bytes are the last of more bytes. -/
theorem toBytes_drop (v : Long) (n : Nat) : ∀ m, (toBytes v (m + n)).drop m = toBytes v n
  | 0 => by rw [Nat.zero_add, List.drop_zero]
  | m + 1 => by rw [Nat.add_right_comm, toBytes, List.drop_succ_cons, toBytes_drop v n m]

/-- The bits of byte `j` of a value made of bytes. -/
theorem ofBytes_getLsbD {bs : List Byte} (hlen : bs.length ≤ 4) {j b : Nat} (hj : j < bs.length) (hb : b < 8) :
    (ofBytes bs).getLsbD (8 * (bs.length - 1 - j) + b) = bs[j].getLsbD b := by
  induction bs using List.reverseRecOn generalizing j with
  | nil => exact absurd hj (Nat.not_lt_zero j)
  | append_singleton bs x ih =>
    rw [List.length_append, List.length_singleton] at hlen hj
    rw [ofBytes_concat, BitVec.getLsbD_or, BitVec.getLsbD_shiftLeft, BitVec.getLsbD_setWidth]
    simp only [List.length_append, List.length_singleton]
    rcases Nat.eq_or_lt_of_le (Nat.le_of_lt_succ hj) with rfl | hlt
    · have hlow : 8 * (bs.length + 1 - 1 - bs.length) + b = b := by omega
      rw [hlow, List.getElem_concat_length rfl]
      simp [hb, show b < 32 by omega]
    · have hhigh : 8 * (bs.length + 1 - 1 - j) + b = 8 * (bs.length - 1 - j) + b + 8 := by omega
      have hx : x.getLsbD (8 * (bs.length - 1 - j) + b + 8) = false := BitVec.getLsbD_of_ge _ _ (by omega)
      rw [hhigh, List.getElem_append_left hlt, ← ih (by omega) hlt, hx]
      simp only [Nat.add_sub_cancel, Bool.and_false, Bool.or_false]
      simp [show 8 * (bs.length - 1 - j) + b + 8 < 32 by omega]

/-- WB2D and WB3D hold the operand in their low bytes. -/
theorem toBytes_wbData (h : w.bytes.length ≤ 4) (v : Long) : toBytes (wbData w v) w.bytes.length = w.bytes := by
  refine List.ext_getElem (toBytes_length _ _) fun j _ hj => ?_
  rw [toBytes_getElem]
  refine BitVec.eq_of_getLsbD_eq fun b hb => ?_
  have hpos : 8 * (w.bytes.length - 1 - j) + b < 8 * w.bytes.length := by omega
  rw [← ofBytes_getLsbD h hj hb, BitVec.getLsbD_extractLsb', wbData, BitVec.getLsbD_or, BitVec.getLsbD_shiftLeft]
  simp [hb, hpos]

/-- A rotation by bytes moves each byte as many places on. -/
theorem rotateRight_byte (x : Long) {r j : Nat} (hr : r < 4) (hj : j < 4) :
    (x.rotateRight (8 * r)).extractLsb' (8 * (3 - (r + j) % 4)) 8 = x.extractLsb' (8 * (3 - j)) 8 := by
  refine BitVec.eq_of_getLsbD_eq fun b hb => ?_
  have hmod : 8 * r % 32 = 8 * r := Nat.mod_eq_of_lt (by omega)
  rw [BitVec.getLsbD_extractLsb', BitVec.getLsbD_extractLsb', BitVec.getLsbD_rotateRight, hmod]
  by_cases hwrap : r + j < 4
  · rw [Nat.mod_eq_of_lt hwrap, decide_eq_true (show 8 * (3 - (r + j)) + b < 32 - 8 * r by omega), cond_true,
      show 8 * r + (8 * (3 - (r + j)) + b) = 8 * (3 - j) + b by omega]
  · rw [show (r + j) % 4 = r + j - 4 by omega, decide_eq_false (show ¬ 8 * (3 - (r + j - 4)) + b < 32 - 8 * r by omega),
      cond_false, decide_eq_true (show 8 * (3 - (r + j - 4)) + b < 32 by omega),
      show 8 * (3 - (r + j - 4)) + b - (32 - 8 * r) = 8 * (3 - j) + b by omega, Bool.true_and]

/-- WB1D holds the operand on the byte lanes of its address. -/
theorem wb1Data_byte (h : w.bytes.length ≤ 4) (v : Long) {j : Nat} (hj : j < w.bytes.length) :
    (wb1Data w v).extractLsb' (8 * (3 - (w.addr.toNat + j) % 4)) 8 = w.bytes[j] := by
  rw [wb1Data, show (w.addr.toNat + j) % 4 = (w.addr.toNat % 4 + j) % 4 by omega, rotateRight_byte _ (by omega) (by omega)]
  refine BitVec.eq_of_getLsbD_eq fun b hb => ?_
  have hfree : (if w.bytes.length < 4 then v >>> (8 * w.bytes.length) else 0).getLsbD (8 * (3 - j) + b) = false := by
    split
    · rw [BitVec.getLsbD_ushiftRight]
      exact BitVec.getLsbD_of_ge _ _ (by omega)
    · exact BitVec.getLsbD_zero
  rw [← ofBytes_getLsbD h hj hb, BitVec.getLsbD_extractLsb', BitVec.getLsbD_or, hfree, BitVec.getLsbD_shiftLeft,
    show 8 * (3 - j) + b - 8 * (4 - w.bytes.length) = 8 * (w.bytes.length - 1 - j) + b by omega]
  simp [hb, show 8 * (3 - j) + b < 32 by omega, show 8 * (4 - w.bytes.length) ≤ 8 * (3 - j) + b by omega]

/-! ### Slices of a frame -/

/-- The `n` bytes of a frame at offset `off`, `extra` being what follows its first eight bytes. -/
def frameSlice (extra : List Byte) (off n : Nat) : List Byte := (extra.drop (off - 8)).take n

/-- Bytes within a field. -/
theorem fieldBytes_part {fs : List Field} : ∀ {k n : Nat} {g : Field}, EndToEnd k fs → fs[n]? = some g → ∀ {j m : Nat},
    j + m ≤ g.size → k ≤ g.off ∧ ((fieldBytes fs).drop (g.off + j - k)).take m = ((toBytes g.value g.size).drop j).take m := by
  induction fs with
  | nil => intro k n g _ hg; cases hg
  | cons x fs ih =>
    intro k n g h hg j m hjm
    obtain ⟨hx, hrest⟩ := h
    have hbytes : fieldBytes (x :: fs) = toBytes x.value x.size ++ fieldBytes fs := rfl
    rw [hbytes]
    cases n with
    | zero =>
      obtain rfl : x = g := Option.some.inj hg
      refine ⟨hx.ge, ?_⟩
      rw [hx, Nat.add_sub_cancel_left, List.drop_append_of_le_length (by rw [toBytes_length]; omega),
        List.take_append_of_le_length (by rw [List.length_drop, toBytes_length]; omega)]
    | succ n =>
      obtain ⟨hle, hpart⟩ := ih hrest hg hjm
      refine ⟨by omega, ?_⟩
      rw [← hpart, show g.off + j - k = (toBytes x.value x.size).length + (g.off + j - (k + x.size)) by
        rw [toBytes_length]; omega, List.drop_append, List.drop_eq_nil_of_le (Nat.le_add_right _ _), List.nil_append,
        Nat.add_sub_cancel_left]

theorem frameSlice_field {fs : List Field} {n : Nat} {g : Field} (h : EndToEnd 8 fs) (hg : fs[n]? = some g) {j m : Nat}
    (hjm : j + m ≤ g.size) : frameSlice (fieldBytes fs) (g.off + j) m = ((toBytes g.value g.size).drop j).take m :=
  (fieldBytes_part h hg hjm).2

theorem frameSlice_append (extra : List Byte) {off : Nat} (h : 8 ≤ off) (a b : Nat) :
    frameSlice extra off (a + b) = frameSlice extra off a ++ frameSlice extra (off + a) b := by
  rw [frameSlice, List.take_add, List.drop_drop, frameSlice, frameSlice, show off - 8 + a = off + a - 8 by omega]

section fields

variable {fs : List Field} {n : Nat} {off : Nat} {v : Long}

theorem slice_long (h : EndToEnd 8 fs) (hg : fs[n]? = some ⟨off, 4, v⟩) : frameSlice (fieldBytes fs) off 4 = toBytes v 4 :=
  frameSlice_field h hg (j := 0) (Nat.le_refl 4)

theorem long_of_field (h : EndToEnd 8 fs) (hg : fs[n]? = some ⟨off, 4, v⟩) : ofBytes (frameSlice (fieldBytes fs) off 4) = v := by
  rw [slice_long h hg, ofBytes_toBytes_four]

theorem ofBytes_toBytes_two (v : Long) : (ofBytes (toBytes v 2)).extractLsb' 0 16 = v.extractLsb' 0 16 := by
  refine BitVec.eq_of_getLsbD_eq fun j hj => ?_
  simp only [toBytes, ofBytes, List.foldl_cons, List.foldl_nil]
  interval_cases j <;> simp

theorem word_of_field (h : EndToEnd 8 fs) (hg : fs[n]? = some ⟨off, 2, v⟩) :
    (ofBytes (frameSlice (fieldBytes fs) off 2)).extractLsb' 0 16 = v.extractLsb' 0 16 := by
  have hslice : frameSlice (fieldBytes fs) off 2 = toBytes v 2 := frameSlice_field h hg (j := 0) (Nat.le_refl 2)
  rw [hslice, ofBytes_toBytes_two]

/-- The operand of WB2D or WB3D. -/
theorem slice_wbData (h : EndToEnd 8 fs) (hw : w.bytes.length ≤ 4) (hg : fs[n]? = some ⟨off, 4, wbData w v⟩) :
    frameSlice (fieldBytes fs) (off + 4 - w.bytes.length) w.bytes.length = w.bytes := by
  have hpart := frameSlice_field h hg (j := 4 - w.bytes.length) (m := w.bytes.length) (by show _ ≤ 4; omega)
  have hlow := toBytes_drop (wbData w v) w.bytes.length (4 - w.bytes.length)
  rw [Nat.sub_add_cancel hw] at hlow
  rw [show off + 4 - w.bytes.length = off + (4 - w.bytes.length) by omega]
  calc frameSlice (fieldBytes fs) (off + (4 - w.bytes.length)) w.bytes.length
      = ((toBytes (wbData w v) 4).drop (4 - w.bytes.length)).take w.bytes.length := hpart
    _ = w.bytes := by rw [hlow, List.take_of_length_le (by rw [toBytes_length]), toBytes_wbData hw]

/-- A byte of the operand of WB1D. -/
theorem slice_wb1Data (h : EndToEnd 8 fs) (hw : w.bytes.length ≤ 4) (hg : fs[n]? = some ⟨off, 4, wb1Data w v⟩) {j : Nat}
    (hj : j < w.bytes.length) :
    frameSlice (fieldBytes fs) (off + (w.addr.toNat + j) % 4) 1 = (w.bytes.drop j).take 1 := by
  have hpart := frameSlice_field h hg (j := (w.addr.toNat + j) % 4) (m := 1) (by show _ ≤ 4; omega)
  have hlane : (w.addr.toNat + j) % 4 < (toBytes (wb1Data w v) 4).length := by rw [toBytes_length]; omega
  calc frameSlice (fieldBytes fs) (off + (w.addr.toNat + j) % 4) 1
      = ((toBytes (wb1Data w v) 4).drop ((w.addr.toNat + j) % 4)).take 1 := hpart
    _ = [w.bytes[j]] := by
      rw [List.drop_eq_getElem_cons hlane, toBytes_getElem, List.take_succ_cons, List.take_zero, wb1Data_byte hw v hj]
    _ = (w.bytes.drop j).take 1 := by rw [List.drop_eq_getElem_cons hj]; rfl

end fields

/-! ### The fields of a format $7 frame -/

theorem faultFields_row (f : AccessFault) (i : FaultInfo) (free : List Long) : EndToEnd 8 (faultFields f i free) :=
  ⟨rfl, rfl, rfl, rfl, rfl, rfl, rfl, rfl, rfl, rfl, rfl, rfl, rfl, rfl, rfl, trivial⟩

theorem fieldBytes_length (fs : List Field) : (fieldBytes fs).length = (fs.map (·.size)).sum := by
  simp [fieldBytes, List.length_flatMap]

theorem faultFields_length (f : AccessFault) (i : FaultInfo) (free : List Long) :
    (fieldBytes (faultFields f i free)).length = 52 := by
  simp [fieldBytes_length, faultFields]

theorem faultFields_frame (f : AccessFault) (i : FaultInfo) (free : List Long) : FrameFields 7 (faultFields f i free) :=
  ⟨faultFields_row f i free, by rw [faultFields_length]; rfl⟩

/-- An access error takes vector 2 with a format $7 frame. -/
theorem accessError_takes (h : Flat s) (f : AccessFault) (i : FaultInfo) (spc : Long) :
    Takes s 2 7 spc (fieldBytes (faultFields f i (s.mem.drawLongs 14).1)) (accessError s f i spc) := by
  have hdrawn : Flat { s with mem := (s.mem.drawLongs 14).2 } := h.of_eq rfl rfl rfl rfl
  exact (takeException_takes hdrawn (faultFields_frame f i _) spc 2).1.of_ended ⟨s.pc, s.trace, s.mem.stale, _, rfl⟩

/-- The status of write-back `k + 1` that shows a write. -/
theorem faultFields_status (hk : k < 3) (hw : f.writeBack i.writes k = some w) :
    (faultFields f i free)[4 - k]? = some ⟨0x12 - 2 * k, 2, wbStatus w⟩ := by
  interval_cases k <;> simp [faultFields, hw]

theorem faultFields_idle (hk : k < 3) (hw : f.writeBack i.writes k = none) :
    (faultFields f i free)[4 - k]? = some ⟨0x12 - 2 * k, 2, f.idleStatus k (free.getD (11 + k) 0)⟩ := by
  interval_cases k <;> simp [faultFields, hw]

theorem faultFields_addr (hk : k < 3) (hpos : 0 < k) (hw : f.writeBack i.writes k = some w) :
    (faultFields f i free)[10 - 2 * k]? = some ⟨0x28 - 8 * k, 4, w.addr⟩ := by
  interval_cases k <;> simp [faultFields, hw]

theorem faultFields_data (hk : k < 3) (hpos : 0 < k) (hw : f.writeBack i.writes k = some w) :
    (faultFields f i free)[11 - 2 * k]? = some ⟨0x2C - 8 * k, 4, wbData w (free.getD (5 + k) 0)⟩ := by
  interval_cases k <;> simp [faultFields, hw]

/-! ### The words of the frame -/

/-- The long word of a frame at an offset. -/
def frameLong (extra : List Byte) (off : Nat) : Long := ofBytes (frameSlice extra off 4)

/-- The word of a frame at an offset. -/
def frameWord (extra : List Byte) (off : Nat) : Word := (ofBytes (frameSlice extra off 2)).extractLsb' 0 16

/-- The frame of an access error, beyond its first eight bytes. -/
def faultFrame (f : AccessFault) (i : FaultInfo) (free : List Long) : List Byte := fieldBytes (faultFields f i free)

theorem faultFields_ea (hc : i.cont ≠ 0) : (faultFields f i free)[0]? = some ⟨0x08, 4, i.ea⟩ := by
  rw [faultFields, if_neg hc]
  rfl

theorem faultFrame_ea (hc : i.cont ≠ 0) : frameLong (faultFrame f i free) 0x08 = i.ea :=
  long_of_field (faultFields_row f i free) (faultFields_ea hc)

theorem faultFrame_fa : frameLong (faultFrame f i free) 0x14 = f.fa := long_of_field (faultFields_row f i free) (n := 5) rfl

theorem extractLsb'_zeroExtend_word (v : Word) : (v.zeroExtend 32).extractLsb' 0 16 = v := BitVec.eq_of_toNat_eq (by
  have := v.isLt
  simp only [BitVec.extractLsb'_toNat, BitVec.toNat_setWidth, Nat.shiftRight_zero]
  omega)

/-- The special status word but for its undefined bit 7. -/
theorem sswOf_defined (hc : i.ctFree = false) (free : Long) : sswOf f i free &&& 0xFF7F =
    i.cont ++ BitVec.ofBool f.ma ++ BitVec.ofBool f.atc ++ BitVec.ofBool f.lk ++ BitVec.ofBool f.read ++ 0#1 ++ f.size ++
      f.tt ++ f.tm := by
  refine BitVec.eq_of_getLsbD_eq fun k hk => ?_
  simp only [sswOf, hc, Bool.false_eq_true, if_false, BitVec.getLsbD_and, BitVec.getLsbD_append]
  interval_cases k <;> simp

theorem faultFrame_ssw (hc : i.ctFree = false) : frameWord (faultFrame f i free) 0x0C &&& 0xFF7F =
    i.cont ++ BitVec.ofBool f.ma ++ BitVec.ofBool f.atc ++ BitVec.ofBool f.lk ++ BitVec.ofBool f.read ++ 0#1 ++ f.size ++
      f.tt ++ f.tm := by
  have hword : frameWord (faultFrame f i free) 0x0C = sswOf f i (free.getD 1 0) :=
    (word_of_field (faultFields_row f i free) (n := 1) rfl).trans (extractLsb'_zeroExtend_word _)
  rw [hword, sswOf_defined hc]

theorem wbStatus_word (w : Write) :
    (wbStatus w).extractLsb' 0 16 = 0#8 ++ 1#1 ++ sizeCode w.bytes.length ++ w.acc.tt ++ w.acc.tm := by
  refine BitVec.eq_of_getLsbD_eq fun k hk => ?_
  simp only [wbStatus, BitVec.getLsbD_extractLsb', BitVec.getLsbD_setWidth, BitVec.getLsbD_append]
  interval_cases k <;> simp

/-- What the frame shows of a write in its write-back `k + 1`. -/
theorem faultFrame_status (hk : k < 3) (hw : f.writeBack i.writes k = some w) : frameWord (faultFrame f i free) (0x12 - 2 * k) =
    0#8 ++ 1#1 ++ sizeCode w.bytes.length ++ w.acc.tt ++ w.acc.tm :=
  (word_of_field (faultFields_row f i free) (faultFields_status hk hw)).trans (wbStatus_word w)

theorem faultFrame_addr (hk : k < 3) (hpos : 0 < k) (hw : f.writeBack i.writes k = some w) :
    frameLong (faultFrame f i free) (0x28 - 8 * k) = w.addr :=
  long_of_field (faultFields_row f i free) (faultFields_addr hk hpos hw)

theorem faultFrame_data (hk : k < 3) (hpos : 0 < k) (hlen : w.bytes.length ≤ 4) (hw : f.writeBack i.writes k = some w) :
    frameSlice (faultFrame f i free) (0x30 - 8 * k - w.bytes.length) w.bytes.length = w.bytes := by
  have hslice := slice_wbData (faultFields_row f i free) hlen (faultFields_data hk hpos hw)
  rwa [show 0x2C - 8 * k + 4 = 0x30 - 8 * k by omega] at hslice

/-- A write-back that is not pending has V clear; the bits below are those of the idle status. -/
theorem faultFrame_idle (hk : k < 3) (hw : f.writeBack i.writes k = none) :
    frameWord (faultFrame f i free) (0x12 - 2 * k) = (f.idleStatus k (free.getD (11 + k) 0)).extractLsb' 0 16 :=
  word_of_field (faultFields_row f i free) (faultFields_idle hk hw)

theorem idleStatus_clear (f : AccessFault) (k : Nat) (free : Long) : (f.idleStatus k free).extractLsb' 0 16 &&& 0xFF80 = 0 := by
  unfold AccessFault.idleStatus
  split
  · rfl
  · refine BitVec.eq_of_getLsbD_eq fun j hj => ?_
    rw [BitVec.getLsbD_and, BitVec.getLsbD_extractLsb', BitVec.getLsbD_and]
    interval_cases j <;> simp

theorem idleStatus_zero (h : f.isFetch = true ∨ k = 0 ∧ (f.read = true ∨ f.push.isSome = true)) (free : Long) :
    (f.idleStatus k free).extractLsb' 0 16 = 0 := by
  have hzero : (f.isFetch || (k == 0 && (f.read || f.push.isSome || f.tt == 1))) = true := by
    rcases h with h | ⟨rfl, h | h⟩ <;> simp [h]
  rw [AccessFault.idleStatus, if_pos hzero]
  rfl

/-! ### An operand access -/

/-- The fault is of an operand: no push, no line of a MOVE16 that is written. -/
def AccessFault.OfOperand (f : AccessFault) : Prop := f.push = none ∧ (f.tt ≠ 1 ∨ f.read = true)

theorem AccessFault.OfOperand.no_line (h : f.OfOperand) : (f.tt = 1#2 ∧ f.read = false) = False :=
  eq_false fun ⟨htt, hread⟩ => h.2.elim (fun hne => hne htt) fun hr => Bool.false_ne_true (hread.symm.trans hr)

theorem AccessFault.OfOperand.writeBack (h : f.OfOperand) (ws : List Write) (k : Nat) : f.writeBack ws k = ws[k]? := by
  simp [AccessFault.writeBack, h.1, h.no_line]

theorem faultFields_wb1 (h : f.OfOperand) (hw : i.writes[0]? = some w) :
    (faultFields f i free)[10]? = some ⟨0x28, 4, w.addr⟩ ∧
      (faultFields f i free)[11]? = some ⟨0x2C, 4, wb1Data w (free.getD 5 0)⟩ := by
  have hwb := h.writeBack i.writes 0
  rw [hw] at hwb
  simp [faultFields, h.1, h.no_line, hwb]

/-! ### A push -/

theorem writeBack_push {p : PushFault} (hp : f.push = some p) (ws : List Write) :
    f.writeBack ws 0 = none ∧ ∀ k, f.writeBack ws (k + 1) = ws[k]? := by
  have hsome : f.push.isSome = true := by rw [hp]; rfl
  exact ⟨by rw [AccessFault.writeBack, if_pos hsome, if_pos rfl],
    fun k => by rw [AccessFault.writeBack, if_pos hsome, if_neg (Nat.succ_ne_zero k)]; rfl⟩

theorem faultFields_push {p : PushFault} (hp : f.push = some p) :
    (faultFields f i free)[10]? = some ⟨0x28, 4, f.fa⟩ ∧
      (faultFields f i free)[11]? = some ⟨0x2C, 4, p.data.extractLsb' 96 32⟩ ∧
      (p.line = true → (faultFields f i free)[12]? = some ⟨0x30, 4, p.data.extractLsb' 64 32⟩ ∧
        (faultFields f i free)[13]? = some ⟨0x34, 4, p.data.extractLsb' 32 32⟩ ∧
        (faultFields f i free)[14]? = some ⟨0x38, 4, p.data.extractLsb' 0 32⟩) := by
  refine ⟨by simp [faultFields, hp], by simp [faultFields, hp], fun hl => ?_⟩
  simp [faultFields, hp, hl]

/-- The frame shows the data of the push, a line or a long word. -/
theorem faultFrame_push {p : PushFault} (hp : f.push = some p) :
    frameSlice (faultFrame f i free) 0x2C p.bytes.length = p.bytes := by
  have hrow := faultFields_row f i free
  obtain ⟨-, h0, hline⟩ := faultFields_push (i := i) (free := free) hp
  cases hl : p.line with
  | true =>
    obtain ⟨h1, h2, h3⟩ := hline hl
    have hbytes : p.bytes = bytesOfLine p.data 16 := by rw [PushFault.bytes, hl]; rfl
    rw [hbytes, bytesOfLine_length, show 16 = 4 + 4 + 4 + 4 from rfl, frameSlice_append _ (by decide),
      frameSlice_append _ (by decide), frameSlice_append _ (by decide), bytesOfLine_longs]
    exact congrArg₂ (· ++ ·) (congrArg₂ (· ++ ·) (congrArg₂ (· ++ ·) (slice_long hrow h0) (slice_long hrow h1))
      (slice_long hrow h2)) (slice_long hrow h3)
  | false =>
    have hbytes : p.bytes = toBytes (p.data.extractLsb' 96 32) 4 := by
      rw [PushFault.bytes, hl, bytesOfLine_longs, List.append_assoc, List.append_assoc]
      exact List.take_left' (toBytes_length _ _)
    rw [hbytes, toBytes_length]
    exact slice_long hrow h0

/-! ### The obligation -/

/-- Settles O13: the abort, the write that faults, and the frame. -/
theorem readFaultLeavesTheRegisters : Obligations.ReadFaultLeavesTheRegisters := by
  unfold Obligations.ReadFaultLeavesTheRegisters
  refine ⟨?_, ?_, ?_⟩
  · intro s u ea dn f p hp hread waits
    obtain ⟨hwaits, hfaults⟩ : (waits → exec p.1 s = .next { s with mem := u.mem }) ∧
        (¬ waits → exec p.1 s = .next (accessError { s with mem := u.mem } f FaultInfo.none s.pc)) := by
      simp only [List.mem_cons, List.not_mem_nil, or_false] at hp
      obtain rfl | rfl | rfl | rfl | rfl | rfl | rfl | rfl := hp <;> exact read_faults rfl hread
    exact ⟨hwaits, fun hw => ⟨_, hfaults hw, rfl, accessError_keeps s u.mem f FaultInfo.none s.pc⟩⟩
  · intro s u u' w src dst l v x f p hp hread heval
    simp only [List.mem_cons, List.not_mem_nil, or_false] at hp
    obtain rfl | rfl | rfl := hp <;> exact moveEa_faults rfl hread heval
  · intro s f i spc h hlen
    have hlen (k : Nat) {w : Write} (hw : i.writes[k]? = some w) : w.bytes.length ≤ 4 := hlen w (List.mem_of_getElem? hw)
    refine ⟨_, faultFields_length _ _ _, accessError_takes h f i spc, ?_⟩
    intro bytes long word
    refine ⟨faultFrame_ea, faultFrame_ssw, faultFrame_fa, fun hpush htt => ?_, fun p hp => ?_⟩
    · have hof : f.OfOperand := ⟨hpush, htt⟩
      refine ⟨fun k hk => ?_, fun w hw => ?_, fun k hk hpos w hw => ?_⟩
      · have hwb := hof.writeBack i.writes k
        split <;> rename_i hw <;> rw [hw] at hwb
        · exact faultFrame_status hk hwb
        · have hidle := faultFrame_idle (free := (s.mem.drawLongs 14).1) hk hwb
          exact ⟨(congrArg (· &&& 0xFF80) hidle).trans (idleStatus_clear f k _), fun hz => hidle.trans (idleStatus_zero
            (hz.elim (fun ⟨h0, hr⟩ => .inr ⟨h0, .inl hr⟩) .inl) _)⟩
      · obtain ⟨haddr, hdata⟩ := faultFields_wb1 (free := (s.mem.drawLongs 14).1) hof hw
        exact ⟨long_of_field (faultFields_row f i _) haddr,
          fun j hj => slice_wb1Data (faultFields_row f i _) (hlen 0 hw) hdata hj⟩
      · have hwb := (hof.writeBack i.writes k).trans hw
        exact ⟨faultFrame_addr hk hpos hwb, faultFrame_data hk hpos (hlen k hw) hwb⟩
    · obtain ⟨hnone, hrest⟩ := writeBack_push hp i.writes
      have hsome : f.push.isSome = true := by rw [hp]; rfl
      refine ⟨(faultFrame_idle (by decide) hnone).trans (idleStatus_zero (.inr ⟨rfl, .inr hsome⟩) _),
        long_of_field (faultFields_row f i _) (faultFields_push hp).1, faultFrame_push hp, fun k hk => ?_⟩
      have hnext : k + 1 < 3 := by omega
      have hoff : 0x10 - 2 * k = 0x12 - 2 * (k + 1) := by omega
      split <;> rename_i hw
      · have hwb := (hrest k).trans hw
        refine ⟨hoff ▸ faultFrame_status hnext hwb, ?_, ?_⟩
        · rw [show 0x20 - 8 * k = 0x28 - 8 * (k + 1) by omega]
          exact faultFrame_addr hnext (Nat.succ_pos k) hwb
        · rw [show 0x28 - 8 * k = 0x30 - 8 * (k + 1) by omega]
          exact faultFrame_data hnext (Nat.succ_pos k) (hlen k hw) hwb
      · rw [hoff]
        exact (congrArg (· &&& 0xFF80) (faultFrame_idle hnext ((hrest k).trans hw))).trans (idleStatus_clear f (k + 1) _)

end Sys2Proof.Machine
end
